-- ==== Sys2Proof/Word.lean ====
section
/-! DEFINITION. The words the part exchanges with its controllers, and `Table n α`: the plain data that
holds one record for each of `n` numbered things (lines, positions, keys, ports). -/

namespace Sys2Proof

/-- One byte of a request or response frame (R172). -/
abbrev Byte := BitVec 8

/-- A two-byte value of a request or response frame, high byte first on the wire (R172). -/
abbrev Half := BitVec 16

/-- An audio sample: 16-bit two's complement (R114). -/
abbrev Sample := BitVec 16

/-- `n` records of one type, numbered 0 to `n - 1`. -/
structure Table (n : Nat) (α : Type) where
  items : List α
  length_eq : items.length = n
deriving DecidableEq, Repr

/-- The record numbered `i`. -/
def Table.get {n : Nat} {α : Type} (t : Table n α) (i : Fin n) : α :=
  t.items[i.val]'(by rw [t.length_eq]; exact i.isLt)

/-- The table with record `i` replaced. -/
def Table.set {n : Nat} {α : Type} (t : Table n α) (i : Fin n) (a : α) : Table n α :=
  ⟨t.items.set i.val a, by rw [List.length_set, t.length_eq]⟩

/-- The table whose record `i` is `f i`. -/
def Table.ofFn {n : Nat} {α : Type} (f : Fin n → α) : Table n α :=
  ⟨List.ofFn f, List.length_ofFn⟩

/-- The table whose records are all `a`. -/
def Table.fill (n : Nat) {α : Type} (a : α) : Table n α :=
  ⟨List.replicate n a, List.length_replicate⟩

/-- Every record changed by `f`. -/
def Table.map {n : Nat} {α β : Type} (f : α → β) (t : Table n α) : Table n β :=
  ⟨t.items.map f, by rw [List.length_map, t.length_eq]⟩

/-- Record `i` changed by `f`. -/
def Table.modify {n : Nat} {α : Type} (t : Table n α) (i : Fin n) (f : α → α) : Table n α :=
  t.set i (f (t.get i))

/-- The lowest number whose record satisfies `q`. -/
def Table.findLowest {n : Nat} {α : Type} (t : Table n α) (q : α → Bool) : Option (Fin n) :=
  match t.items.findIdx? q with
  | some i => if h : i < n then some ⟨i, h⟩ else none
  | none => none

/-- The numbers 0 to `n - 1` in ascending order. -/
def ascending (n : Nat) : List (Fin n) := List.finRange n

/-- A natural number as one byte of a frame. -/
def byteOf (n : Nat) : Byte := BitVec.ofNat 8 n

/-- A natural number as the two bytes of a frame, high byte first (R172). -/
def halfBytes (n : Nat) : List Byte := [byteOf (n / 256), byteOf n]

/-- A flag as the byte 0 (off) or 1 (on) (R172). -/
def flagByte (b : Bool) : Byte := if b then 1 else 0

/-- The byte 255 that stands for an absent field in response data (R172). -/
def absentByte : Byte := 255

end Sys2Proof
end

