-- ==== Sys2Proof/Syntax.lean ====
section
/-! DEFINITION. The commands of the part: one constructor of `Instr` for each row of opcode_table.json, with
the row's operands. A request from a controller port carries its port and its argument bytes in the order of
the request catalogue (R173); an event carries what the interface hands over. -/

namespace Sys2Proof

/-- Lines 0 to 159. -/
abbrev LineId := Fin 160
/-- Dealer positions 0 to 31; turret link TLn serves position n. -/
abbrev PositionId := Fin 32
/-- Appearance keys 0 to 63 of one position. -/
abbrev Key := Fin 64
/-- Speaker channels S0 to S7 of one position. -/
abbrev ChannelId := Fin 8
/-- Intercom groups 0 to 15. -/
abbrev GroupId := Fin 16
/-- Controller ports C0 to C3. -/
abbrev Port := Fin 4
/-- Volume knobs 0 and 1 of one position. -/
abbrev KnobId := Fin 2
/-- The 72 lamps of a position: key lamps 0 to 63, then the channel lamps S0 to S7 as 64 to 71 (R60, R175). -/
abbrev LampId := Fin 72

/-- The two handsets of a position. -/
inductive Handset where
  | h0
  | h1
deriving DecidableEq, Repr

/-- A hookswitch, in the order R32 names its values. -/
inductive Hook where
  | on
  | off
deriving DecidableEq, Repr

/-- The function keys of a turret, in the order of their codes (R35, R173). -/
inductive Func where
  | hold
  | release
  | answer
  | privacy
  | selectH0
  | selectH1
  | ringSilence
  | spkMute
  | spkTalk
deriving DecidableEq, Repr

/-- The far-end signals of one line: ring detect, far loop, line fault. -/
structure Signals where
  rd : Bool
  fl : Bool
  lf : Bool
deriving DecidableEq, Repr

/-- What a line card puts into one timeslot of a highway frame (R158). -/
structure Timeslot where
  sample : Sample
  signals : Signals
  equipped : Bool
deriving DecidableEq, Repr

/-- One control event of an inbound turret frame (R154). `unknown` is an event of a kind the interface does
not know. -/
inductive TurretEvent where
  | key (key : Key) (down : Bool)
  | func (function : Func) (channel : Byte) (down : Bool)
  | hook (handset : Handset) (now : Hook)
  | knob (knob : Byte) (a b : Bool)
  | announce (keyCount knobCount : Byte)
  | unknown
deriving DecidableEq, Repr

/-- One inbound turret frame: bad, or valid with its three microphone samples (H0, H1, talkback) and its
control events in order (R151). -/
inductive TurretFrame where
  | bad
  | valid (mic0 mic1 talkback : Sample) (events : List TurretEvent)
deriving DecidableEq, Repr

/-- The commands of the part, in the order of opcode_table.json. -/
inductive Instr where
  | powerOnReset (quiet mnt : Bool)
  | lineConfigure (port : Port) (line cls barge ringdown : Byte)
  | lineService (port : Port) (line direction : Byte)
  | lineStatusRead (port : Port) (line : Byte)
  | lineClearMissed (port : Port) (line : Byte)
  | keyInject (port : Port) (position kind code channel direction : Byte)
  | positionConfigure (port : Port) (position switchAway answerOnLift handsetStep ringerStep : Byte) (tone : Half)
  | positionStatusRead (port : Port) (position : Byte)
  | groupDefine (port : Port) (group talkerLimit floorLimit : Byte)
  | groupUndefine (port : Port) (group : Byte)
  | memberAdd (port : Port) (group position cls : Byte)
  | memberRemove (port : Port) (group position : Byte)
  | groupStatusRead (port : Port) (group : Byte)
  | planSet (port : Port) (position channel sourceKind sourceNumber level loudspeaker talkback : Byte)
  | planPosition (port : Port) (position duckDepth knobFloor : Byte)
  | mixApply (port : Port) (position : Byte)
  | speakerStatusRead (port : Port) (position : Byte)
  | speakersResume (port : Port)
  | levelRead (port : Port) (subjectKind number : Byte)
  | pageLoad (port : Port) (page slot kind target attributes : Byte)
  | pageCommit (port : Port) (page : Byte)
  | pageDiscard (port : Port)
  | guardSet (port : Port) (position guard : Byte)
  | entryRead (port : Port) (position key : Byte)
  | positionWipe (port : Port) (position : Byte) (mnt : Bool)
  | portReset (port : Port) (tag : Byte)
  | setParameter (port : Port) (parameter : Byte) (value : Half)
  | parameterRead (port : Port)
  | noticeSetup (port : Port) (mask threshold : Byte) (ageLimit : Half)
  | noticeRead (port : Port) (count : Byte)
  | requestFrame (port : Port) (bytes : List Byte)
  | malformedFrame (port : Port) (bytes : List Byte)
  | statusPoll (port : Port) (bytes : List Byte)
  | pureRead (port : Port) (bytes : List Byte)
  | resultReturn (port : Port)
  | keyDown (position : PositionId) (key : Key)
  | hold (position : PositionId)
  | release (position : PositionId)
  | answer (position : PositionId)
  | privacy (position : PositionId)
  | selectH0 (position : PositionId)
  | selectH1 (position : PositionId)
  | ringSilence (position : PositionId)
  | spkMute (position : PositionId) (channel : ChannelId)
  | spkTalkDown (position : PositionId) (channel : ChannelId)
  | spkTalkUp (position : PositionId) (channel : ChannelId)
  | hookOn (position : PositionId) (handset : Handset)
  | hookOff (position : PositionId) (handset : Handset)
  | knob (position : PositionId) (knob : KnobId) (a b : Bool)
  | turretFrame (position : PositionId) (frame : TurretFrame)
  | announce (position : PositionId) (keyCount knobCount : Byte)
  | lossTimerExpiry (position : PositionId)
  | linkUpAttach (position : PositionId)
  | highwayFrame (slots : Table 160 Timeslot)
  | signalChange (line : LineId) (now : Signals)
  | burstExpiry (line : LineId)
  | answerWaitExpiry (line : LineId)
  | holdExpiry (line : LineId)
  | recallExpiry (line : LineId)
  | guardExpiry (line : LineId)
  | denyTimerExpiry (position : PositionId) (lamp : LampId)
  | cadenceTimerExpiry (position : PositionId)
  | floorTimerExpiry (group : GroupId) (position : PositionId)
  | ageTimerExpiry (port : Port)
  | quietAsserted
  | quietDeasserted
  | samplePeriod
deriving DecidableEq, Repr

end Sys2Proof
end

