-- ==== Sys2Proof/Decode.lean ====
section
/-! DEFINITION. What the part reads from bits: the judgement of a transfer on a controller port (R164), the
request catalogue (R173) in both directions, and `decodeTableWord`. The rows of opcode_table.json give no bits,
so no word spells a command and `decodeTableWord` answers none. -/

namespace Sys2Proof

/-- What the bytes of one transfer are (R164). -/
inductive Transfer where
  | statusPoll
  | pureRead
  | malformed
  | request (tag number : Byte) (args : List Byte)
deriving DecidableEq, Repr

/-- The frame length: two bytes, high byte first (R164). -/
def frameLength (hi lo : Byte) : Nat := hi.toNat * 256 + lo.toNat

/-- The judgement of R164 on the whole bytes received between the two edges of chip select. Bytes after the end
of a request frame are ignored. -/
def judgeTransfer : List Byte → Transfer
  | [] => .statusPoll
  | [_] => .statusPoll
  | hi :: lo :: rest =>
    let n := frameLength hi lo
    if n = 0 then .pureRead
    else if n = 1 then .malformed
    else if rest.length < n then .malformed
    else
      match rest.take n with
      | tag :: number :: args => .request tag number args
      | _ => .malformed

/-- The number of argument bytes of request `number` in the request catalogue (R173); none for a number that is
not in it. -/
def catalogueArgs : Nat → Option Nat
  | 1 => some 4 | 2 => some 2 | 3 => some 1 | 4 => some 1 | 5 => some 5 | 6 => some 7 | 7 => some 1
  | 8 => some 3 | 9 => some 1 | 10 => some 3 | 11 => some 2 | 12 => some 1 | 13 => some 7 | 14 => some 3
  | 15 => some 1 | 16 => some 1 | 17 => some 0 | 18 => some 2 | 19 => some 5 | 20 => some 1 | 21 => some 0
  | 22 => some 2 | 23 => some 2 | 24 => some 1 | 25 => some 0 | 26 => some 3 | 27 => some 0 | 28 => some 4
  | 29 => some 1
  | _ => none

/-- The request number of PORT RESET (R173). -/
def portResetNumber : Nat := 25

/-- The request number of NOTICE READ (R173). -/
def noticeReadNumber : Nat := 29

/-- The command by which the owning block takes a request that port `c` has passed on (R165, R173). `mnt` is the
level of the MNT input as a POSITION WIPE is taken; `tag` the tag of the frame, which PORT RESET answers with. -/
def requestCommand (c : Port) (tag : Byte) (mnt : Bool) : Nat → List Byte → Option Instr
  | 1, [l, k, b, r] => some (.lineConfigure c l k b r)
  | 2, [l, d] => some (.lineService c l d)
  | 3, [l] => some (.lineStatusRead c l)
  | 4, [l] => some (.lineClearMissed c l)
  | 5, [p, k, code, ch, d] => some (.keyInject c p k code ch d)
  | 6, [p, sw, al, hs, rs, hi, lo] => some (.positionConfigure c p sw al hs rs (hi ++ lo))
  | 7, [p] => some (.positionStatusRead c p)
  | 8, [g, t, f] => some (.groupDefine c g t f)
  | 9, [g] => some (.groupUndefine c g)
  | 10, [g, p, k] => some (.memberAdd c g p k)
  | 11, [g, p] => some (.memberRemove c g p)
  | 12, [g] => some (.groupStatusRead c g)
  | 13, [p, n, sk, sn, lv, ls, tb] => some (.planSet c p n sk sn lv ls tb)
  | 14, [p, d, f] => some (.planPosition c p d f)
  | 15, [p] => some (.mixApply c p)
  | 16, [p] => some (.speakerStatusRead c p)
  | 17, [] => some (.speakersResume c)
  | 18, [k, n] => some (.levelRead c k n)
  | 19, [pg, sl, k, t, a] => some (.pageLoad c pg sl k t a)
  | 20, [pg] => some (.pageCommit c pg)
  | 21, [] => some (.pageDiscard c)
  | 22, [p, g] => some (.guardSet c p g)
  | 23, [p, k] => some (.entryRead c p k)
  | 24, [p] => some (.positionWipe c p mnt)
  | 25, [] => some (.portReset c tag)
  | 26, [n, hi, lo] => some (.setParameter c n (hi ++ lo))
  | 27, [] => some (.parameterRead c)
  | 28, [m, t, hi, lo] => some (.noticeSetup c m t (hi ++ lo))
  | 29, [n] => some (.noticeRead c n)
  | _, _ => none

/-- The request number and argument bytes of a request command, as its frame carries them (R173); none for a
command that is no request. -/
def requestBytes : Instr → Option (Nat × List Byte)
  | .lineConfigure _ l k b r => some (1, [l, k, b, r])
  | .lineService _ l d => some (2, [l, d])
  | .lineStatusRead _ l => some (3, [l])
  | .lineClearMissed _ l => some (4, [l])
  | .keyInject _ p k code ch d => some (5, [p, k, code, ch, d])
  | .positionConfigure _ p sw al hs rs t =>
    some (6, [p, sw, al, hs, rs, t.extractLsb' 8 8, t.extractLsb' 0 8])
  | .positionStatusRead _ p => some (7, [p])
  | .groupDefine _ g t f => some (8, [g, t, f])
  | .groupUndefine _ g => some (9, [g])
  | .memberAdd _ g p k => some (10, [g, p, k])
  | .memberRemove _ g p => some (11, [g, p])
  | .groupStatusRead _ g => some (12, [g])
  | .planSet _ p n sk sn lv ls tb => some (13, [p, n, sk, sn, lv, ls, tb])
  | .planPosition _ p d f => some (14, [p, d, f])
  | .mixApply _ p => some (15, [p])
  | .speakerStatusRead _ p => some (16, [p])
  | .speakersResume _ => some (17, [])
  | .levelRead _ k n => some (18, [k, n])
  | .pageLoad _ pg sl k t a => some (19, [pg, sl, k, t, a])
  | .pageCommit _ pg => some (20, [pg])
  | .pageDiscard _ => some (21, [])
  | .guardSet _ p g => some (22, [p, g])
  | .entryRead _ p k => some (23, [p, k])
  | .positionWipe _ p _ => some (24, [p])
  | .portReset _ _ => some (25, [])
  | .setParameter _ n v => some (26, [n, v.extractLsb' 8 8, v.extractLsb' 0 8])
  | .parameterRead _ => some (27, [])
  | .noticeSetup _ m t v => some (28, [m, t, v.extractLsb' 8 8, v.extractLsb' 0 8])
  | .noticeRead _ n => some (29, [n])
  | .powerOnReset _ _ | .requestFrame _ _ | .malformedFrame _ _ | .statusPoll _ _ | .pureRead _ _
  | .resultReturn _ | .keyDown _ _ | .hold _ | .release _ | .answer _ | .privacy _ | .selectH0 _
  | .selectH1 _ | .ringSilence _ | .spkMute _ _ | .spkTalkDown _ _ | .spkTalkUp _ _ | .hookOn _ _
  | .hookOff _ _ | .knob _ _ _ _ | .turretFrame _ _ | .announce _ _ _ | .lossTimerExpiry _
  | .linkUpAttach _ | .highwayFrame _ | .signalChange _ _ | .burstExpiry _ | .answerWaitExpiry _
  | .holdExpiry _ | .recallExpiry _ | .guardExpiry _ | .denyTimerExpiry _ _ | .cadenceTimerExpiry _
  | .floorTimerExpiry _ _ | .ageTimerExpiry _ | .quietAsserted | .quietDeasserted | .samplePeriod => none

/-- The request frame, as the bytes of one transfer, that carries request `number` with `args` under `tag`
(R164). -/
def frameBytes (tag : Byte) (number : Nat) (args : List Byte) : List Byte :=
  halfBytes (args.length + 2) ++ tag :: byteOf number :: args

/-- The command that a word of the opcode table spells. Every row of the table is a command or an event without
bits of its own, so there is none (log entry 1). -/
def decodeTableWord (_nbits _w : Nat) : Option Instr := none

end Sys2Proof
end

