-- ==== Sys2Proof/Config.lean ====
section
/-! DEFINITION. What is fixed in the part, and the free values of the model: constants without a body that
stand for values the manual leaves open. -/

namespace Sys2Proof.Config

/-- The term budget of the Mixing Engine (R124, R125). -/
def termBudget : Nat := 768

/-- The terms of the ringers of the 32 positions, always counted (R124). -/
def ringerTerms : Nat := 32

/-- The most parties one line holds (R2). -/
def maxParties : Nat := 8

/-- The most notices one queue holds (R177). -/
def maxNotices : Nat := 32

/-- The most entries a group's waiting queue holds (R75). -/
def maxWaiting : Nat := 8

/-- The most members a group holds (R74). -/
def maxMembers : Nat := 32

/-- Sample periods in one millisecond: 8000 a second (R113). -/
def periodsPerMs : Nat := 8

/-- Sample periods in one 10 ms tick of the Timebase, the unit of a remaining time (R172). -/
def periodsPerTick : Nat := 80

/-- How long a deny display lasts, in milliseconds (R53). -/
def denyMs : Nat := 1000

/-- How long a link may go without a valid frame, in milliseconds (R151, R153). -/
def lossMs : Nat := 50

/-- The amplitude of the ringer tone (R72). -/
def toneAmplitude : Int := 8192

/-- The least and the greatest sample (R118). -/
def sampleMin : Int := -32768
def sampleMax : Int := 32767

/-- FREE VALUE (log entry 2). The byte by which POSITION STATUS READ gives a negative knob residue: R58 puts
the residue in the response, and R172 gives an encoding for the numbers 0 to 255 alone. Nothing is known of it. -/
opaque negativeResidueByte : Int → Byte

end Sys2Proof.Config
end

