-- ==== Sys2Proof/Machine/State.lean ====
section
/-! DEFINITION. The state of the part: every record, queue, timer, flag, pin and output the manual gives it, as
plain data, with its power-on values. Fields that are the model's own say so. -/

namespace Sys2Proof.Machine

/-! ### Values shared by several blocks -/

/-- A party's path, a talker's mic source: a handset or a speaker channel, coded H0 0, H1 1, S0 to S7 as 2 to 9 (R2, R73, R172). -/
inductive Path where
  | handset (h : Handset)
  | channel (n : ChannelId)
deriving DecidableEq, Repr

/-- The target of a directory entry, the content of a slot, the source of a channel. -/
inductive Source where
  | line (l : LineId)
  | group (g : GroupId)
deriving DecidableEq, Repr

/-- A position and one of its keys: a hold owner (R1), the subject of a binding report (R134). -/
structure KeyRef where
  position : PositionId
  key : Key
deriving DecidableEq, Repr

/-- Who placed a key or function-key event: the turret or KEY INJECT (R36, R53). -/
inductive Origin where
  | turret
  | inject
deriving DecidableEq, Repr

/-- The level steps 0 to 27 (R115). -/
abbrev Step := Fin 28

/-- The result codes of R174, in the order of their codes. -/
inductive ResultCode where
  | ok | clamped | noChange | left | released | talker | waiting
  | unknownRequest | badArg | mixFull | linkDown | notPermitted | inUse | notDefined | notMember
  | alreadyDefined | groupFull | floorFull | pageMismatch | guarded | quietAsserted
  | lineGuard | lineFault | lineOutOfService | lineHeld | alreadyParty | deniedClosed | deniedPrivate | noBarge
  | lineFull | heldPrivate | noPickup | notParty | notPrincipal
  | emptyKey | noLine | nothingRinging | noTalkback | noSource
deriving DecidableEq, Repr

/-! ### The Line Table (R1, R2) -/

inductive LineState where
  | idle | ringing | calling | active | held | recall | guard | fault | outOfService
deriving DecidableEq, Repr

inductive LineClass where
  | normal
  | priority
deriving DecidableEq, Repr

inductive BargePolicy where
  | openPolicy
  | closed
deriving DecidableEq, Repr

inductive Ringdown where
  | auto
  | none
deriving DecidableEq, Repr

inductive JoinedBy where
  | key
  | inject
  | plan
deriving DecidableEq, Repr

/-- One party of a line (R2). -/
structure Party where
  position : PositionId
  path : Path
  key : Option Key
  talkCapable : Bool
  talking : Bool
  joinedBy : JoinedBy
deriving DecidableEq, Repr

/-- The purposes of a running line timer (R5); the purpose NONE is the absence of a timer. -/
inductive LinePurpose where
  | burst | answerWait | hold | recall | guard
deriving DecidableEq, Repr

/-- A running line timer: its purpose and the clock value at which its duration has passed. -/
structure LineTimer where
  purpose : LinePurpose
  due : Nat
deriving DecidableEq, Repr

/-- One line record (R1). Its principal is the first handset party of the list (R3) and is not stored twice. -/
structure Line where
  state : LineState
  parties : List Party
  privacy : Bool
  holdOwner : Option KeyRef
  privateHold : Bool
  timer : Option LineTimer
  burstCount : Nat
  unanswered : Bool
  missed : Nat
  signals : Signals
  sz : Bool
  rg : Bool
  cls : LineClass
  barge : BargePolicy
  ringdown : Ringdown
deriving DecidableEq, Repr

/-! ### The Position Table (R32) and the ringer (R69, R72) -/

/-- The content of a filled slot: a line or group and the key it was taken through (R33). -/
structure Held where
  source : Source
  key : Key
deriving DecidableEq, Repr

structure HandsetRecord where
  hook : Hook
  slot : Option Held
deriving DecidableEq, Repr

inductive SwitchAway where
  | hold
  | release
deriving DecidableEq, Repr

inductive RingerTone where
  | hz400 | hz500 | hz800 | hz1000
deriving DecidableEq, Repr

inductive RingKind where
  | ring
  | recall
deriving DecidableEq, Repr

/-- One entry of a ring queue (R50). -/
structure RingEntry where
  line : LineId
  key : Key
  kind : RingKind
  cls : LineClass
deriving DecidableEq, Repr

/-- A running cadence timer: whether it times the on-phase, and when it is due. -/
structure Cadence where
  onPhase : Bool
  due : Nat
deriving DecidableEq, Repr

/-- The ringer of a position: the silenced flag, the cadence phase with its timer (absent while the timer is
cancelled), and the ring-tone phase that the Mixing Engine keeps for the position (R69, R72, R122). -/
structure Ringer where
  silenced : Bool
  cadence : Option Cadence
  tonePhase : Nat
deriving DecidableEq, Repr

/-- A knob's last phase pair and its residue (R32, R108). -/
structure KnobState where
  a : Bool
  b : Bool
  residue : Int
deriving DecidableEq, Repr

/-- A turret's key layout: 32 or 64 keys. -/
inductive Layout where
  | keys32
  | keys64
deriving DecidableEq, Repr

/-- One position record (R32). A deny display is present while its lamp's entry holds the clock value at which
the deny timer is due. -/
structure Position where
  linkUp : Bool
  layout : Layout
  h0 : HandsetRecord
  h1 : HandsetRecord
  selected : Handset
  switchAway : SwitchAway
  answerOnLift : Bool
  handsetStep : Step
  ringerStep : Step
  ringerTone : RingerTone
  ringQueue : List RingEntry
  ringer : Ringer
  knob0 : KnobState
  knob1 : KnobState
  deny : Table 72 (Option Nat)
deriving DecidableEq, Repr

/-! ### The Lamp Unit (R59, R65) -/

inductive LampCode where
  | off | greenSteady | greenSlow | greenFast | greenWink | redSteady | redSlow | redFast | redWink
  | amberSteady | amberFast | deny
deriving DecidableEq, Repr

/-- The lamp image of a position: the last code sent for each lamp, and the stale mark. -/
structure LampImage where
  image : Table 72 LampCode
  stale : Bool
deriving DecidableEq, Repr

/-! ### The Intercom Unit (R73) -/

structure Member where
  position : PositionId
  cls : LineClass
deriving DecidableEq, Repr

/-- A talker entry; `due` is absent when no floor timer runs (R76). -/
structure Talker where
  position : PositionId
  source : Path
  due : Option Nat
deriving DecidableEq, Repr

structure Waiter where
  position : PositionId
  source : Path
  cls : LineClass
deriving DecidableEq, Repr

/-- One group record (R73). The floor limit is in seconds, 0 for none. -/
structure Group where
  defined : Bool
  talkerLimit : Nat
  floorLimit : Nat
  members : List Member
  talkers : List Talker
  waiting : List Waiter
deriving DecidableEq, Repr

/-! ### The Speaker Field (R93, R95, R110) -/

inductive Loudspeaker where
  | ls0
  | ls1
deriving DecidableEq, Repr

inductive Attach where
  | none | attached | waiting | listening
deriving DecidableEq, Repr

/-- One live channel (R93). `ptt` is true while the PTT is DOWN. -/
structure Channel where
  source : Option Source
  level : Step
  loudspeaker : Loudspeaker
  talkback : Bool
  mute : Bool
  ptt : Bool
  mustRelease : Bool
  attach : Attach
  waitReason : Option ResultCode
deriving DecidableEq, Repr

/-- One channel plan of a staged plan (R95). -/
structure ChannelPlan where
  source : Option Source
  level : Step
  loudspeaker : Loudspeaker
  talkback : Bool
deriving DecidableEq, Repr

/-- What the Speaker Field keeps for one position: live channels, staged plan, loudspeaker steps, duck depths and
knob floors (R93, R95). -/
structure Speaker where
  channels : Table 8 Channel
  plan : Table 8 ChannelPlan
  stagedDuck : Fin 13
  stagedFloor : Step
  duck : Fin 13
  knobFloor : Step
  step0 : Step
  step1 : Step
deriving DecidableEq, Repr

inductive Quiet where
  | off | on | holding
deriving DecidableEq, Repr

/-! ### The Mixing Engine (R124, R127) -/

/-- The four outputs of a position that are clamped, in the order CLIP notices take them (R127). -/
inductive PositionOutput where
  | h0 | h1 | ls0 | ls1
deriving DecidableEq, Repr

structure ClipFlags where
  h0 : Bool
  h1 : Bool
  ls0 : Bool
  ls1 : Bool
deriving DecidableEq, Repr

/-! ### The Appearance Directory (R129, R138, R144) -/

/-- A directory content (R129). -/
inductive Content where
  | empty
  | line (l : LineId) (ring barge pickup : Bool)
  | group (g : GroupId)
deriving DecidableEq, Repr

inductive ContentKind where
  | empty | line | group
deriving DecidableEq, Repr

structure Entry where
  content : Content
  pendingContent : Option Content
deriving DecidableEq, Repr

/-- A staging buffer (R138). -/
structure Staging where
  page : Option (Fin 128)
  slots : Table 16 (Option Content)
deriving DecidableEq, Repr

/-- A position guard (R144). -/
inductive Guard where
  | openGuard
  | owned (owner : Port)
  | ownedPrivate (owner : Port)
  | sealed
deriving DecidableEq, Repr

/-! ### Turret links (R150) and the line highway (R158, R159, R161) -/

inductive LinkState where
  | down | training | up
deriving DecidableEq, Repr

/-- One LAMP update (R65). -/
structure LampUpdate where
  lamp : LampId
  code : LampCode
deriving DecidableEq, Repr

/-- The three microphone samples of a position for the sample period (R155). -/
structure Mics where
  h0 : Sample
  h1 : Sample
  talkback : Sample
deriving DecidableEq, Repr

/-- One link record (R150) with the inputs that wait in the interface. `mics` are the samples of the frame that
arrived in the running period; `delivered` the control events of valid frames that the interface has handed on and
whose own commands have not been taken yet (R154); `attachDue` is on from link UP until the Speaker Field's attach
event (R102). The last two are the model's own (log entry 4). -/
structure Link where
  state : LinkState
  lossTimer : Option Nat
  layout : Option Layout
  knobCount : Nat
  lampQueue : List LampUpdate
  mics : Mics
  delivered : List TurretEvent
  attachDue : Bool
deriving DecidableEq, Repr

/-- The four samples of an outbound turret frame (R156). -/
structure PositionSamples where
  h0 : Sample
  h1 : Sample
  ls0 : Sample
  ls1 : Sample
deriving DecidableEq, Repr

/-- The outbound frame a turret link last sent (R150, R156, R157). -/
structure TurretOut where
  state : LinkState
  samples : PositionSamples
  updates : List LampUpdate
deriving DecidableEq, Repr

/-- What the Line Highway Interface keeps for a line: the last sampled signals (R159), the receive sample of the
last frame (R114, R158), and the signal change events handed to the Line Table whose SIGNAL_CHANGE has not been
taken yet (the model's own, log entry 4). -/
structure HighwayLine where
  last : Signals
  far : Sample
  handed : List Signals
deriving DecidableEq, Repr

/-- What the last outbound highway frame carried for a line: the nibble, with its other two positions, and the transmit
sample (R158, R161). -/
structure HighwayOut where
  sz : Bool
  rg : Bool
  third : Bool
  fourth : Bool
  sample : Sample
deriving DecidableEq, Repr

/-! ### Controller ports (R162) and floor parameters (R170) -/

inductive PortState where
  | idle | busy | ready
deriving DecidableEq, Repr

/-- A request that a port has passed to its owning block (R165). -/
structure InFlight where
  tag : Byte
  number : Byte
  args : List Byte
deriving DecidableEq, Repr

/-- A result with its data, as the owning block returns it (R166). -/
structure Answer where
  result : ResultCode
  data : List Byte
deriving DecidableEq, Repr

/-- One port record (R162). `inFlight` is the request passed on and not yet answered, `answer` the result an owning
block has returned and RESULT_RETURN has not yet taken, `dataOut` the whole bytes shifted out in the last transfer. -/
structure PortRecord where
  state : PortState
  slot : Option (List Byte)
  readPosition : Nat
  discard : Bool
  dropped : Bool
  malformed : Bool
  inFlight : Option InFlight
  answer : Option Answer
  dataOut : List Byte
deriving DecidableEq, Repr

/-- The seven floor parameters, in their units (R170). -/
structure Params where
  guardTime : Nat
  burstTime : Nat
  answerWait : Nat
  burstLimit : Nat
  holdRecall : Nat
  recallLimit : Nat
  quietAutoresume : Bool
deriving DecidableEq, Repr

/-! ### Notices (R175, R177) -/

inductive NoticeClass where
  | line | position | floor | directory | audio | system
deriving DecidableEq, Repr

inductive LossCause where
  | timeout
  | reannounce
deriving DecidableEq, Repr

/-- A notice as the raising block fills it: its kind, subject and detail (R175). -/
inductive NoticeBody where
  | lineState (line : LineId) (old new : LineState)
  | lineRing (line : LineId) (cls : LineClass)
  | lineMissed (line : LineId) (count : Nat)
  | lineUnanswered (line : LineId) (bursts : Nat)
  | farClear (line : LineId)
  | farSignal (line : LineId) (rd : Bool)
  | lineRecall (line : LineId) (owner : Option KeyRef)
  | holdAbandoned (line : LineId) (owner : Option KeyRef)
  | keyDenied (position : PositionId) (lamp : Option LampId) (reason : ResultCode) (origin : Origin)
  | knob (position : PositionId) (loudspeaker : Loudspeaker) (step : Step)
  | linkUp (position : PositionId) (layout : Layout) (knobs : Nat)
  | linkDown (position : PositionId) (cause : LossCause)
  | linkReject (position : PositionId) (keyCount : Byte)
  | floorGrant (group : GroupId) (position : PositionId) (source : Path) (fromQueue : Bool)
  | floorTimeout (group : GroupId) (position : PositionId) (source : Path)
  | directoryApplied (position : PositionId) (key : Key) (kind : ContentKind)
  | clipLine (line : LineId)
  | clipPosition (position : PositionId) (output : PositionOutput)
  | quietOn
  | quietOff (now : Quiet)
deriving DecidableEq, Repr

/-- A notice as a port's queue holds it, with that port's lost field. -/
structure Notice where
  body : NoticeBody
  lost : Bool
deriving DecidableEq, Repr

/-- The notice queue of a port and its setup (R177). The class mask has one bit a class, LINE bit 0 to SYSTEM bit 5. -/
structure NoticeQueue where
  queue : List Notice
  lostMark : Bool
  ageTimer : Option Nat
  ageAttention : Bool
  mask : BitVec 6
  threshold : Nat
  ageLimit : Nat
deriving DecidableEq, Repr

/-! ### The part -/

/-- The state of the part. `pending` is the queue of waiting commands, first in first out; `clock` counts sample
periods (log entry 3); `offers` holds the attach opportunities of the event in progress and is empty between
events. These three are the model's own. -/
structure State where
  pending : List Instr
  clock : Nat
  offers : List LineId
  lines : Table 160 Line
  positions : Table 32 Position
  lamps : Table 32 LampImage
  groups : Table 16 Group
  speakers : Table 32 Speaker
  quiet : Quiet
  quietPin : Bool
  mntPin : Bool
  termCount : Nat
  lineClip : Table 160 Bool
  positionClip : Table 32 ClipFlags
  directory : Table 32 (Table 64 Entry)
  guards : Table 32 Guard
  staging : Table 4 Staging
  links : Table 32 Link
  turretOut : Table 32 TurretOut
  highway : Table 160 HighwayLine
  highwayOut : Table 160 HighwayOut
  ports : Table 4 PortRecord
  params : Params
  notices : Table 4 NoticeQueue
deriving DecidableEq, Repr

/-- No command of this part stops it: every refusal and every unexpected event the manual describes is a result, a
notice or an ignored event, so there is no fault. -/
inductive Fault where
deriving DecidableEq, Repr

/-- Why a command is refused by the model itself. -/
inductive Refusal where
  /-- Raised by `exec` for a command without a meaning in the model. Safe: the run stops. No arm raises it. -/
  | notModelled (mnemonic : String)
deriving DecidableEq, Repr

/-! ### Power-on values -/

def Signals.allOff : Signals := ⟨false, false, false⟩

/-- R1, the last column of its table. -/
def Line.powerOn : Line where
  state := .idle
  parties := []
  privacy := false
  holdOwner := none
  privateHold := false
  timer := none
  burstCount := 0
  unanswered := false
  missed := 0
  signals := Signals.allOff
  sz := false
  rg := false
  cls := .normal
  barge := .closed
  ringdown := .auto

def KnobState.powerOn : KnobState := ⟨false, false, 0⟩

/-- R32, the last column of its table; R69 and R72 for the ringer. -/
def Position.powerOn : Position where
  linkUp := false
  layout := .keys64
  h0 := ⟨.on, none⟩
  h1 := ⟨.on, none⟩
  selected := .h0
  switchAway := .hold
  answerOnLift := true
  handsetStep := 24
  ringerStep := 20
  ringerTone := .hz500
  ringQueue := []
  ringer := ⟨false, none, 0⟩
  knob0 := KnobState.powerOn
  knob1 := KnobState.powerOn
  deny := Table.fill 72 none

/-- R65. -/
def LampImage.powerOn : LampImage := ⟨Table.fill 72 .off, true⟩

/-- R73, the last column of its table. -/
def Group.powerOn : Group := ⟨false, 1, 0, [], [], []⟩

/-- R93, the last column of its table. -/
def Channel.powerOn : Channel where
  source := none
  level := 0
  loudspeaker := .ls0
  talkback := false
  mute := false
  ptt := false
  mustRelease := false
  attach := .none
  waitReason := none

/-- R93 for the live values, R95 for the staged ones. -/
def Speaker.powerOn : Speaker where
  channels := Table.fill 8 Channel.powerOn
  plan := Table.fill 8 ⟨none, 0, .ls0, false⟩
  stagedDuck := 6
  stagedFloor := 1
  duck := 6
  knobFloor := 1
  step0 := 20
  step1 := 20

def Staging.emptied : Staging := ⟨none, Table.fill 16 none⟩

/-- R150, the last column of its table; no microphone sample has arrived (R155). -/
def Link.powerOn : Link where
  state := .down
  lossTimer := none
  layout := none
  knobCount := 0
  lampQueue := []
  mics := ⟨0, 0, 0⟩
  delivered := []
  attachDue := false

/-- R159; the receive sample before the first frame is 0 (log entry 5). -/
def HighwayLine.powerOn : HighwayLine := ⟨Signals.allOff, 0, []⟩

/-- R162, the last column of its table. -/
def PortRecord.powerOn : PortRecord where
  state := .idle
  slot := none
  readPosition := 0
  discard := false
  dropped := false
  malformed := false
  inFlight := none
  answer := none
  dataOut := []

/-- R170, the last column of its table. -/
def Params.powerOn : Params := ⟨500, 1000, 4, 3, 60, 120, false⟩

/-- R177, the last column of its table. -/
def NoticeQueue.powerOn : NoticeQueue := ⟨[], false, none, false, 0, 1, 100⟩

/-- The part after power-on reset, with the levels of the QUIET and MNT inputs as they stand: the quiet state is ON
if QUIET is asserted and OFF otherwise (R110). -/
def State.powerOn (quietPin mntPin : Bool) : State where
  pending := []
  clock := 0
  offers := []
  lines := Table.fill 160 Line.powerOn
  positions := Table.fill 32 Position.powerOn
  lamps := Table.fill 32 LampImage.powerOn
  groups := Table.fill 16 Group.powerOn
  speakers := Table.fill 32 Speaker.powerOn
  quiet := if quietPin then .on else .off
  quietPin := quietPin
  mntPin := mntPin
  termCount := Config.ringerTerms
  lineClip := Table.fill 160 false
  positionClip := Table.fill 32 ⟨false, false, false, false⟩
  directory := Table.fill 32 (Table.fill 64 ⟨.empty, none⟩)
  guards := Table.fill 32 .openGuard
  staging := Table.fill 4 Staging.emptied
  links := Table.fill 32 Link.powerOn
  turretOut := Table.fill 32 ⟨.down, ⟨0, 0, 0, 0⟩, []⟩
  highway := Table.fill 160 HighwayLine.powerOn
  highwayOut := Table.fill 160 ⟨false, false, false, false, 0⟩
  ports := Table.fill 4 PortRecord.powerOn
  params := Params.powerOn
  notices := Table.fill 4 NoticeQueue.powerOn

/-- The machine right after reset, with QUIET and MNT deasserted (log entry 5) and no command waiting. -/
def State.reset : State := State.powerOn false false

end Sys2Proof.Machine
end

