-- ==== Sys2Proof/Machine/Ops.lean ====
section
/-! DEFINITION. The named operations every block uses: reading and writing one record, the clock and its timers
(R5), the attach opportunities of an event (R8), and the raising and intake of notices (R176, R179). -/

namespace Sys2Proof.Machine

/-! ### Reading and writing one record -/

def State.line (s : State) (l : LineId) : Line := s.lines.get l
def State.setLine (s : State) (l : LineId) (x : Line) : State := { s with lines := s.lines.set l x }

def State.position (s : State) (p : PositionId) : Position := s.positions.get p
def State.setPosition (s : State) (p : PositionId) (x : Position) : State :=
  { s with positions := s.positions.set p x }

def State.group (s : State) (g : GroupId) : Group := s.groups.get g
def State.setGroup (s : State) (g : GroupId) (x : Group) : State := { s with groups := s.groups.set g x }

def State.speaker (s : State) (p : PositionId) : Speaker := s.speakers.get p
def State.setSpeaker (s : State) (p : PositionId) (x : Speaker) : State :=
  { s with speakers := s.speakers.set p x }

/-- Speaker channel `n` of position `p`. -/
def State.channel (s : State) (p : PositionId) (n : ChannelId) : Channel := (s.speaker p).channels.get n
def State.setChannel (s : State) (p : PositionId) (n : ChannelId) (x : Channel) : State :=
  s.setSpeaker p { s.speaker p with channels := (s.speaker p).channels.set n x }

/-- Directory entry (p, k). -/
def State.entry (s : State) (p : PositionId) (k : Key) : Entry := (s.directory.get p).get k
def State.setEntry (s : State) (p : PositionId) (k : Key) (x : Entry) : State :=
  { s with directory := s.directory.set p ((s.directory.get p).set k x) }

def State.guardOf (s : State) (p : PositionId) : Guard := s.guards.get p
def State.setGuard (s : State) (p : PositionId) (x : Guard) : State := { s with guards := s.guards.set p x }

def State.link (s : State) (p : PositionId) : Link := s.links.get p
def State.setLink (s : State) (p : PositionId) (x : Link) : State := { s with links := s.links.set p x }

def State.port (s : State) (c : Port) : PortRecord := s.ports.get c
def State.setPort (s : State) (c : Port) (x : PortRecord) : State := { s with ports := s.ports.set c x }

def State.noticeQueue (s : State) (c : Port) : NoticeQueue := s.notices.get c
def State.setNoticeQueue (s : State) (c : Port) (x : NoticeQueue) : State :=
  { s with notices := s.notices.set c x }

/-! ### Handsets, slots and loudspeaker steps -/

/-- The handset record of handset `h`. -/
def Position.handset (x : Position) : Handset → HandsetRecord
  | .h0 => x.h0
  | .h1 => x.h1

def Position.setHandset (x : Position) (h : Handset) (r : HandsetRecord) : Position :=
  match h with
  | .h0 => { x with h0 := r }
  | .h1 => { x with h1 := r }

/-- The content of slot `h` of position `p` (R33). -/
def State.slot (s : State) (p : PositionId) (h : Handset) : Option Held := ((s.position p).handset h).slot

def State.hook (s : State) (p : PositionId) (h : Handset) : Hook := ((s.position p).handset h).hook

/-- The selected handset of position `p` (R33). -/
def State.selected (s : State) (p : PositionId) : Handset := (s.position p).selected

/-- The key count of a layout. -/
def Layout.keyCount : Layout → Nat
  | .keys32 => 32
  | .keys64 => 64

/-- The loudspeaker step of one loudspeaker (R93). -/
def Speaker.step (x : Speaker) : Loudspeaker → Step
  | .ls0 => x.step0
  | .ls1 => x.step1

def Speaker.setStep (x : Speaker) (ls : Loudspeaker) (v : Step) : Speaker :=
  match ls with
  | .ls0 => { x with step0 := v }
  | .ls1 => { x with step1 := v }

/-! ### The clock and its timers -/

/-- The clock value at which a timer of `ms` milliseconds, started now, is due (log entry 3). -/
def State.dueIn (s : State) (ms : Nat) : Nat := s.clock + ms * Config.periodsPerMs

/-- An expiry taken when its timer is due at `due`: the time has come, so the clock stands at `due` or later. A timer
started with duration d therefore expires no earlier than d after its start (R5, log entry 3). -/
def State.reach (s : State) (due : Nat) : State := { s with clock := max s.clock due }

/-- The remaining time of a timer due at `due`, in units of 10 ms, rounded up (R30, R58, R81). -/
def State.remaining (s : State) (due : Nat) : Nat :=
  (due - s.clock + (Config.periodsPerTick - 1)) / Config.periodsPerTick

/-- The line timer that starting a purpose sets: its duration is read from the floor parameter now, and a
HOLD_RECALL or RECALL_LIMIT of 0 gives NONE (R5). -/
def State.startTimer (s : State) (purpose : LinePurpose) : Option LineTimer :=
  match purpose with
  | .burst => some ⟨.burst, s.dueIn s.params.burstTime⟩
  | .answerWait => some ⟨.answerWait, s.dueIn (s.params.answerWait * 1000)⟩
  | .hold => if s.params.holdRecall = 0 then none else some ⟨.hold, s.dueIn (s.params.holdRecall * 1000)⟩
  | .recall => if s.params.recallLimit = 0 then none else some ⟨.recall, s.dueIn (s.params.recallLimit * 1000)⟩
  | .guard => some ⟨.guard, s.dueIn s.params.guardTime⟩

/-! ### Attach opportunities -/

/-- Offer an attach opportunity of line `l`; it is taken after every other change of the event (R8). -/
def State.offer (s : State) (l : LineId) : State := { s with offers := s.offers ++ [l] }

/-! ### Notices -/

/-- The class of a notice's kind (R175). -/
def NoticeBody.cls : NoticeBody → NoticeClass
  | .lineState _ _ _ | .lineRing _ _ | .lineMissed _ _ | .lineUnanswered _ _ | .farClear _ | .farSignal _ _
  | .lineRecall _ _ | .holdAbandoned _ _ => .line
  | .keyDenied _ _ _ _ | .knob _ _ _ | .linkUp _ _ _ | .linkDown _ _ | .linkReject _ _ => .position
  | .floorGrant _ _ _ _ | .floorTimeout _ _ _ => .floor
  | .directoryApplied _ _ _ => .directory
  | .clipLine _ | .clipPosition _ _ => .audio
  | .quietOn | .quietOff _ => .system

/-- The bit of a class in a class mask, and its code in NOTICE READ data (R173, R175). -/
def NoticeClass.code : NoticeClass → Nat
  | .line => 0
  | .position => 1
  | .floor => 2
  | .directory => 3
  | .audio => 4
  | .system => 5

/-- Whether a port's class mask includes a class. -/
def NoticeQueue.subscribes (q : NoticeQueue) (k : NoticeClass) : Bool := q.mask.getLsbD k.code

/-- The intake of one notice offered to a port whose mask includes its class (R179, R181). `ageDue` is when an age
timer started now with the port's age limit is due. -/
def NoticeQueue.intake (ageDue : Nat) (b : NoticeBody) (q : NoticeQueue) : NoticeQueue :=
  if Config.maxNotices ≤ q.queue.length then { q with lostMark := true }
  else
    { q with
      queue := q.queue ++ [⟨b, q.lostMark⟩]
      lostMark := false
      ageTimer := if q.ageAttention then q.ageTimer else some ageDue }

/-- A notice offered to one port (R176). -/
def NoticeQueue.offered (ageDue : Nat) (b : NoticeBody) (q : NoticeQueue) : NoticeQueue :=
  if q.subscribes b.cls then q.intake ageDue b else q

/-- Raise a notice: it is offered whole to every port before the next (R176). -/
def State.raise (s : State) (b : NoticeBody) : State :=
  { s with notices := s.notices.map fun q => q.offered (s.dueIn q.ageLimit) b }

/-! ### Results -/

/-- The owning block returns a result with its data for the request of port `c`; RESULT_RETURN takes it from here
(R166). -/
def State.answer (s : State) (c : Port) (r : ResultCode) (data : List Byte) : State :=
  s.setPort c { s.port c with answer := some ⟨r, data⟩ }

end Sys2Proof.Machine
end

