-- ==== Sys2Proof/Machine/RingOps.lean ====
section
/-! DEFINITION. Ring queues and ringers (R50 to R52, R69 to R71), and the reads of the directory they rest on
(R131, R132). -/

namespace Sys2Proof.Machine

/-! ### Reading directory contents -/

/-- The line or group a content names (R129). -/
def Content.target : Content → Option Source
  | .empty => none
  | .line l _ _ _ => some (.line l)
  | .group g => some (.group g)

def Content.kind : Content → ContentKind
  | .empty => .empty
  | .line _ _ _ _ => .line
  | .group _ => .group

/-- Whether a content names line `l` with ring-enabled on (R131). -/
def Content.rings (l : LineId) : Content → Bool
  | .line l' ring _ _ => decide (l' = l) && ring
  | .empty => false
  | .group _ => false

/-- The lowest-numbered key of a position whose entry names `l` with ring-enabled on (R50). -/
def lowestRingKey (entries : Table 64 Entry) (l : LineId) : Option Key :=
  entries.findLowest fun e => e.content.rings l

/-! ### Order by class and arrival -/

/-- A new PRIORITY entry stands after every PRIORITY entry present and before every NORMAL one; a new NORMAL entry
stands at the tail (R50, R83). -/
def insertByClass {α : Type} (cls : α → LineClass) (e : α) (q : List α) : List α :=
  match cls e with
  | .priority =>
    q.takeWhile (fun x => decide (cls x = .priority)) ++ e :: q.dropWhile (fun x => decide (cls x = .priority))
  | .normal => q ++ [e]

/-- The class of the head of a ring queue. -/
def headClass (q : List RingEntry) : Option LineClass := q.head?.map RingEntry.cls

/-! ### The ringer -/

/-- The length of the on-phase in milliseconds, by the class of the head (R69). -/
def onPhaseMs : LineClass → Nat
  | .normal => 1000
  | .priority => 250

/-- The length of the off-phase in milliseconds, by the class of the head (R69). -/
def offPhaseMs : LineClass → Nat
  | .normal => 2000
  | .priority => 250

/-- The ringer enters ON: the cadence timer is set to the on-phase of the head's class and the tone phase restarts
(R70). -/
def Ringer.enterOn (clock : Nat) (k : LineClass) (r : Ringer) : Ringer :=
  { r with silenced := false, cadence := some ⟨true, clock + onPhaseMs k * Config.periodsPerMs⟩, tonePhase := 0 }

/-- The ringer enters OFF: the cadence timer is set to the off-phase of the head's class (R71). -/
def Ringer.enterOff (clock : Nat) (k : LineClass) (r : Ringer) : Ringer :=
  { r with cadence := some ⟨false, clock + offPhaseMs k * Config.periodsPerMs⟩ }

/-- The ringer's answer to one change of the ring queue from `old` to `new`; `joined` says that an entry joined
(R70). -/
def Ringer.afterChange (clock : Nat) (joined : Bool) (old new : List RingEntry) (r : Ringer) : Ringer :=
  match new with
  | [] => { r with silenced := false, cadence := none }
  | e :: _ =>
    if joined && (old.isEmpty || r.silenced) then r.enterOn clock e.cls
    else if r.silenced then r
    else if headClass old = some e.cls then r
    else r.enterOn clock e.cls

/-- The ring queue takes its new content and the ringer answers the change (R70). A queue that did not change hands
nothing to the ringer. -/
def Position.requeue (clock : Nat) (joined : Bool) (q : List RingEntry) (x : Position) : Position :=
  if q = x.ringQueue then x
  else { x with ringQueue := q, ringer := x.ringer.afterChange clock joined x.ringQueue q }

/-- The conditions of the ringer (R69). -/
inductive RingerCondition where
  | stopped | silenced | on | off
deriving DecidableEq, Repr

def Position.ringerCondition (x : Position) : RingerCondition :=
  if x.ringQueue.isEmpty then .stopped
  else if x.ringer.silenced then .silenced
  else
    match x.ringer.cadence with
    | some c => if c.onPhase then .on else .off
    | none => .off

/-- Sounding in ON and OFF (R69). -/
def Position.sounding (x : Position) : Bool :=
  match x.ringerCondition with
  | .on | .off => true
  | .stopped | .silenced => false

/-! ### Changes of the ring queues -/

/-- An entry for its line joins the queue; a queue holds at most one entry for any line (R50). -/
def Position.joinRing (clock : Nat) (e : RingEntry) (x : Position) : Position :=
  x.requeue clock true (insertByClass RingEntry.cls e (x.ringQueue.filter fun y => decide (y.line ≠ e.line)))

/-- The entry of one kind for line `l`, if there is one, leaves the queue (R51). -/
def Position.dropRing (clock : Nat) (kind : RingKind) (l : LineId) (x : Position) : Position :=
  x.requeue clock false (x.ringQueue.filter fun y => !(decide (y.line = l) && decide (y.kind = kind)))

/-- The entry for line `l` is refiled under class `k` as the newest of its class, with its key and kind (R51). A
refiling is no join (R70). -/
def Position.refile (clock : Nat) (l : LineId) (k : LineClass) (x : Position) : Position :=
  match x.ringQueue.find? fun y => decide (y.line = l) with
  | some e =>
    x.requeue clock false
      (insertByClass RingEntry.cls { e with cls := k } (x.ringQueue.filter fun y => decide (y.line ≠ l)))
  | none => x

/-- The RING entry for line `l` takes another key and keeps its place (R52). -/
def Position.rekeyRing (clock : Nat) (l : LineId) (k : Key) (x : Position) : Position :=
  x.requeue clock false
    (x.ringQueue.map fun y => if decide (y.line = l) && decide (y.kind = .ring) then { y with key := k } else y)

/-- Line `l` enters RINGING: each position with a ring-enabled entry naming it gains a RING entry of the line's
class (R7, R51). -/
def State.addRing (s : State) (l : LineId) : State :=
  { s with
    positions := Table.ofFn fun p =>
      match lowestRingKey (s.directory.get p) l with
      | some k => (s.position p).joinRing s.clock ⟨l, k, .ring, (s.line l).cls⟩
      | none => s.position p }

/-- Line `l` leaves RINGING or RECALL: its entries of that kind are removed at every position (R7, R51). -/
def State.removeRing (s : State) (kind : RingKind) (l : LineId) : State :=
  { s with positions := s.positions.map fun x => x.dropRing s.clock kind l }

/-- Line `l` enters RECALL: its hold owner gains a RECALL entry of the line's class, through the owner's key (R7,
R51). -/
def State.addRecall (s : State) (l : LineId) : State :=
  match (s.line l).holdOwner with
  | some o =>
    s.setPosition o.position
      ((s.position o.position).joinRing s.clock ⟨l, o.key, .recall, (s.line l).cls⟩)
  | none => s

/-- A change of class of a RINGING or RECALL line refiles its entries (R29, R51). -/
def State.refileRing (s : State) (l : LineId) : State :=
  { s with positions := s.positions.map fun x => x.refile s.clock l (s.line l).cls }

/-- A directory change at position `p`, whose entries were `old`, is handed to the Position Table for line `l`: a
RINGING line whose lowest ring-enabled key at `p` changed gains, loses or rekeys its RING entry (R52). -/
def State.updateRing (p : PositionId) (old : Table 64 Entry) (s : State) (l : LineId) : State :=
  if (s.line l).state = .ringing then
    match lowestRingKey old l, lowestRingKey (s.directory.get p) l with
    | none, some k => s.setPosition p ((s.position p).joinRing s.clock ⟨l, k, .ring, (s.line l).cls⟩)
    | some _, none => s.setPosition p ((s.position p).dropRing s.clock .ring l)
    | some k, some k' => if k = k' then s else s.setPosition p ((s.position p).rekeyRing s.clock l k')
    | none, none => s
  else s

/-- Every line whose ring-enabled keys at `p` changed is handed over in ascending line number (R136, R143, R149). -/
def State.directoryChanged (s : State) (p : PositionId) (old : Table 64 Entry) : State :=
  (ascending 160).foldl (State.updateRing p old) s

end Sys2Proof.Machine
end

