-- ==== Sys2Proof/Machine/DirectoryOps.lean ====
section
/-! DEFINITION. Bindings of directory entries (R133), the report that one has ended (R134) and the installation of
a pending replacement (R136). -/

namespace Sys2Proof.Machine

/-- A slot holds the content's target through key `k` (R133). -/
def holdsThrough (slot : Option Held) (c : Content) (k : Key) : Bool :=
  match slot with
  | some x => decide (x.key = k) && decide (c.target = some x.source)
  | none => false

/-- Position `p` is the hold owner of a line through key `k` (R133). -/
def State.isHoldOwner (s : State) (p : PositionId) (k : Key) : Bool :=
  s.lines.items.any fun ln => decide (ln.holdOwner = some ⟨p, k⟩)

/-- Entry (p, k) is bound (R133). The Directory keeps no copy: it reads the slots and the hold owners. -/
def State.bound (s : State) (p : PositionId) (k : Key) : Bool :=
  holdsThrough (s.slot p .h0) (s.entry p k).content k
    || holdsThrough (s.slot p .h1) (s.entry p k).content k
    || s.isHoldOwner p k

/-- A pending replacement becomes the current content; the ring queue of `p` follows, and DIRECTORY_APPLIED is
raised (R136). -/
def State.install (s : State) (p : PositionId) (k : Key) (c : Content) : State :=
  let old := s.directory.get p
  ((s.setEntry p k ⟨c, none⟩).directoryChanged p old).raise (.directoryApplied p k c.kind)

/-- The report that a binding of entry (p, k) has ended: if the entry is no longer bound, its pending replacement is
installed (R134). -/
def State.reportEnd (s : State) (p : PositionId) (k : Key) : State :=
  if s.bound p k then s
  else
    match (s.entry p k).pendingContent with
    | some c => s.install p k c
    | none => s

/-- The report for the old content of a slot, if the slot held one (R34). -/
def State.reportSlot (s : State) (p : PositionId) (old : Option Held) : State :=
  match old with
  | some x => s.reportEnd p x.key
  | none => s

/-- The report for a hold owner that has been cleared, if there was one (R8). -/
def State.reportOwner (s : State) (owner : Option KeyRef) : State :=
  match owner with
  | some o => s.reportEnd o.position o.key
  | none => s

end Sys2Proof.Machine
end

