-- ==== Sys2Proof/Machine/LineOps.lean ====
section
/-! DEFINITION. The transitions of a line: one move of a line record with all it tells its neighbours (R6, R7, R8),
takes (R11 to R15), leaves (R20), holds (R21), re-rings (R18), privacy (R3), GUARD entry (R9), abandonment (R23) and
the line clearance (R27); and the term count of a slot (R33, R34, R124). -/

namespace Sys2Proof.Machine

/-! ### Parties -/

def Path.isHandset : Path → Bool
  | .handset _ => true
  | .channel _ => false

/-- The party is the one with this position and path (R2). -/
def Party.is (p : PositionId) (path : Path) (x : Party) : Bool := decide (x.position = p) && decide (x.path = path)

/-- The party of a line with this position and path (R2). -/
def Line.party? (ln : Line) (p : PositionId) (path : Path) : Option Party := ln.parties.find? (Party.is p path)

/-- The party list without that party; the others keep their order (R2). -/
def Line.without (ln : Line) (p : PositionId) (path : Path) : List Party :=
  ln.parties.filter fun x => !x.is p path

/-- The principal is the first handset party of the list (R3). -/
def Line.principal (ln : Line) : Option Party := ln.parties.find? fun x => x.path.isHandset

def Line.isPrincipal (ln : Line) (p : PositionId) (path : Path) : Bool :=
  match ln.principal with
  | some x => x.is p path
  | none => false

/-- Every party with this position and path changed by `f`; the list is otherwise as it was. -/
def Line.mapParty (ln : Line) (p : PositionId) (path : Path) (f : Party → Party) : Line :=
  { ln with parties := ln.parties.map fun x => if x.is p path then f x else x }

/-- A party update of the talking flag. It changes no line state, raises no notice and offers no attach (R2). -/
def State.updateTalking (s : State) (l : LineId) (p : PositionId) (path : Path) (v : Bool) : State :=
  s.setLine l ((s.line l).mapParty p path fun x => { x with talking := v })

/-- A party update of the talk-capable flag; turning it off turns talking off too (R2). -/
def State.updateTalkCapable (s : State) (l : LineId) (p : PositionId) (path : Path) (v : Bool) : State :=
  s.setLine l ((s.line l).mapParty p path fun x => { x with talkCapable := v, talking := x.talking && v })

/-! ### One move of a line record -/

/-- Whether a change of the line record is one of the six points at which an attach opportunity is offered (R8). -/
def offersAttach (old new : Line) : Bool :=
  (decide (new.state = .idle) && decide (old.state ≠ .idle))
    || (decide (new.state = .ringing) && decide (old.state ≠ .ringing))
    || (old.privacy && !new.privacy)
    || (decide (old.parties.length = Config.maxParties) && decide (new.parties.length + 1 = Config.maxParties))
    || ((decide (old.state = .held) || decide (old.state = .recall)) && decide (new.state = .active))
    || (decide (old.barge = .closed) && decide (new.barge = .openPolicy))

/-- Entries leave the ring queues with the state that brought them (R7). -/
def State.leaveRings (s : State) (l : LineId) (old new : LineState) : State :=
  if old = new then s
  else
    match old with
    | .ringing => s.removeRing .ring l
    | .recall => s.removeRing .recall l
    | .idle | .calling | .active | .held | .guard | .fault | .outOfService => s

/-- Entries join the ring queues with the state that brings them (R7). -/
def State.joinRings (s : State) (l : LineId) (old new : LineState) : State :=
  if old = new then s
  else
    match new with
    | .ringing => s.addRing l
    | .recall => s.addRecall l
    | .idle | .calling | .active | .held | .guard | .fault | .outOfService => s

/-- LINE_STATE for every change of a line's state (R6). -/
def State.raiseLineState (s : State) (l : LineId) (old new : LineState) : State :=
  if old = new then s else s.raise (.lineState l old new)

/-- Line `l` takes the record `new`: the ring queues follow its state, LINE_STATE is raised for a change of state, and
an attach opportunity is offered at the points of R8 (R6, R7, R8). -/
def State.moveLine (s : State) (l : LineId) (new : Line) : State :=
  let old := s.line l
  let s1 := (s.setLine l new).leaveRings l old.state new.state
  let s2 := (s1.raiseLineState l old.state new.state).joinRings l old.state new.state
  if offersAttach old new then s2.offer l else s2

/-! ### The GUARD interval -/

/-- The fields that entry to GUARD sets (R9). -/
def Line.guarded (timer : Option LineTimer) (ln : Line) : Line :=
  { ln with
    state := .guard, sz := false, rg := false, unanswered := false, burstCount := 0, privacy := false
    timer := timer }

/-! ### Taking a line -/

/-- A take request (R11). `key` is absent for a speaker take, whose attributes are not read. -/
structure Take where
  position : PositionId
  path : Path
  key : Option Key
  bargeAllowed : Bool
  pickupAllowed : Bool
  talkCapable : Bool
  talking : Bool
  joinedBy : JoinedBy
deriving DecidableEq, Repr

/-- The party a taken take makes (R2, R11). -/
def Take.party (t : Take) : Party := ⟨t.position, t.path, t.key, t.talkCapable, t.talking, t.joinedBy⟩

/-- The barge conditions in their fixed order (R14). -/
def judgeBarge (ln : Line) (t : Take) : ResultCode :=
  if (ln.party? t.position t.path).isSome then .alreadyParty
  else if ln.barge = .closed then .deniedClosed
  else if ln.privacy then .deniedPrivate
  else if t.path.isHandset && !t.bargeAllowed then .noBarge
  else if Config.maxParties ≤ ln.parties.length then .lineFull
  else .ok

/-- Whether the hold owner's position is `p` (R15). -/
def Line.heldBy (ln : Line) (p : PositionId) : Bool :=
  match ln.holdOwner with
  | some o => decide (o.position = p)
  | none => false

/-- The pickup conditions (R15); a speaker take on a held line is refused (R11). -/
def judgePickup (ln : Line) (t : Take) : ResultCode :=
  if !t.path.isHandset then .lineHeld
  else if ln.heldBy t.position then .ok
  else if ln.privateHold then .heldPrivate
  else if !t.pickupAllowed then .noPickup
  else .ok

/-- The judgement of a take by the line's state (R11): `ok`, or the named refusal. -/
def judgeTake (ln : Line) (t : Take) : ResultCode :=
  match ln.state with
  | .idle => .ok
  | .ringing => .ok
  | .calling => judgeBarge ln t
  | .active => judgeBarge ln t
  | .held => judgePickup ln t
  | .recall => judgePickup ln t
  | .guard => .lineGuard
  | .fault => .lineFault
  | .outOfService => .lineOutOfService

/-- A take that originates rings the far end: a handset take on an AUTO line whose far end is on-hook (R12). -/
def ringsOut (ln : Line) (t : Take) : Bool :=
  t.path.isHandset && decide (ln.ringdown = .auto) && !ln.signals.fl

/-- The line record after a taken take (R12 to R15). `burst` is the BURST timer started now. -/
def Line.afterTake (burst : Option LineTimer) (t : Take) (ln : Line) : Line :=
  match ln.state with
  | .idle =>
    if ringsOut ln t then
      { ln with
        state := .calling, parties := [t.party], privacy := false, missed := 0, sz := true, rg := true
        burstCount := 1, unanswered := false, timer := burst }
    else
      { ln with
        state := .active, parties := [t.party], privacy := false, missed := 0, sz := true, rg := false
        timer := none }
  | .ringing =>
    { ln with
      state := .active, parties := [t.party], privacy := false, missed := 0, sz := true, rg := false
      timer := none }
  | .held | .recall =>
    { ln with
      state := .active, parties := [t.party], privacy := false, holdOwner := none, privateHold := false
      timer := none }
  | .calling | .active | .guard | .fault | .outOfService => { ln with parties := ln.parties ++ [t.party] }

/-- A take request is judged and, if it is taken, makes its changes; a refusal changes nothing in the record (R11). -/
def State.take (s : State) (l : LineId) (t : Take) : State × ResultCode :=
  match judgeTake (s.line l) t with
  | .ok => (s.moveLine l ((s.line l).afterTake (s.startTimer .burst) t), .ok)
  | r => (s, r)

/-- A handset take of position `p` through key `k`, carrying the attributes of entry (p, k) and the hook state
(R11, R39). -/
def State.handsetTake (s : State) (p : PositionId) (h : Handset) (k : Key) (o : Origin) : Take where
  position := p
  path := .handset h
  key := some k
  bargeAllowed := match (s.entry p k).content with
    | .line _ _ barge _ => barge
    | .empty | .group _ => false
  pickupAllowed := match (s.entry p k).content with
    | .line _ _ _ pickup => pickup
    | .empty | .group _ => false
  talkCapable := true
  talking := decide (s.hook p h = .off)
  joinedBy := match o with
    | .turret => .key
    | .inject => .inject

/-- A speaker take of channel `n` of position `p`: its talkback setting gives talk-capable, and its PTT is UP (R11,
R94). -/
def speakerTake (p : PositionId) (n : ChannelId) (talkback : Bool) : Take where
  position := p
  path := .channel n
  key := none
  bargeAllowed := false
  pickupAllowed := false
  talkCapable := talkback
  talking := false
  joinedBy := .plan

/-! ### Leaving and holding -/

/-- The line record after party (p, path) has left (R20): privacy turns off with the principal (R3), and the last
leave enters GUARD with the GUARD timer `guardTimer` (R9). -/
def Line.afterLeave (guardTimer : Option LineTimer) (p : PositionId) (path : Path) (ln : Line) : Line :=
  let rest := ln.without p path
  let ln' := { ln with parties := rest, privacy := ln.privacy && !ln.isPrincipal p path }
  match rest with
  | [] => ln'.guarded guardTimer
  | _ :: _ => ln'

/-- A leave request (R20); a detach is taken as one (R16). -/
def State.leave (s : State) (l : LineId) (p : PositionId) (path : Path) : State × ResultCode :=
  match (s.line l).party? p path with
  | none => (s, .notParty)
  | some _ => (s.moveLine l ((s.line l).afterLeave (s.startTimer .guard) p path), .left)

/-- The line record after its one party has put it on hold (R21). -/
def Line.onHold (holdTimer : Option LineTimer) (owner : Option KeyRef) (ln : Line) : Line :=
  { ln with
    state := .held, parties := [], holdOwner := owner, privateHold := ln.privacy, privacy := false, rg := false
    burstCount := 0, unanswered := false, timer := holdTimer }

/-- A hold request of handset `h` of position `p`: a hold when it is the one party, a leave when others remain
(R21). -/
def State.hold (s : State) (l : LineId) (p : PositionId) (h : Handset) : State × ResultCode :=
  match (s.line l).party? p (.handset h) with
  | none => (s, .notParty)
  | some x =>
    match (s.line l).without p (.handset h) with
    | [] => (s.moveLine l ((s.line l).onHold (s.startTimer .hold) (x.key.map fun k => ⟨p, k⟩)), .ok)
    | _ :: _ => s.leave l p (.handset h)

/-- A PRIVACY request of handset `h` of position `p` (R3). -/
def State.privacyRequest (s : State) (l : LineId) (p : PositionId) (h : Handset) : State × ResultCode :=
  if (s.line l).isPrincipal p (.handset h) then
    (s.moveLine l { s.line l with privacy := !(s.line l).privacy }, .ok)
  else
    match (s.line l).party? p (.handset h) with
    | some _ => (s, .notPrincipal)
    | none => (s, .notParty)

/-- A re-ring request of handset `h` of position `p` (R18). -/
def State.reRing (s : State) (l : LineId) (p : PositionId) (h : Handset) : State × ResultCode :=
  match (s.line l).party? p (.handset h) with
  | none => (s, .notParty)
  | some _ =>
    match (s.line l).state with
    | .calling =>
      (s.moveLine l
        { s.line l with burstCount := 1, rg := true, unanswered := false, timer := s.startTimer .burst }, .ok)
    | .active =>
      match (s.line l).ringdown with
      | .auto => (s.moveLine l { s.line l with rg := true, timer := s.startTimer .burst }, .ok)
      | .none => (s, .noChange)
    | .idle | .ringing | .held | .recall | .guard | .fault | .outOfService => (s, .noChange)

/-! ### Slots and the term count -/

/-- The cost of a slot: 3 for a line, 2 for a group, 0 when empty (R33). -/
def slotCost : Option Held → Nat
  | none => 0
  | some ⟨.line _, _⟩ => 3
  | some ⟨.group _, _⟩ => 2

/-- The Mixing Engine admits a change of the count from `old` to `new` terms: a decrease or no change without a
judgement, an increase if the count plus the increase is at most the budget (R125). -/
def State.admits (s : State) (old new : Nat) : Bool :=
  decide (new ≤ old) || decide (s.termCount + (new - old) ≤ Config.termBudget)

/-- Slot `h` of `p` takes its new content and the term count changes by the net change (R34). -/
def State.setSlot (s : State) (p : PositionId) (h : Handset) (new : Option Held) : State :=
  { s with
    positions := s.positions.set p
      ((s.position p).setHandset h { (s.position p).handset h with slot := new })
    termCount := s.termCount + slotCost new - slotCost (s.slot p h) }

/-! ### Abandonment and the line clearance -/

/-- A hold is abandoned: the owner is cleared and its binding end reported, the line enters GUARD, and HOLD_ABANDONED
names the cleared owner (R23, in the order of R183). -/
def State.abandon (s : State) (l : LineId) : State :=
  let owner := (s.line l).holdOwner
  let s1 := (s.setLine l { s.line l with holdOwner := none, privateHold := false }).reportOwner owner
  (s1.moveLine l ((s1.line l).guarded (s1.startTimer .guard))).raise (.holdAbandoned l owner)

/-- A removed speaker party: its channel becomes WAITING with the clearance's reason, and its PTT goes UP (R8,
R94). -/
def Channel.cleared (reason : ResultCode) (x : Channel) : Channel :=
  { x with attach := .waiting, waitReason := some reason, ptt := false, mustRelease := false }

/-- One party that the Line Table removed: a handset party's slot is emptied and the end of its binding reported
(R49), a speaker party's channel becomes WAITING (R8). -/
def State.partyRemoved (reason : ResultCode) (s : State) (x : Party) : State :=
  match x.path with
  | .handset h => (s.setSlot x.position h none).reportSlot x.position (s.slot x.position h)
  | .channel n => s.setChannel x.position n ((s.channel x.position n).cleared reason)

/-- The line clearance (R27) with the entry to FAULT or OUT_OF_SERVICE that it serves: parties, hold owner, rings,
privacy, bursts and timer go; the missed count and the configuration are kept. `reason` is the wait reason of the
removed speaker channels (R94). -/
def State.clearLine (s : State) (l : LineId) (entered : LineState) (reason : ResultCode) : State :=
  let parties := (s.line l).parties
  let s1 := s.setLine l { s.line l with parties := [] }
  let s2 := parties.foldl (State.partyRemoved reason) s1
  let owner := (s2.line l).holdOwner
  let s3 := (s2.setLine l { s2.line l with holdOwner := none, privateHold := false }).reportOwner owner
  s3.moveLine l
    { s3.line l with
      state := entered, parties := [], privacy := false, unanswered := false, burstCount := 0, sz := false, rg := false
      timer := none }

end Sys2Proof.Machine
end

