-- ==== Sys2Proof/Machine/GroupOps.lean ====
section
/-! DEFINITION. The floor of an intercom group: talk requests (R82, R83), grants (R86), talk releases (R85), floor
timeouts (R87) and the removal of a position's entries (R80, R89). -/

namespace Sys2Proof.Machine

/-- The member record of position `p` (R74). -/
def Group.member? (g : Group) (p : PositionId) : Option Member := g.members.find? fun m => decide (m.position = p)

/-- The talker entry of position `p` (R75). -/
def Group.talker? (g : Group) (p : PositionId) : Option Talker := g.talkers.find? fun t => decide (t.position = p)

/-- The waiting entry of position `p` (R75). -/
def Group.waiter? (g : Group) (p : PositionId) : Option Waiter := g.waiting.find? fun w => decide (w.position = p)

def Group.withoutTalker (g : Group) (p : PositionId) : Group :=
  { g with talkers := g.talkers.filter fun t => decide (t.position ≠ p) }

def Group.withoutWaiter (g : Group) (p : PositionId) : Group :=
  { g with waiting := g.waiting.filter fun w => decide (w.position ≠ p) }

/-- The floor timer of a talker granted now: it runs for the floor limit, and a limit of 0 starts none (R76). -/
def State.floorDue (s : State) (x : Group) : Option Nat :=
  if x.floorLimit = 0 then none else some (s.dueIn (x.floorLimit * 1000))

/-- A grant places position `p` with mic source `src` on the floor of `g` and raises FLOOR_GRANT (R86). -/
def State.grant (s : State) (g : GroupId) (p : PositionId) (src : Path) (fromQueue : Bool) : State :=
  (s.setGroup g
    { s.group g with talkers := (s.group g).talkers ++ [⟨p, src, s.floorDue (s.group g)⟩] }).raise
    (.floorGrant g p src fromQueue)

/-- After a talker of `g` was removed: the head of the waiting queue, if any, is granted (R86). -/
def State.grantHead (s : State) (g : GroupId) : State :=
  match (s.group g).waiting with
  | [] => s
  | w :: rest => (s.setGroup g { s.group g with waiting := rest }).grant g w.position w.source true

/-- The talker entry of `p` is removed, and the head of the queue granted (R85, R86). -/
def State.endTalker (s : State) (g : GroupId) (p : PositionId) : State :=
  (s.setGroup g ((s.group g).withoutTalker p)).grantHead g

/-- The waiting entry of `p` is withdrawn; no grant follows (R85). -/
def State.withdraw (s : State) (g : GroupId) (p : PositionId) : State :=
  s.setGroup g ((s.group g).withoutWaiter p)

/-- A talk request of position `p` from mic source `src`: the checks of R82, then the arbitration of R83. -/
def State.talkRequest (s : State) (g : GroupId) (p : PositionId) (src : Path) : State × ResultCode :=
  let x := s.group g
  if !x.defined then (s, .notDefined)
  else
    match x.member? p with
    | none => (s, .notMember)
    | some m =>
      if (x.talker? p).isSome || (x.waiter? p).isSome then (s, .noChange)
      else if decide (x.talkers.length < x.talkerLimit) && x.waiting.isEmpty then
        (s.grant g p src false, .talker)
      else if x.waiting.length < Config.maxWaiting then
        (s.setGroup g { x with waiting := insertByClass Waiter.cls ⟨p, src, m.cls⟩ x.waiting }, .waiting)
      else (s, .floorFull)

/-- A talk release of position `p` from mic source `src`; one whose source does not match the entry's, or that finds
no entry, is ignored (R85). -/
def State.talkRelease (s : State) (g : GroupId) (p : PositionId) (src : Path) : State × ResultCode :=
  match (s.group g).waiter? p with
  | some w => if w.source = src then (s.withdraw g p, .released) else (s, .noChange)
  | none =>
    match (s.group g).talker? p with
    | some t => if t.source = src then (s.endTalker g p, .released) else (s, .noChange)
    | none => (s, .noChange)

/-- Every entry of `p` leaves the floor of `g`, whatever its mic source (R80 steps 2 and 3, R89). -/
def State.removeEntries (p : PositionId) (s : State) (g : GroupId) : State :=
  let s1 := if ((s.group g).waiter? p).isSome then s.withdraw g p else s
  if ((s1.group g).talker? p).isSome then s1.endTalker g p else s1

/-- Turret link loss: the Intercom Unit removes the entries of `p` from every group (R89). -/
def State.intercomLinkLoss (s : State) (p : PositionId) : State := (ascending 16).foldl (State.removeEntries p) s

end Sys2Proof.Machine
end

