-- ==== Sys2Proof/Machine/SpeakerOps.lean ====
section
/-! DEFINITION. The Speaker Field: speaker takes and attach opportunities (R100 to R102), the installation of a staged
plan (R98 to R100), mute and push-to-talk (R103 to R105), conversation and suppression (R106, R107), and the knobs
(R108, R109). -/

namespace Sys2Proof.Machine

/-! ### Attaching -/

/-- WAITING channel `n` of `p` sends a speaker take to its line: on OK it becomes ATTACHED, and a refusal becomes its
wait reason (R100, R101). -/
def State.sendTake (p : PositionId) (s : State) (n : ChannelId) : State :=
  let x := s.channel p n
  match x.source with
  | some (.line l) =>
    if x.attach = .waiting then
      match s.take l (speakerTake p n x.talkback) with
      | (s1, .ok) => s1.setChannel p n { x with attach := .attached, waitReason := none }
      | (_, r) => s.setChannel p n { x with waitReason := some r }
    else s
  | some (.group _) | none => s

/-- The channel waits on line `l` at a position whose link is UP (R101). -/
def State.awaits (s : State) (l : LineId) (p : PositionId) (n : ChannelId) : Bool :=
  (s.position p).linkUp && decide ((s.channel p n).source = some (.line l))
    && decide ((s.channel p n).attach = .waiting)

/-- One channel's part of an attach opportunity of line `l` (R101). -/
def State.attachOne (l : LineId) (p : PositionId) (s : State) (n : ChannelId) : State :=
  if s.awaits l p n then s.sendTake p n else s

/-- An attach opportunity of line `l`: the waiting channels in ascending order of position, then of channel
(R101). -/
def State.attachOpportunity (s : State) (l : LineId) : State :=
  (ascending 32).foldl (fun s p => (ascending 8).foldl (State.attachOne l p) s) s

/-- The opportunities that the event offered are taken after its every other change, and the attaches offer no
further one (R8, R101). No other event is taken between the event and its takes, or between two takes, where R101 allows
one: the model's choice (log entry 23). -/
def State.takeOffers (s : State) : State :=
  { s.offers.foldl State.attachOpportunity { s with offers := [] } with offers := [] }

/-- After link UP: a speaker take for each WAITING channel of `p`, from S0 to S7 (R102). -/
def State.linkUpTakes (s : State) (p : PositionId) : State :=
  if (s.position p).linkUp then (ascending 8).foldl (State.sendTake p) s else s

/-! ### Terms -/

/-- The channel terms of a source and a talkback setting (R98, R124). -/
def channelTerms (source : Option Source) (talkback : Bool) : Nat :=
  match source with
  | none => 0
  | some (.line _) => if talkback then 2 else 1
  | some (.group _) => 2

/-- The terms of the eight live channels of a position (R124). -/
def Speaker.liveTerms (x : Speaker) : Nat := (x.channels.items.map fun c => channelTerms c.source c.talkback).sum

/-- The terms of the eight channel plans of a position (R98). -/
def Speaker.planTerms (x : Speaker) : Nat := (x.plan.items.map fun c => channelTerms c.source c.talkback).sum

/-! ### Installing a plan -/

/-- The channel as it takes the plan of a changed source: PTT UP, must-release off, mute off, no wait reason; its
attach state follows in R100 (R99). -/
def Channel.replaced (c : ChannelPlan) : Channel where
  source := c.source
  level := c.level
  loudspeaker := c.loudspeaker
  talkback := c.talkback
  mute := false
  ptt := false
  mustRelease := false
  attach := .none
  waitReason := none

/-- The channel as it takes the plan of an unchanged source: mute and attach state are kept, and so is the PTT unless
talkback turns off on an ATTACHED channel (R99). -/
def Channel.updated (c : ChannelPlan) (x : Channel) : Channel :=
  let drop := decide (x.attach = .attached) && x.talkback && !c.talkback
  { x with
    level := c.level, loudspeaker := c.loudspeaker, talkback := c.talkback
    ptt := x.ptt && !drop, mustRelease := x.mustRelease && !(drop && x.ptt) }

/-- What a changed channel sends before it takes the plan: a detach of an ATTACHED line channel, a talk release for a
held PTT on a group (R99). -/
def State.takeDown (s : State) (p : PositionId) (n : ChannelId) : State :=
  let x := s.channel p n
  match x.source with
  | some (.line l) => if x.attach = .attached then (s.leave l p (.channel n)).1 else s
  | some (.group g) => if x.ptt then (s.talkRelease g p (.channel n)).1 else s
  | none => s

/-- The party update of an ATTACHED channel whose talkback the plan changes (R99). -/
def State.talkbackUpdate (s : State) (p : PositionId) (n : ChannelId) (v : Bool) : State :=
  let x := s.channel p n
  match x.source with
  | some (.line l) =>
    if decide (x.attach = .attached) && decide (x.talkback ≠ v) then s.updateTalkCapable l p (.channel n) v else s
  | some (.group _) | none => s

/-- The take-down or update of one channel (R99). -/
def State.planChannel (p : PositionId) (s : State) (n : ChannelId) : State :=
  let c := (s.speaker p).plan.get n
  let x := s.channel p n
  if x.source = c.source then (s.talkbackUpdate p n c.talkback).setChannel p n (x.updated c)
  else (s.takeDown p n).setChannel p n (Channel.replaced c)

/-- The attach phase for one channel: a line channel that is not ATTACHED is set WAITING and sends its take while the
link is UP; a group channel is LISTENING, one without source NONE (R100 steps 1 and 2). -/
def State.attachPhase (p : PositionId) (s : State) (n : ChannelId) : State :=
  let x := s.channel p n
  match x.source with
  | some (.line _) =>
    if x.attach = .attached then s
    else if (s.position p).linkUp then (s.setChannel p n { x with attach := .waiting }).sendTake p n
    else s.setChannel p n { x with attach := .waiting, waitReason := some .linkDown }
  | some (.group _) => s.setChannel p n { x with attach := .listening, waitReason := none }
  | none => s.setChannel p n { x with attach := .none, waitReason := none }

/-- The staged duck depth and knob floor become live, and each loudspeaker step below the new floor is raised to it
(R100 step 4). -/
def Speaker.installLevels (x : Speaker) : Speaker :=
  { x with
    duck := x.stagedDuck, knobFloor := x.stagedFloor
    step0 := max x.step0 x.stagedFloor, step1 := max x.step1 x.stagedFloor }

/-- The installation of the whole plan of `p` after its admission (R99, R100). `old` and `new` are the channel terms
judged by R98. -/
def State.installPlan (s : State) (p : PositionId) (old new : Nat) : State :=
  let s1 := (ascending 8).foldl (State.planChannel p) s
  let s2 := (ascending 8).foldl (State.attachPhase p) s1
  let s3 := { s2 with termCount := s2.termCount + new - old }
  s3.setSpeaker p (s3.speaker p).installLevels

/-! ### Link loss -/

/-- The Speaker Field's part of the link loss of `p` for one channel (R102). -/
def State.channelLinkLoss (p : PositionId) (s : State) (n : ChannelId) : State :=
  let x := s.channel p n
  let quietX := { x with ptt := false, mustRelease := false }
  match x.source with
  | some (.line l) =>
    let s1 := if x.attach = .attached then (s.leave l p (.channel n)).1 else s
    s1.setChannel p n { quietX with attach := .waiting, waitReason := some .linkDown }
  | some (.group g) =>
    let s1 := if x.ptt then (s.talkRelease g p (.channel n)).1 else s
    s1.setChannel p n quietX
  | none => s.setChannel p n quietX

/-- The Speaker Field's part of the link loss of `p` (R102). -/
def State.speakerLinkLoss (s : State) (p : PositionId) : State := (ascending 8).foldl (State.channelLinkLoss p) s

/-! ### Mute and push-to-talk -/

/-- SPK_MUTE n (R103). -/
def State.muteKey (s : State) (p : PositionId) (n : ChannelId) : State × ResultCode :=
  let x := s.channel p n
  match x.source with
  | none => (s, .noSource)
  | some _ => (s.setChannel p n { x with mute := !x.mute }, .ok)

/-- SPK_TALK n down (R104). -/
def State.talkKeyDown (s : State) (p : PositionId) (n : ChannelId) : State × ResultCode :=
  let x := s.channel p n
  if x.ptt then (s, .noChange)
  else
    match x.source with
    | none => (s, .noSource)
    | some (.line l) =>
      if decide (x.attach = .attached) && x.talkback then
        ((s.updateTalking l p (.channel n) true).setChannel p n { x with ptt := true }, .ok)
      else (s, .noTalkback)
    | some (.group g) =>
      match s.talkRequest g p (.channel n) with
      | (s1, .talker) => (s1.setChannel p n { x with ptt := true }, .talker)
      | (s1, .waiting) => (s1.setChannel p n { x with ptt := true }, .waiting)
      | (s1, .noChange) => (s1.setChannel p n { x with ptt := true }, .noChange)
      | (s1, r) => (s1, r)

/-- SPK_TALK n up (R105). -/
def State.talkKeyUp (s : State) (p : PositionId) (n : ChannelId) : State × ResultCode :=
  let x := s.channel p n
  if !x.ptt then (s, .noChange)
  else
    let s1 := s.setChannel p n { x with ptt := false, mustRelease := false }
    match x.source with
    | some (.group g) => s1.talkRelease g p (.channel n)
    | some (.line l) =>
      if x.attach = .attached then (s1.updateTalking l p (.channel n) false, .ok) else (s1, .ok)
    | none => (s1, .ok)

/-- The Intercom Unit hands over a floor timeout for mic source Sn: must-release is set unless the PTT is UP
(R105). -/
def State.setMustRelease (s : State) (p : PositionId) (n : ChannelId) : State :=
  let x := s.channel p n
  if x.ptt then s.setChannel p n { x with mustRelease := true } else s

/-! ### Conversation and suppression -/

/-- The position is in conversation (R106). -/
def State.inConversation (s : State) (p : PositionId) : Bool :=
  (decide (s.hook p .h0 = .off) && (s.slot p .h0).isSome) || (decide (s.hook p .h1 = .off) && (s.slot p .h1).isSome)

/-- Whether a slot holds a source, through any key. -/
def holdsSource (slot : Option Held) (x : Source) : Bool :=
  match slot with
  | some c => decide (c.source = x)
  | none => false

/-- Channel `n` of `p` is suppressed: its source is also held in a handset slot of the position (R107). -/
def State.suppressed (s : State) (p : PositionId) (n : ChannelId) : Bool :=
  match (s.channel p n).source with
  | some x => holdsSource (s.slot p .h0) x || holdsSource (s.slot p .h1) x
  | none => false

/-- The effective step of a level step while the position is in conversation (R106). -/
def duckedStep (level : Step) (duck : Fin 13) : Step :=
  if level = 0 then 0
  else if level.val ≤ duck.val + 1 then 1
  else ⟨level.val - duck.val, Nat.lt_of_le_of_lt (Nat.sub_le _ _) level.isLt⟩

/-! ### Knobs -/

/-- What a new phase pair is against the stored one (R108). -/
inductive Detent where
  | forward | back | invalid | same
deriving DecidableEq, Repr

/-- The table of R108: forward runs (0,0), (0,1), (1,1), (1,0) and round again. -/
def detent (a b a' b' : Bool) : Detent :=
  match a, b, a', b' with
  | false, false, false, true => .forward
  | false, false, true, false => .back
  | false, true, true, true => .forward
  | false, true, false, false => .back
  | true, true, true, false => .forward
  | true, true, false, true => .back
  | true, false, false, false => .forward
  | true, false, true, true => .back
  | false, false, true, true => .invalid
  | true, true, false, false => .invalid
  | false, true, true, false => .invalid
  | true, false, false, true => .invalid
  | false, false, false, false => .same
  | false, true, false, true => .same
  | true, true, true, true => .same
  | true, false, true, false => .same

/-- The loudspeaker that a knob drives. -/
def KnobId.loudspeaker (j : KnobId) : Loudspeaker := if j = 0 then .ls0 else .ls1

def Position.knob (x : Position) (j : KnobId) : KnobState := if j = 0 then x.knob0 else x.knob1

def Position.setKnob (x : Position) (j : KnobId) (k : KnobState) : Position :=
  if j = 0 then { x with knob0 := k } else { x with knob1 := k }

/-- The step above, holding at 27 (R109). -/
def stepUp (v : Step) : Step := if h : v.val + 1 < 28 then ⟨v.val + 1, h⟩ else v

/-- The step below, holding at the knob floor (R109). -/
def stepDown (floor v : Step) : Step :=
  if v = floor then v else ⟨v.val - 1, Nat.lt_of_le_of_lt (Nat.sub_le _ _) v.isLt⟩

/-- The loudspeaker step of `p` becomes `v`; a change raises KNOB, and a step that holds raises nothing (R109). -/
def State.knobStep (s : State) (p : PositionId) (ls : Loudspeaker) (v : Step) : State :=
  if v = (s.speaker p).step ls then s
  else (s.setSpeaker p ((s.speaker p).setStep ls v)).raise (.knob p ls v)

/-- Knob `j` of `p` stores its new phase pair with residue `r`; a residue of +4 or -4 is taken as a step and becomes
0 (R108, R109). -/
def State.knobResidue (s : State) (p : PositionId) (j : KnobId) (a b : Bool) (r : Int) : State :=
  let store (r : Int) (s : State) : State := s.setPosition p ((s.position p).setKnob j ⟨a, b, r⟩)
  let ls := KnobId.loudspeaker j
  if r = 4 then (store 0 s).knobStep p ls (stepUp ((s.speaker p).step ls))
  else if r = -4 then (store 0 s).knobStep p ls (stepDown (s.speaker p).knobFloor ((s.speaker p).step ls))
  else store r s

/-- A KNOB event (R108). -/
def State.knobEvent (s : State) (p : PositionId) (j : KnobId) (a b : Bool) : State :=
  let k := (s.position p).knob j
  match detent k.a k.b a b with
  | .forward => s.knobResidue p j a b (k.residue + 1)
  | .back => s.knobResidue p j a b (k.residue - 1)
  | .invalid => s.knobResidue p j a b 0
  | .same => s

end Sys2Proof.Machine
end

