-- ==== Sys2Proof/Machine/PositionOps.lean ====
section
/-! DEFINITION. The Position Table's interpretation of keys, function keys and hook events (R34 to R48), denials and
deny displays (R53), and the link loss of a position (R55). Each interpretation answers its result, and for a group
key the talk outcome, so that KEY INJECT can return them (R36). -/

namespace Sys2Proof.Machine

/-! ### Denials -/

/-- The lamp of key `k`. -/
def keyLamp (k : Key) : LampId := ⟨k.val, Nat.lt_of_lt_of_le k.isLt (by decide)⟩

/-- The lamp of speaker channel `n`. -/
def channelLamp (n : ChannelId) : LampId := ⟨64 + n.val, Nat.add_lt_add_left n.isLt 64⟩

/-- The deny display of a lamp starts, or restarts, for its 1 s (R53). -/
def State.startDeny (s : State) (p : PositionId) (lamp : LampId) : State :=
  s.setPosition p { s.position p with deny := (s.position p).deny.set lamp (some (s.dueIn Config.denyMs)) }

/-- A denial: KEY_DENIED with the reason and the origin, and DENY on the lamp it concerns, if any (R53). -/
def State.denyKey (s : State) (p : PositionId) (lamp : Option LampId) (reason : ResultCode) (o : Origin) : State :=
  let s1 := s.raise (.keyDenied p lamp reason o)
  match lamp with
  | some x => s1.startDeny p x
  | none => s1

/-! ### Slot changes -/

/-- The old content of a slot is disposed of by switch-away (R39). -/
def State.switchAway (s : State) (p : PositionId) (h : Handset) (old : Option Held) : State :=
  match old with
  | none => s
  | some ⟨.group g, _⟩ => (s.talkRelease g p (.handset h)).1
  | some ⟨.line x, _⟩ =>
    match (s.position p).switchAway with
    | .hold => (s.hold x p h).1
    | .release => (s.leave x p (.handset h)).1

/-- Slot `h` of `p` is emptied as a release: a leave of its line or a talk release of its group, the change of slot and
term count, and the binding report (R34, R42, R47). -/
def State.releaseSlot (s : State) (p : PositionId) (h : Handset) : State × ResultCode :=
  match s.slot p h with
  | none => (s, .noChange)
  | some ⟨.line l, k⟩ =>
    let s1 := (s.leave l p (.handset h)).1
    ((s1.setSlot p h none).reportEnd p k, .left)
  | some ⟨.group g, k⟩ =>
    let s1 := (s.talkRelease g p (.handset h)).1
    ((s1.setSlot p h none).reportEnd p k, .ok)

/-- Slot `h` of `p` takes `new` in place of `old`: switch-away, the change of slot and term count, and the binding
report of the old content (R34, R39, R40). -/
def State.replaceSlot (s : State) (p : PositionId) (h : Handset) (old : Option Held) (new : Held) : State :=
  ((s.switchAway p h old).setSlot p h (some new)).reportSlot p old

/-- The hold owner that a pickup of a line in this record would clear (R15). -/
def Line.pickedUpOwner (ln : Line) : Option KeyRef :=
  match ln.state with
  | .held => ln.holdOwner
  | .recall => ln.holdOwner
  | .idle | .ringing | .calling | .active | .guard | .fault | .outOfService => none

/-- A line key: line `l` is asked to take handset `h` through key `k` as a slot change (R39). The admission comes
first, then the line's judgement; a refusal denies key `k`. After a pickup the end of the hold binding is reported
once the slot is filled (R8, R15). -/
def State.takeIntoSlot (s : State) (p : PositionId) (h : Handset) (l : LineId) (k : Key) (o : Origin) :
    State × ResultCode :=
  let old := s.slot p h
  if !s.admits (slotCost old) 3 then (s.denyKey p (some (keyLamp k)) .mixFull o, .mixFull)
  else
    let owner := (s.line l).pickedUpOwner
    match s.take l (s.handsetTake p h k o) with
    | (s1, .ok) => ((s1.replaceSlot p h old ⟨.line l, k⟩).reportOwner owner, .ok)
    | (_, r) => (s.denyKey p (some (keyLamp k)) r o, r)

/-- A group key naming `g` (R40). The second result is the talk outcome of a slot change that was taken. The binding report
of the old content comes before the talk request: the model's choice, since R34 and R40 put both after the filling of the
slot and do not order them (log entry 22). -/
def State.groupKey (s : State) (p : PositionId) (h : Handset) (g : GroupId) (k : Key) (o : Origin) :
    State × ResultCode × Option ResultCode :=
  let old := s.slot p h
  let deny (r : ResultCode) : State × ResultCode × Option ResultCode :=
    (s.denyKey p (some (keyLamp k)) r o, r, none)
  if holdsSource old (.group g) then (s, .noChange, none)
  else if !(s.group g).defined then deny .notDefined
  else if ((s.group g).member? p).isNone then deny .notMember
  else if !s.admits (slotCost old) 2 then deny .mixFull
  else
    match (s.replaceSlot p h old ⟨.group g, k⟩).talkRequest g p (.handset h) with
    | (s2, .floorFull) => (s2.denyKey p (some (keyLamp k)) .floorFull o, .ok, some .floorFull)
    | (s2, outcome) => (s2, .ok, some outcome)

/-! ### Appearance keys -/

/-- A KEY down on key `k` at position `p`, whose link is UP and whose layout shows the key (R37 to R40). -/
def State.pressKey (s : State) (p : PositionId) (k : Key) (o : Origin) : State × ResultCode × Option ResultCode :=
  let h := s.selected p
  match (s.entry p k).content with
  | .empty => (s.denyKey p (some (keyLamp k)) .emptyKey o, .emptyKey, none)
  | .line l _ _ _ =>
    if holdsSource (s.slot p h) (.line l) then
      match s.reRing l p h with
      | (s1, r) => (s1, r, none)
    else
      match s.takeIntoSlot p h l k o with
      | (s1, r) => (s1, r, none)
  | .group g => s.groupKey p h g k o

/-! ### Function keys -/

/-- HOLD (R41). -/
def State.holdKey (s : State) (p : PositionId) (o : Origin) : State × ResultCode :=
  let h := s.selected p
  match s.slot p h with
  | none => (s.denyKey p none .noLine o, .noLine)
  | some ⟨.line l, k⟩ =>
    match s.hold l p h with
    | (s1, r) => ((s1.setSlot p h none).reportEnd p k, r)
  | some ⟨.group _, _⟩ => s.releaseSlot p h

/-- RELEASE (R42). -/
def State.releaseKey (s : State) (p : PositionId) : State × ResultCode := s.releaseSlot p (s.selected p)

/-- The head of the ring queue is taken into handset `h` through the head entry's key (R43). -/
def State.answerHead (s : State) (p : PositionId) (h : Handset) (o : Origin) : State × ResultCode :=
  match (s.position p).ringQueue with
  | [] => (s.denyKey p none .nothingRinging o, .nothingRinging)
  | e :: _ => s.takeIntoSlot p h e.line e.key o

/-- ANSWER (R43). -/
def State.answerKey (s : State) (p : PositionId) (o : Origin) : State × ResultCode :=
  s.answerHead p (s.selected p) o

/-- PRIVACY (R44). -/
def State.privacyKey (s : State) (p : PositionId) (o : Origin) : State × ResultCode :=
  let h := s.selected p
  match s.slot p h with
  | none => (s.denyKey p none .noLine o, .noLine)
  | some ⟨.group _, k⟩ => (s.denyKey p (some (keyLamp k)) .noLine o, .noLine)
  | some ⟨.line l, k⟩ =>
    match s.privacyRequest l p h with
    | (s1, .ok) => (s1, .ok)
    | (_, _) => (s.denyKey p (some (keyLamp k)) .notPrincipal o, .notPrincipal)

/-- SELECT_H0 and SELECT_H1 (R45). -/
def State.selectKey (s : State) (p : PositionId) (h : Handset) : State × ResultCode :=
  if s.selected p = h then (s, .noChange) else (s.setPosition p { s.position p with selected := h }, .ok)

/-- RING_SILENCE: the silenced flag is set, and a sounding ringer enters SILENCED with its timer cancelled (R45,
R70). -/
def State.silenceKey (s : State) (p : PositionId) : State × ResultCode :=
  let x := s.position p
  if x.ringQueue.isEmpty then (s, .noChange)
  else (s.setPosition p { x with ringer := { x.ringer with silenced := true, cadence := none } }, .ok)

/-- A mute or PTT result of the Speaker Field: a named refusal is shown as DENY on the channel's lamp (R46, R53). -/
def State.channelResult (p : PositionId) (n : ChannelId) (o : Origin) (x : State × ResultCode) : State × ResultCode :=
  match x with
  | (s, .noSource) => (s.denyKey p (some (channelLamp n)) .noSource o, .noSource)
  | (s, .noTalkback) => (s.denyKey p (some (channelLamp n)) .noTalkback o, .noTalkback)
  | (s, .floorFull) => (s.denyKey p (some (channelLamp n)) .floorFull o, .floorFull)
  | (s, .notDefined) => (s.denyKey p (some (channelLamp n)) .notDefined o, .notDefined)
  | (s, .notMember) => (s.denyKey p (some (channelLamp n)) .notMember o, .notMember)
  | (s, r) => (s, r)

/-- SPK_MUTE n (R46, R103). -/
def State.spkMuteKey (s : State) (p : PositionId) (n : ChannelId) (o : Origin) : State × ResultCode :=
  State.channelResult p n o (s.muteKey p n)

/-- SPK_TALK n down (R46, R104). -/
def State.spkTalkDownKey (s : State) (p : PositionId) (n : ChannelId) (o : Origin) : State × ResultCode :=
  State.channelResult p n o (s.talkKeyDown p n)

/-! ### Hookswitch -/

/-- HOOK h ON: the hook changes and a filled slot is emptied as a release (R47). -/
def State.hookOnEvent (s : State) (p : PositionId) (h : Handset) : State :=
  match s.hook p h with
  | .on => s
  | .off =>
    ((s.setPosition p ((s.position p).setHandset h { (s.position p).handset h with hook := .on })).releaseSlot p h).1

/-- HOOK h OFF: the hook changes, `h` is selected, and its party talks or the ring queue's head is answered (R48). -/
def State.hookOffEvent (s : State) (p : PositionId) (h : Handset) : State :=
  match s.hook p h with
  | .off => s
  | .on =>
    let s1 := s.setPosition p
      { (s.position p).setHandset h { (s.position p).handset h with hook := .off } with selected := h }
    match s.slot p h with
    | some ⟨.line l, _⟩ => s1.updateTalking l p (.handset h) true
    | some ⟨.group _, _⟩ => s1
    | none =>
      if (s.position p).answerOnLift && !(s.position p).ringQueue.isEmpty then (s1.answerHead p h .turret).1 else s1

/-! ### Link loss -/

/-- The position record after its link left UP: not UP, both hooks ON, both residues 0, no deny display (R55). -/
def Position.linkLost (x : Position) : Position :=
  { x with
    linkUp := false
    h0 := { x.h0 with hook := .on }
    h1 := { x.h1 with hook := .on }
    knob0 := { x.knob0 with residue := 0 }
    knob1 := { x.knob1 with residue := 0 }
    deny := Table.fill 72 none }

/-- The position's live state is cleared as one event when its link leaves UP (R55): the slots, the speaker channels
(R102) and the group entries (R89). -/
def State.positionLinkLoss (s : State) (p : PositionId) : State :=
  let s1 := s.setPosition p { s.position p with linkUp := false }
  let s2 := ((s1.releaseSlot p .h0).1.releaseSlot p .h1).1
  let s3 := (s2.speakerLinkLoss p).intercomLinkLoss p
  s3.setPosition p (s3.position p).linkLost

end Sys2Proof.Machine
end

