-- ==== Sys2Proof/Machine/LampOps.lean ====
section
/-! DEFINITION. The Lamp Unit: derived and shown codes (R59 to R64), the comparison with the lamp image after each event
(R65, R66, R68), the full refresh (R67), the outbound lamp queue (R157), and the end of an event. -/

namespace Sys2Proof.Machine

/-! ### Derivation -/

/-- `p` is a handset party of the line through key `k` (R61). -/
def Line.handsetPartyThrough (ln : Line) (p : PositionId) (k : Key) : Bool :=
  ln.parties.any fun x => decide (x.position = p) && x.path.isHandset && decide (x.key = some k)

/-- The code of a key lamp whose entry names a line (R61). -/
def lineLamp (ln : Line) (p : PositionId) (k : Key) : LampCode :=
  match ln.state with
  | .idle => if ln.missed = 0 then .off else .redWink
  | .ringing =>
    match ln.cls with
    | .normal => .greenFast
    | .priority => .amberFast
  | .calling =>
    if ln.handsetPartyThrough p k then (if ln.unanswered then .greenWink else .greenSteady)
    else if ln.privacy then .amberSteady
    else .redSteady
  | .active =>
    if ln.handsetPartyThrough p k then .greenSteady
    else if ln.privacy then .amberSteady
    else .redSteady
  | .held => if ln.holdOwner = some ⟨p, k⟩ then .greenSlow else .redSlow
  | .recall => if ln.holdOwner = some ⟨p, k⟩ then .greenFast else .redSlow
  | .guard => .redSteady
  | .fault => .redFast
  | .outOfService => .redFast

/-- A handset slot of `p` holds `x` through key `k`. -/
def State.slotHolds (s : State) (p : PositionId) (x : Source) (k : Key) : Bool :=
  decide (s.slot p .h0 = some ⟨x, k⟩) || decide (s.slot p .h1 = some ⟨x, k⟩)

/-- The code of a key lamp whose entry names a group: the first line of the table that holds (R62). -/
def State.groupLamp (s : State) (p : PositionId) (g : GroupId) (k : Key) : LampCode :=
  let x := s.group g
  if !x.defined then .redFast
  else if s.slotHolds p (.group g) k then
    if (x.talker? p).isSome then .greenSteady
    else if (x.waiter? p).isSome then .greenSlow
    else .greenWink
  else if x.talkers.isEmpty then .off
  else .redSteady

/-- The derived code of key lamp (p, k), from the current content of its entry (R60). -/
def State.keyCode (s : State) (p : PositionId) (k : Key) : LampCode :=
  match (s.entry p k).content with
  | .empty => .off
  | .line l _ _ _ => lineLamp (s.line l) p k
  | .group g => s.groupLamp p g k

/-- Party (p, Sn) of the channel's line is talking. -/
def Line.talkingParty (ln : Line) (p : PositionId) (path : Path) : Bool :=
  match ln.party? p path with
  | some x => x.talking
  | none => false

/-- `p` holds a talker entry of the group with this mic source. -/
def Group.talksFrom (x : Group) (p : PositionId) (src : Path) : Bool :=
  match x.talker? p with
  | some t => decide (t.source = src)
  | none => false

/-- `p` holds a waiting entry of the group with this mic source. -/
def Group.waitsFrom (x : Group) (p : PositionId) (src : Path) : Bool :=
  match x.waiter? p with
  | some w => decide (w.source = src)
  | none => false

/-- The last two lines of the table of R63. -/
def listeningCode (mute : Bool) : LampCode := if mute then .greenSlow else .greenSteady

/-- The derived code of channel lamp (p, n): the first line of the table that holds (R63). -/
def State.channelCode (s : State) (p : PositionId) (n : ChannelId) : LampCode :=
  let x := s.channel p n
  match x.source with
  | none => .off
  | some (.line l) =>
    if x.attach = .waiting then .redSteady
    else if decide (x.attach = .attached) && (s.line l).talkingParty p (.channel n) then .greenFast
    else listeningCode x.mute
  | some (.group g) =>
    if x.attach = .waiting then .redSteady
    else if (s.group g).talksFrom p (.channel n) then .greenFast
    else if (s.group g).waitsFrom p (.channel n) then .amberSteady
    else listeningCode x.mute

/-- The derived code of a lamp (R60). -/
def State.derivedCode (s : State) (p : PositionId) (x : LampId) : LampCode :=
  if h : x.val < 64 then s.keyCode p ⟨x.val, h⟩
  else s.channelCode p ⟨x.val - 64, Nat.sub_lt_left_of_lt_add (Nat.le_of_not_lt h) x.isLt⟩

/-- The shown code of a lamp: DENY while it has a deny display, its derived code otherwise (R59, R64). -/
def State.shownCode (s : State) (p : PositionId) (x : LampId) : LampCode :=
  match (s.position p).deny.get x with
  | some _ => .deny
  | none => s.derivedCode p x

/-! ### Transmission -/

/-- The lamp belongs to the turret's layout: the key lamps below the key count, and the channel lamps (R65, R68). -/
def Layout.shows (y : Layout) (x : LampId) : Bool := decide (x.val < y.keyCount) || decide (64 ≤ x.val)

/-- The lamps of a layout in the order of transmission: key lamps ascending, then S0 to S7 (R65, R67). -/
def Layout.lamps (y : Layout) : List LampId := (ascending 72).filter y.shows

/-- An update handed to a link: it replaces the queued update of its lamp and joins the tail (R157). -/
def handUpdate (q : List LampUpdate) (u : LampUpdate) : List LampUpdate :=
  (q.filter fun v => decide (v.lamp ≠ u.lamp)) ++ [u]

/-- The updates that the event leaves due for `p`: none while the link is not UP or the stale mark is set, otherwise
one for each lamp of the layout whose shown code differs from its image entry (R65, R66). -/
def State.dueUpdates (s : State) (p : PositionId) : List LampUpdate :=
  if (s.position p).linkUp && !(s.lamps.get p).stale then
    ((s.position p).layout.lamps.filter fun x => decide (s.shownCode p x ≠ (s.lamps.get p).image.get x)).map
      fun x => ⟨x, s.shownCode p x⟩
  else []

/-- Every update of a full refresh of `p`: each lamp of the layout with its shown code (R67). -/
def State.refreshUpdates (s : State) (p : PositionId) : List LampUpdate :=
  (s.position p).layout.lamps.map fun x => ⟨x, s.shownCode p x⟩

/-- The image entries take the codes sent (R65). -/
def recordSent (image : Table 72 LampCode) (us : List LampUpdate) : Table 72 LampCode :=
  us.foldl (fun i u => i.set u.lamp u.code) image

/-- The Lamp Unit hands the updates due at every position (R65). Only the shown codes that the event leaves are
compared, and a lamp whose derivation read nothing that changed still equals its image entry, so comparing every lamp
sends what comparing the re-derived ones sends (log entry 8). -/
def State.sendLamps (s : State) : State :=
  { s with
    links := Table.ofFn fun p =>
      { s.link p with lampQueue := (s.dueUpdates p).foldl handUpdate (s.link p).lampQueue }
    lamps := Table.ofFn fun p =>
      { s.lamps.get p with image := recordSent (s.lamps.get p).image (s.dueUpdates p) } }

/-- A full refresh of `p` at link UP; the stale mark is cleared (R67). -/
def State.fullRefresh (s : State) (p : PositionId) : State :=
  { s with
    links := s.links.set p
      { s.link p with lampQueue := (s.refreshUpdates p).foldl handUpdate (s.link p).lampQueue }
    lamps := s.lamps.set p ⟨recordSent (s.lamps.get p).image (s.refreshUpdates p), false⟩ }

/-! ### The end of an event -/

/-- An event ends: the attach opportunities it offered are taken (R8), then the Lamp Unit compares the codes that the
event left (R65). -/
def State.finish (s : State) : State := s.takeOffers.sendLamps

end Sys2Proof.Machine
end

