-- ==== Sys2Proof/Machine/Operands.lean ====
section
/-! DEFINITION. The arguments of requests as bytes, and the data of their responses (R172, R173, R174, R175). An argument
reader answers none where the owning block refuses with BAD_ARG. -/

namespace Sys2Proof.Machine

/-! ### Arguments -/

/-- A number below `n`. -/
def numberArg (n : Nat) (b : Byte) : Option (Fin n) := if h : b.toNat < n then some ⟨b.toNat, h⟩ else none

def lineArg (b : Byte) : Option LineId := numberArg 160 b
def positionArg (b : Byte) : Option PositionId := numberArg 32 b
def groupArg (b : Byte) : Option GroupId := numberArg 16 b
def channelArg (b : Byte) : Option ChannelId := numberArg 8 b
def keyArg (b : Byte) : Option Key := numberArg 64 b
def pageArg (b : Byte) : Option (Fin 128) := numberArg 128 b
def slotArg (b : Byte) : Option (Fin 16) := numberArg 16 b

/-- On and off: 0 off, 1 on (R172). -/
def flagArg (b : Byte) : Option Bool :=
  match b.toNat with
  | 0 => some false
  | 1 => some true
  | _ => none

def classArg (b : Byte) : Option LineClass :=
  match b.toNat with
  | 0 => some .normal
  | 1 => some .priority
  | _ => none

def bargeArg (b : Byte) : Option BargePolicy :=
  match b.toNat with
  | 0 => some .openPolicy
  | 1 => some .closed
  | _ => none

def ringdownArg (b : Byte) : Option Ringdown :=
  match b.toNat with
  | 0 => some .auto
  | 1 => some .none
  | _ => none

/-- The direction of LINE SERVICE. -/
inductive ServiceDirection where
  | out
  | into
deriving DecidableEq, Repr

def directionArg (b : Byte) : Option ServiceDirection :=
  match b.toNat with
  | 0 => some .out
  | 1 => some .into
  | _ => none

def switchAwayArg (b : Byte) : Option SwitchAway :=
  match b.toNat with
  | 0 => some .hold
  | 1 => some .release
  | _ => none

/-- A ringer tone, given as its frequency in Hz (R172). -/
def toneArg (b : Half) : Option RingerTone :=
  match b.toNat with
  | 400 => some .hz400
  | 500 => some .hz500
  | 800 => some .hz800
  | 1000 => some .hz1000
  | _ => none

def loudspeakerArg (b : Byte) : Option Loudspeaker :=
  match b.toNat with
  | 0 => some .ls0
  | 1 => some .ls1
  | _ => none

/-- The function of KEY INJECT by its code (R173). -/
def funcArg (b : Byte) : Option Func :=
  match b.toNat with
  | 0 => some .hold
  | 1 => some .release
  | 2 => some .answer
  | 3 => some .privacy
  | 4 => some .selectH0
  | 5 => some .selectH1
  | 6 => some .ringSilence
  | 7 => some .spkMute
  | 8 => some .spkTalk
  | _ => none

/-- A source: its kind (none 0, line 1, group 2) and number; the number of no source is not read (R172). -/
def sourceArg (kind number : Byte) : Option (Option Source) :=
  match kind.toNat with
  | 0 => some none
  | 1 => (lineArg number).map fun l => some (.line l)
  | 2 => (groupArg number).map fun g => some (.group g)
  | _ => none

/-- A directory content: the target of EMPTY and the attributes of EMPTY and GROUP are discarded (R139). -/
def contentArg (kind target attributes : Byte) : Option Content :=
  match kind.toNat with
  | 0 => some .empty
  | 1 => (lineArg target).map fun l =>
    .line l (attributes.getLsbD 0) (attributes.getLsbD 1) (attributes.getLsbD 2)
  | 2 => (groupArg target).map .group
  | _ => none

/-- The new guard of GUARD SET: OPEN, OWNED, OWNED_PRIVATE or SEALED (R145, R173). -/
inductive GuardName where
  | openGuard | owned | ownedPrivate | sealed
deriving DecidableEq, Repr

def guardArg (b : Byte) : Option GuardName :=
  match b.toNat with
  | 0 => some .openGuard
  | 1 => some .owned
  | 2 => some .ownedPrivate
  | 3 => some .sealed
  | _ => none

/-- A level step above 27 is taken as 27 (R57, R96). -/
def clampStep (b : Byte) : Step := if h : b.toNat < 28 then ⟨b.toNat, h⟩ else 27

/-- A duck depth above 12 is taken as 12 (R97). -/
def clampDuck (b : Byte) : Fin 13 := if h : b.toNat < 13 then ⟨b.toNat, h⟩ else 12

/-- A knob floor of 0 is taken as 1, and one above 27 as 27 (R97). -/
def clampFloor (b : Byte) : Step := if b.toNat = 0 then 1 else clampStep b

/-! ### Codes -/

def LineState.code : LineState → Nat
  | .idle => 0 | .ringing => 1 | .calling => 2 | .active => 3 | .held => 4 | .recall => 5 | .guard => 6
  | .fault => 7 | .outOfService => 8

def LineClass.code : LineClass → Nat
  | .normal => 0
  | .priority => 1

def BargePolicy.code : BargePolicy → Nat
  | .openPolicy => 0
  | .closed => 1

def Ringdown.code : Ringdown → Nat
  | .auto => 0
  | .none => 1

def JoinedBy.code : JoinedBy → Nat
  | .key => 0
  | .inject => 1
  | .plan => 2

def Path.code : Path → Nat
  | .handset .h0 => 0
  | .handset .h1 => 1
  | .channel n => 2 + n.val

/-- NONE 0, BURST 1, ANSWER_WAIT 2, HOLD 3, RECALL 4, GUARD 5, as R1 lists them. -/
def timerCode : Option LineTimer → Nat
  | none => 0
  | some t =>
    match t.purpose with
    | .burst => 1
    | .answerWait => 2
    | .hold => 3
    | .recall => 4
    | .guard => 5

/-- The result codes of R174. -/
def ResultCode.code : ResultCode → Nat
  | .ok => 0 | .clamped => 1 | .noChange => 2 | .left => 3 | .released => 4 | .talker => 5 | .waiting => 6
  | .unknownRequest => 16 | .badArg => 17 | .mixFull => 18 | .linkDown => 19 | .notPermitted => 20 | .inUse => 21
  | .notDefined => 22 | .notMember => 23 | .alreadyDefined => 24 | .groupFull => 25 | .floorFull => 26
  | .pageMismatch => 27 | .guarded => 28 | .quietAsserted => 29 | .lineGuard => 32 | .lineFault => 33
  | .lineOutOfService => 34 | .lineHeld => 35 | .alreadyParty => 36 | .deniedClosed => 37 | .deniedPrivate => 38
  | .noBarge => 39 | .lineFull => 40 | .heldPrivate => 41 | .noPickup => 42 | .notParty => 43 | .notPrincipal => 44
  | .emptyKey => 48 | .noLine => 49 | .nothingRinging => 50 | .noTalkback => 51 | .noSource => 52

def Attach.code : Attach → Nat
  | .none => 0
  | .attached => 1
  | .waiting => 2
  | .listening => 3

def Quiet.code : Quiet → Nat
  | .off => 0
  | .on => 1
  | .holding => 2

def Loudspeaker.code : Loudspeaker → Nat
  | .ls0 => 0
  | .ls1 => 1

def handsetCode : Handset → Nat
  | .h0 => 0
  | .h1 => 1

def hookCode : Hook → Nat
  | .on => 0
  | .off => 1

def SwitchAway.code : SwitchAway → Nat
  | .hold => 0
  | .release => 1

def RingKind.code : RingKind → Nat
  | .ring => 0
  | .recall => 1

def ContentKind.code : ContentKind → Nat
  | .empty => 0
  | .line => 1
  | .group => 2

def RingerTone.hertz : RingerTone → Nat
  | .hz400 => 400
  | .hz500 => 500
  | .hz800 => 800
  | .hz1000 => 1000

def Layout.code : Layout → Nat
  | .keys32 => 0
  | .keys64 => 1

def LossCause.code : LossCause → Nat
  | .timeout => 0
  | .reannounce => 1

def Origin.code : Origin → Nat
  | .turret => 0
  | .inject => 1

def PositionOutput.code : PositionOutput → Nat
  | .h0 => 0
  | .h1 => 1
  | .ls0 => 2
  | .ls1 => 3

/-! ### Pieces of response data -/

/-- A hold owner: position and key, 255 for both when absent (R172). -/
def ownerBytes : Option KeyRef → List Byte
  | some o => [byteOf o.position.val, byteOf o.key.val]
  | none => [absentByte, absentByte]

def keyByte : Option Key → Byte
  | some k => byteOf k.val
  | none => absentByte

/-- A source: kind and number, 255 for the number of no source (R172). -/
def sourceBytes : Option Source → List Byte
  | none => [0, absentByte]
  | some (.line l) => [1, byteOf l.val]
  | some (.group g) => [2, byteOf g.val]

/-- A slot content: kind, number and key (R172). -/
def slotBytes : Option Held → List Byte
  | none => [0, absentByte, absentByte]
  | some ⟨.line l, k⟩ => [1, byteOf l.val, byteOf k.val]
  | some ⟨.group g, k⟩ => [2, byteOf g.val, byteOf k.val]

/-- The attribute byte of a content (R172). -/
def attributeByte (ring barge pickup : Bool) : Byte :=
  byteOf (ring.toNat + 2 * barge.toNat + 4 * pickup.toNat)

/-- A directory content: kind, target and attributes; a withheld target is 255 (R147, R172). -/
def contentBytes (withheld : Bool) : Content → List Byte
  | .empty => [0, absentByte, 0]
  | .line l r b k => [1, if withheld then absentByte else byteOf l.val, attributeByte r b k]
  | .group g => [2, if withheld then absentByte else byteOf g.val, 0]

def reasonByte : Option ResultCode → Byte
  | some r => byteOf r.code
  | none => absentByte

/-- A list: a count byte and its entries (R172). -/
def listBytes {α : Type} (f : α → List Byte) (xs : List α) : List Byte := byteOf xs.length :: xs.flatMap f

def partyBytes (x : Party) : List Byte :=
  [byteOf x.position.val, byteOf x.path.code, keyByte x.key, flagByte x.talkCapable, flagByte x.talking,
    byteOf x.joinedBy.code]

/-- The principal: its position and path, 255 for both when there is none (log entry 10). -/
def principalBytes : Option Party → List Byte
  | some x => [byteOf x.position.val, byteOf x.path.code]
  | none => [absentByte, absentByte]

def State.remainingBytes (s : State) : Option Nat → List Byte
  | some due => halfBytes (s.remaining due)
  | none => [0, 0]

/-! ### The data of the status reads -/

/-- LINE STATUS READ (R30). -/
def State.lineData (s : State) (l : LineId) : List Byte :=
  let x := s.line l
  [byteOf x.state.code] ++ listBytes partyBytes x.parties ++ principalBytes x.principal ++ [flagByte x.privacy]
    ++ ownerBytes x.holdOwner ++ [flagByte x.privateHold] ++ [byteOf (timerCode x.timer)]
    ++ s.remainingBytes (x.timer.map LineTimer.due)
    ++ [byteOf x.burstCount, flagByte x.unanswered, byteOf x.missed, flagByte x.signals.rd, flagByte x.signals.fl,
      flagByte x.signals.lf, flagByte x.sz, flagByte x.rg, byteOf x.cls.code, byteOf x.barge.code,
      byteOf x.ringdown.code]

def ringEntryBytes (e : RingEntry) : List Byte :=
  [byteOf e.line.val, byteOf e.key.val, byteOf e.kind.code, byteOf e.cls.code]

/-- A knob residue: a number from 0 on as itself; the encoding of a negative one is open (log entry 2). -/
def residueByte (r : Int) : Byte := if 0 ≤ r then byteOf r.toNat else Config.negativeResidueByte r

/-- A knob: contact A, contact B and the residue, a byte each, the layout of the pair being the model's choice (R58, log
entry 10). -/
def knobBytes (k : KnobState) : List Byte := [flagByte k.a, flagByte k.b, residueByte k.residue]

/-- The lamps with a deny display, each with its remaining time (R58). R58 gives the list no order: that of ascending lamp
numbers, the keys before the channels, is the model's choice (log entry 10). -/
def State.denyList (s : State) (p : PositionId) : List (LampId × Nat) :=
  (ascending 72).filterMap fun x => ((s.position p).deny.get x).map fun due => (x, due)

/-- POSITION STATUS READ (R58). Whether the ringer sounds is 1 for yes and 0 for no, as every yes and no of a status read:
the model's choice (log entry 10). -/
def State.positionData (s : State) (p : PositionId) : List Byte :=
  let x := s.position p
  [if x.linkUp then 0 else 1, byteOf x.layout.keyCount, byteOf (hookCode x.h0.hook)] ++ slotBytes x.h0.slot
    ++ [byteOf (hookCode x.h1.hook)] ++ slotBytes x.h1.slot
    ++ [byteOf (handsetCode x.selected), byteOf x.switchAway.code, flagByte x.answerOnLift, byteOf x.handsetStep.val,
      byteOf x.ringerStep.val]
    ++ halfBytes x.ringerTone.hertz ++ listBytes ringEntryBytes x.ringQueue
    ++ [flagByte x.ringer.silenced, flagByte x.sounding] ++ knobBytes x.knob0 ++ knobBytes x.knob1
    ++ listBytes (fun e : LampId × Nat => byteOf e.1.val :: halfBytes (s.remaining e.2)) (s.denyList p)

def memberBytes (m : Member) : List Byte := [byteOf m.position.val, byteOf m.cls.code]

def State.talkerBytes (s : State) (t : Talker) : List Byte :=
  [byteOf t.position.val, byteOf t.source.code] ++ s.remainingBytes t.due

def waiterBytes (w : Waiter) : List Byte := [byteOf w.position.val, byteOf w.source.code, byteOf w.cls.code]

/-- GROUP STATUS READ (R81). -/
def State.groupData (s : State) (g : GroupId) : List Byte :=
  let x := s.group g
  [flagByte x.defined, byteOf x.talkerLimit, byteOf x.floorLimit] ++ listBytes memberBytes x.members
    ++ listBytes s.talkerBytes x.talkers ++ listBytes waiterBytes x.waiting

def channelBytes (x : Channel) : List Byte :=
  sourceBytes x.source
    ++ [byteOf x.level.val, byteOf x.loudspeaker.code, flagByte x.talkback, flagByte x.mute, flagByte x.ptt,
      flagByte x.mustRelease, byteOf x.attach.code, reasonByte x.waitReason]

def planBytes (x : ChannelPlan) : List Byte :=
  sourceBytes x.source ++ [byteOf x.level.val, byteOf x.loudspeaker.code, flagByte x.talkback]

/-- SPEAKER STATUS READ (R112). -/
def State.speakerData (s : State) (p : PositionId) : List Byte :=
  let x := s.speaker p
  x.channels.items.flatMap channelBytes ++ x.plan.items.flatMap planBytes
    ++ [byteOf x.stagedDuck.val, byteOf x.duck.val, byteOf x.stagedFloor.val, byteOf x.knobFloor.val,
      byteOf x.step0.val, byteOf x.step1.val, flagByte (s.inConversation p)]
    ++ (ascending 8).map (fun n => flagByte (s.suppressed p n)) ++ [byteOf s.quiet.code]

/-- The data of an installed MIX APPLY: each channel's attach state and wait reason, then the two loudspeaker steps
(R100). -/
def State.mixData (s : State) (p : PositionId) : List Byte :=
  let x := s.speaker p
  x.channels.items.flatMap (fun c => [byteOf c.attach.code, reasonByte c.waitReason])
    ++ [byteOf x.step0.val, byteOf x.step1.val]

/-- The code of a guard and the byte of its owner (R145, R147). -/
def guardBytes : Guard → List Byte
  | .openGuard => [0, absentByte]
  | .owned c => [1, byteOf c.val]
  | .ownedPrivate c => [2, byteOf c.val]
  | .sealed => [3, absentByte]

/-- Whether the guard withholds targets from port `c` (R144, R147). -/
def Guard.withholds (x : Guard) (c : Port) : Bool :=
  match x with
  | .ownedPrivate o => decide (o ≠ c)
  | .openGuard | .owned _ | .sealed => false

/-- ENTRY READ by port `c` (R147). -/
def State.entryData (s : State) (c : Port) (p : PositionId) (k : Key) : List Byte :=
  let e := s.entry p k
  let hide := (s.guardOf p).withholds c
  contentBytes hide e.content ++ [flagByte (s.bound p k), flagByte e.pendingContent.isSome]
    ++ (match e.pendingContent with
      | some x => contentBytes hide x
      | none => [])
    ++ guardBytes (s.guardOf p)

/-- The seven floor parameters in order of number, two bytes each (R171). -/
def Params.data (x : Params) : List Byte :=
  halfBytes x.guardTime ++ halfBytes x.burstTime ++ halfBytes x.answerWait ++ halfBytes x.burstLimit
    ++ halfBytes x.holdRecall ++ halfBytes x.recallLimit ++ halfBytes x.quietAutoresume.toNat

/-! ### Notices in NOTICE READ data (R175) -/

/-- The kind code of a notice (R175). -/
def NoticeBody.kindCode : NoticeBody → Nat
  | .lineState _ _ _ => 0 | .lineRing _ _ => 1 | .lineMissed _ _ => 2 | .lineUnanswered _ _ => 3
  | .farClear _ => 4 | .farSignal _ _ => 5 | .lineRecall _ _ => 6 | .holdAbandoned _ _ => 7
  | .keyDenied _ _ _ _ => 8 | .knob _ _ _ => 9 | .linkUp _ _ _ => 10 | .linkDown _ _ => 11
  | .linkReject _ _ => 12 | .floorGrant _ _ _ _ => 13 | .floorTimeout _ _ _ => 14 | .directoryApplied _ _ _ => 15
  | .clipLine _ => 16 | .clipPosition _ _ => 16 | .quietOn => 17 | .quietOff _ => 18

/-- The subject and detail of a notice: line, position, group, key, detail 1, detail 2 (R175). -/
def NoticeBody.fields : NoticeBody → List Byte
  | .lineState l a b => [byteOf l.val, absentByte, absentByte, absentByte, byteOf a.code, byteOf b.code]
  | .lineRing l k => [byteOf l.val, absentByte, absentByte, absentByte, byteOf k.code, 0]
  | .lineMissed l n => [byteOf l.val, absentByte, absentByte, absentByte, byteOf n, 0]
  | .lineUnanswered l n => [byteOf l.val, absentByte, absentByte, absentByte, byteOf n, 0]
  | .farClear l => [byteOf l.val, absentByte, absentByte, absentByte, 0, 0]
  | .farSignal l rd => [byteOf l.val, absentByte, absentByte, absentByte, flagByte rd, 0]
  | .lineRecall l (some o) => [byteOf l.val, byteOf o.position.val, absentByte, byteOf o.key.val, 0, 0]
  | .lineRecall l none => [byteOf l.val, absentByte, absentByte, absentByte, 0, 0]
  | .holdAbandoned l (some o) => [byteOf l.val, byteOf o.position.val, absentByte, byteOf o.key.val, 0, 0]
  | .holdAbandoned l none => [byteOf l.val, absentByte, absentByte, absentByte, 0, 0]
  | .keyDenied p (some x) r o =>
    [absentByte, byteOf p.val, absentByte, byteOf x.val, byteOf r.code, byteOf o.code]
  | .keyDenied p none r o => [absentByte, byteOf p.val, absentByte, absentByte, byteOf r.code, byteOf o.code]
  | .knob p ls v => [absentByte, byteOf p.val, absentByte, absentByte, byteOf ls.code, byteOf v.val]
  | .linkUp p y n => [absentByte, byteOf p.val, absentByte, absentByte, byteOf y.code, byteOf n]
  | .linkDown p c => [absentByte, byteOf p.val, absentByte, absentByte, byteOf c.code, 0]
  | .linkReject p n => [absentByte, byteOf p.val, absentByte, absentByte, n, 0]
  | .floorGrant g p x q => [absentByte, byteOf p.val, byteOf g.val, absentByte, byteOf x.code, flagByte q]
  | .floorTimeout g p x => [absentByte, byteOf p.val, byteOf g.val, absentByte, byteOf x.code, 0]
  | .directoryApplied p k x => [absentByte, byteOf p.val, absentByte, byteOf k.val, byteOf x.code, 0]
  | .clipLine l => [byteOf l.val, absentByte, absentByte, absentByte, 4, 0]
  | .clipPosition p x => [absentByte, byteOf p.val, absentByte, absentByte, byteOf x.code, 0]
  | .quietOn => [absentByte, absentByte, absentByte, absentByte, 0, 0]
  | .quietOff q => [absentByte, absentByte, absentByte, absentByte, byteOf q.code, 0]

/-- The nine fields of a notice (R175). -/
def Notice.bytes (x : Notice) : List Byte :=
  [byteOf x.body.kindCode, byteOf x.body.cls.code] ++ x.body.fields ++ [flagByte x.lost]

/-- A response frame: the length, the tag, the result and the data (R166). -/
def responseFrame (tag : Byte) (r : ResultCode) (data : List Byte) : List Byte :=
  halfBytes (data.length + 2) ++ tag :: byteOf r.code :: data

end Sys2Proof.Machine
end

