-- ==== Sys2Proof/Machine/DealerPositions.lean ====
section
/-! DEFINITION. The commands of the chapter Dealer Positions, with the two timers of a position: key, function-key and
hook events (R35 to R48), KEY INJECT (R36), the position requests (R57, R58), the deny timer (R54) and the cadence
timer (R71). -/

namespace Sys2Proof.Machine

/-! ### Delivery -/

/-- The Position Table takes a control event that the interface delivered: it leaves the head of the delivered events
(R154, log entry 4). -/
def Link.taken (ev : TurretEvent) (x : Link) : Link :=
  if x.delivered.head? = some ev then { x with delivered := x.delivered.tail } else x

def State.takeDelivered (s : State) (p : PositionId) (ev : TurretEvent) : State :=
  s.setLink p ((s.link p).taken ev)

/-- An inbound event of a position is taken while its link state is UP, and ignored otherwise (R35). -/
def State.turretEvent (s : State) (p : PositionId) (ev : TurretEvent) (act : State → State) : State :=
  let s1 := s.takeDelivered p ev
  if (s1.position p).linkUp then (act s1).finish else s1

/-- KEY_DOWN: an appearance key press; a key at or above the key count is ignored (R35, R37). -/
def execKeyDown (p : PositionId) (k : Key) (s : State) : Host.Outcome State Fault Refusal :=
  .next (s.turretEvent p (.key k true) fun s1 =>
    if k.val < (s1.position p).layout.keyCount then (s1.pressKey p k .turret).1 else s1)

/-- HOLD (R41). -/
def execHold (p : PositionId) (s : State) : Host.Outcome State Fault Refusal :=
  .next (s.turretEvent p (.func .hold 0 true) fun s1 => (s1.holdKey p .turret).1)

/-- RELEASE (R42). -/
def execRelease (p : PositionId) (s : State) : Host.Outcome State Fault Refusal :=
  .next (s.turretEvent p (.func .release 0 true) fun s1 => (s1.releaseKey p).1)

/-- ANSWER (R43). -/
def execAnswer (p : PositionId) (s : State) : Host.Outcome State Fault Refusal :=
  .next (s.turretEvent p (.func .answer 0 true) fun s1 => (s1.answerKey p .turret).1)

/-- PRIVACY (R44). -/
def execPrivacy (p : PositionId) (s : State) : Host.Outcome State Fault Refusal :=
  .next (s.turretEvent p (.func .privacy 0 true) fun s1 => (s1.privacyKey p .turret).1)

/-- SELECT_H0 (R45). -/
def execSelectH0 (p : PositionId) (s : State) : Host.Outcome State Fault Refusal :=
  .next (s.turretEvent p (.func .selectH0 0 true) fun s1 => (s1.selectKey p .h0).1)

/-- SELECT_H1 (R45). -/
def execSelectH1 (p : PositionId) (s : State) : Host.Outcome State Fault Refusal :=
  .next (s.turretEvent p (.func .selectH1 0 true) fun s1 => (s1.selectKey p .h1).1)

/-- RING_SILENCE (R45). -/
def execRingSilence (p : PositionId) (s : State) : Host.Outcome State Fault Refusal :=
  .next (s.turretEvent p (.func .ringSilence 0 true) fun s1 => (s1.silenceKey p).1)

/-- HOOK_ON (R47). -/
def execHookOn (p : PositionId) (h : Handset) (s : State) : Host.Outcome State Fault Refusal :=
  .next (s.turretEvent p (.hook h .on) fun s1 => s1.hookOnEvent p h)

/-- HOOK_OFF (R48). -/
def execHookOff (p : PositionId) (h : Handset) (s : State) : Host.Outcome State Fault Refusal :=
  .next (s.turretEvent p (.hook h .off) fun s1 => s1.hookOffEvent p h)

/-! ### KEY INJECT -/

/-- A FUNC event as the Position Table interprets it (R35, R41 to R46); `n` is the channel of SPK_MUTE and SPK_TALK. -/
def State.funcEvent (s : State) (p : PositionId) (f : Func) (n : ChannelId) (down : Bool) (o : Origin) :
    State × ResultCode :=
  match f, down with
  | .spkTalk, false => s.talkKeyUp p n
  | .hold, true => s.holdKey p o
  | .release, true => s.releaseKey p
  | .answer, true => s.answerKey p o
  | .privacy, true => s.privacyKey p o
  | .selectH0, true => s.selectKey p .h0
  | .selectH1, true => s.selectKey p .h1
  | .ringSilence, true => s.silenceKey p
  | .spkMute, true => s.spkMuteKey p n o
  | .spkTalk, true => s.spkTalkDownKey p n o
  | .hold, false | .release, false | .answer, false | .privacy, false | .selectH0, false | .selectH1, false
  | .ringSilence, false | .spkMute, false => (s, .noChange)

/-- The event of a KEY INJECT after its argument checks (R36). -/
inductive InjectEvent where
  | key (k : Key) (down : Bool)
  | func (f : Func) (n : ChannelId) (down : Bool)
deriving DecidableEq, Repr

/-- The channel byte of a FUNC event: read for SPK_MUTE and SPK_TALK alone (R36, R173). -/
def injectChannel (f : Func) (channel : Byte) : Option ChannelId :=
  match f with
  | .spkMute => channelArg channel
  | .spkTalk => channelArg channel
  | .hold | .release | .answer | .privacy | .selectH0 | .selectH1 | .ringSilence => some 0

/-- The argument checks of KEY INJECT on a position with layout `y` (R36). -/
def injectArg (y : Layout) (kind code channel direction : Byte) : Option InjectEvent :=
  match kind.toNat, flagArg direction with
  | 0, some down =>
    match keyArg code with
    | some k => if k.val < y.keyCount then some (.key k down) else none
    | none => none
  | 1, some down =>
    match funcArg code with
    | some f => (injectChannel f channel).map fun n => .func f n down
    | none => none
  | _, _ => none

/-- The interpretation of an injected event; a KEY up returns NO_CHANGE (R36). -/
def State.inject (s : State) (p : PositionId) (e : InjectEvent) : State × ResultCode × Option ResultCode :=
  match e with
  | .key k true => s.pressKey p k .inject
  | .key _ false => (s, .noChange, none)
  | .func f n down =>
    match s.funcEvent p f n down .inject with
    | (s1, r) => (s1, r, none)

/-- The data of a KEY INJECT response: the talk outcome of a group key that was taken (R174). -/
def outcomeData : Option ResultCode → List Byte
  | some r => [byteOf r.code]
  | none => []

/-- KEY_INJECT (R36). -/
def execKeyInject (c : Port) (position kind code channel direction : Byte) (s : State) :
    Host.Outcome State Fault Refusal :=
  match positionArg position with
  | none => .next (s.answer c .badArg [])
  | some p =>
    match injectArg (s.position p).layout kind code channel direction with
    | none => .next (s.answer c .badArg [])
    | some e =>
      if (s.position p).linkUp then
        match s.inject p e with
        | (s1, r, out) => .next (s1.answer c r (outcomeData out)).finish
      else .next (s.answer c .linkDown [])

/-! ### Position requests -/

/-- POSITION_CONFIGURE (R57): a step above 27 is clamped, and the result then carries both steps taken. -/
def execPositionConfigure (c : Port) (position switchAway answerOnLift handsetStep ringerStep : Byte) (tone : Half)
    (s : State) : Host.Outcome State Fault Refusal :=
  match positionArg position, switchAwayArg switchAway, flagArg answerOnLift, toneArg tone with
  | some p, some sw, some al, some t =>
    let hs := clampStep handsetStep
    let rs := clampStep ringerStep
    let s1 := s.setPosition p
      { s.position p with
        switchAway := sw, answerOnLift := al, handsetStep := hs, ringerStep := rs, ringerTone := t }
    if decide (hs.val = handsetStep.toNat) && decide (rs.val = ringerStep.toNat) then .next (s1.answer c .ok [])
    else .next (s1.answer c .clamped [byteOf hs.val, byteOf rs.val])
  | _, _, _, _ => .next (s.answer c .badArg [])

/-- POSITION_STATUS_READ (R58). -/
def execPositionStatusRead (c : Port) (position : Byte) (s : State) : Host.Outcome State Fault Refusal :=
  match positionArg position with
  | some p => .next (s.answer c .ok (s.positionData p))
  | none => .next (s.answer c .badArg [])

/-! ### Timers of a position -/

/-- DENY_TIMER_EXPIRY: the display is removed and the lamp shows its derived code again (R54). -/
def execDenyTimerExpiry (p : PositionId) (lamp : LampId) (s : State) : Host.Outcome State Fault Refusal :=
  match (s.position p).deny.get lamp with
  | some due =>
    let s1 := s.reach due
    .next (s1.setPosition p { s1.position p with deny := (s1.position p).deny.set lamp none }).finish
  | none => .next s

/-- A sounding ringer changes phase at its cadence timer's expiry, with the length of the head's class (R71). -/
def Position.changePhase (clock : Nat) (c : Cadence) (x : Position) : Position :=
  match headClass x.ringQueue with
  | some k =>
    if c.onPhase then { x with ringer := x.ringer.enterOff clock k }
    else { x with ringer := x.ringer.enterOn clock k }
  | none => x

/-- CADENCE_TIMER_EXPIRY (R71). -/
def execCadenceTimerExpiry (p : PositionId) (s : State) : Host.Outcome State Fault Refusal :=
  match (s.position p).ringer.cadence with
  | some c =>
    if (s.position p).sounding then
      let s1 := s.reach c.due
      .next (s1.setPosition p ((s1.position p).changePhase s1.clock c))
    else .next s
  | none => .next s

end Sys2Proof.Machine
end

