-- ==== Sys2Proof/Machine/Directory.lean ====
section
/-! DEFINITION. The commands of the chapter The Appearance Directory: staging (R138 to R140), PAGE COMMIT (R141 to R143),
guards (R144, R145), ENTRY READ (R147) and POSITION WIPE (R148, R149). -/

namespace Sys2Proof.Machine

def State.stagingOf (s : State) (c : Port) : Staging := s.staging.get c
def State.setStaging (s : State) (c : Port) (x : Staging) : State := { s with staging := s.staging.set c x }

/-- The number of loaded buffer slots (R139). -/
def Staging.loaded (x : Staging) : Nat := (x.slots.items.filter Option.isSome).length

/-- PAGE LOAD of a content into the buffer of port `c` (R139). -/
def State.loadSlot (s : State) (c : Port) (page : Fin 128) (i : Fin 16) (x : Content) :
    State × ResultCode × List Byte :=
  let b := s.stagingOf c
  if b.page.isSome && decide (b.page ≠ some page) then (s, .pageMismatch, [])
  else
    let b' : Staging := ⟨some page, b.slots.set i (some x)⟩
    (s.setStaging c b', .ok, [byteOf page.val, byteOf b'.loaded])

/-- PAGE_LOAD (R139). -/
def execPageLoad (c : Port) (page slot kind target attributes : Byte) (s : State) :
    Host.Outcome State Fault Refusal :=
  match pageArg page, slotArg slot, contentArg kind target attributes with
  | some pg, some i, some x =>
    match s.loadSlot c pg i x with
    | (s1, r, d) => .next (s1.answer c r d)
  | _, _, _ => .next (s.answer c .badArg [])

/-- PAGE_DISCARD (R140). -/
def execPageDiscard (c : Port) (s : State) : Host.Outcome State Fault Refusal :=
  .next ((s.setStaging c Staging.emptied).answer c (if (s.stagingOf c).page.isSome then .ok else .noChange) [])

/-! ### Committing a page -/

/-- The position whose keys a page holds (R130). -/
def pagePosition (page : Fin 128) : PositionId := ⟨page.val / 4, by omega⟩

/-- The key in buffer slot `i` of a page (R130). -/
def pageKey (page : Fin 128) (i : Fin 16) : Key := ⟨16 * (page.val % 4) + i.val, by omega⟩

/-- Whether a guard lets port `c` commit the position's pages (R144). -/
def Guard.allows (x : Guard) (c : Port) : Bool :=
  match x with
  | .openGuard => true
  | .owned o => decide (o = c)
  | .ownedPrivate o => decide (o = c)
  | .sealed => false

/-- The three numbers of a PAGE COMMIT result (R142). -/
structure CommitCounts where
  replaced : Nat
  deferred : Nat
  kept : Nat
deriving DecidableEq, Repr

/-- One loaded buffer slot applied to its entry (R142). -/
def State.commitEntry (s : State) (n : CommitCounts) (p : PositionId) (k : Key) (x : Content) :
    State × CommitCounts :=
  let e := s.entry p k
  if s.bound p k then
    if e.content = x then (s.setEntry p k { e with pendingContent := none }, { n with kept := n.kept + 1 })
    else (s.setEntry p k { e with pendingContent := some x }, { n with deferred := n.deferred + 1 })
  else (s.setEntry p k ⟨x, none⟩, { n with replaced := n.replaced + 1 })

/-- Buffer slot `i` of a buffer, which an empty slot leaves as it is (R138, R142). -/
def commitSlot (b : Staging) (page : Fin 128) (acc : State × CommitCounts) (i : Fin 16) : State × CommitCounts :=
  match b.slots.get i with
  | some x => acc.1.commitEntry acc.2 (pagePosition page) (pageKey page i) x
  | none => acc

/-- A taken PAGE COMMIT: the buffer slots 0 to 15, the emptied buffer, and the ring queue of the position (R142,
R143). -/
def State.applyPage (s : State) (c : Port) (page : Fin 128) : State × CommitCounts :=
  let old := s.directory.get (pagePosition page)
  let r := (ascending 16).foldl (commitSlot (s.stagingOf c) page) (s, ⟨0, 0, 0⟩)
  ((r.1.setStaging c Staging.emptied).directoryChanged (pagePosition page) old, r.2)

/-- PAGE_COMMIT (R141 to R143). -/
def execPageCommit (c : Port) (page : Byte) (s : State) : Host.Outcome State Fault Refusal :=
  match pageArg page with
  | none => .next (s.answer c .badArg [])
  | some pg =>
    if (s.stagingOf c).page ≠ some pg then .next (s.answer c .pageMismatch [])
    else if !(s.guardOf (pagePosition pg)).allows c then .next (s.answer c .guarded [])
    else
      match s.applyPage c pg with
      | (s1, n) => .next (s1.answer c .ok [byteOf n.replaced, byteOf n.deferred, byteOf n.kept]).finish

/-! ### Guards -/

/-- The allowed moves of a guard (R145). -/
def guardMove (x : Guard) (c : Port) (new : GuardName) : Option Guard :=
  match x, new with
  | .openGuard, .owned => some (.owned c)
  | .openGuard, .ownedPrivate => some (.ownedPrivate c)
  | .owned o, .ownedPrivate => if o = c then some (.ownedPrivate o) else none
  | .owned o, .sealed => if o = c then some .sealed else none
  | .ownedPrivate o, .sealed => if o = c then some .sealed else none
  | .openGuard, .openGuard | .openGuard, .sealed | .owned _, .openGuard | .owned _, .owned
  | .ownedPrivate _, .openGuard | .ownedPrivate _, .owned | .ownedPrivate _, .ownedPrivate
  | .sealed, .openGuard | .sealed, .owned | .sealed, .ownedPrivate | .sealed, .sealed => none

/-- GUARD_SET (R145). -/
def execGuardSet (c : Port) (position guard : Byte) (s : State) : Host.Outcome State Fault Refusal :=
  match positionArg position, guardArg guard with
  | some p, some new =>
    match guardMove (s.guardOf p) c new with
    | some x => .next ((s.setGuard p x).answer c .ok (guardBytes x))
    | none => .next (s.answer c .notPermitted [])
  | _, _ => .next (s.answer c .badArg [])

/-- ENTRY_READ (R147). -/
def execEntryRead (c : Port) (position key : Byte) (s : State) : Host.Outcome State Fault Refusal :=
  match positionArg position, keyArg key with
  | some p, some k => .next (s.answer c .ok (s.entryData c p k))
  | _, _ => .next (s.answer c .badArg [])

/-! ### Wiping a position -/

/-- Some entry of the position is bound (R148). -/
def State.anyBound (s : State) (p : PositionId) : Bool := (ascending 64).any fun k => s.bound p k

/-- The number of entries of the position that are not EMPTY (R149). -/
def State.filledEntries (s : State) (p : PositionId) : Nat :=
  ((s.directory.get p).items.filter fun e => decide (e.content ≠ .empty)).length

/-- A taken POSITION WIPE (R149). -/
def State.wipe (s : State) (p : PositionId) : State :=
  let old := s.directory.get p
  (({ s with directory := s.directory.set p (Table.fill 64 ⟨.empty, none⟩) }).setGuard p .openGuard).directoryChanged
    p old

/-- POSITION_WIPE (R148, R149). The level of MNT as the wipe is taken comes with the command. -/
def execPositionWipe (c : Port) (position : Byte) (mnt : Bool) (s : State) : Host.Outcome State Fault Refusal :=
  let s0 := { s with mntPin := mnt }
  match positionArg position with
  | none => .next (s0.answer c .badArg [])
  | some p =>
    if !mnt then .next (s0.answer c .notPermitted [])
    else if s0.anyBound p then .next (s0.answer c .inUse [])
    else .next ((s0.wipe p).answer c .ok [byteOf (s0.filledEntries p)]).finish

end Sys2Proof.Machine
end

