-- ==== Sys2Proof/Machine/Intercom.lean ====
section
/-! DEFINITION. The commands of the chapter Intercom Groups: the five group requests (R77 to R81) and the floor timer
(R87). -/

namespace Sys2Proof.Machine

/-- A talker limit of 1 to 8 (R77). -/
def talkerLimitArg (b : Byte) : Option Nat := if 1 ≤ b.toNat ∧ b.toNat ≤ 8 then some b.toNat else none

/-- The floor limit as taken: 0, or 5 to 120 s (R77). -/
def floorTaken (n : Nat) : Nat := if n = 0 then 0 else max 5 (min 120 n)

/-- GROUP DEFINE of group `g` with talker limit `t` and floor limit `f` as given (R77). -/
def State.defineGroup (s : State) (g : GroupId) (t f : Nat) : State × ResultCode × List Byte :=
  if (s.group g).defined then (s, .alreadyDefined, [])
  else if !s.admits 0 t then (s, .mixFull, [])
  else
    let s1 := { s.setGroup g ⟨true, t, floorTaken f, [], [], []⟩ with termCount := s.termCount + t }
    if floorTaken f = f then (s1, .ok, []) else (s1, .clamped, [byteOf (floorTaken f)])

/-- GROUP_DEFINE (R77). -/
def execGroupDefine (c : Port) (group talkerLimit floorLimit : Byte) (s : State) :
    Host.Outcome State Fault Refusal :=
  match groupArg group, talkerLimitArg talkerLimit with
  | some g, some t =>
    match s.defineGroup g t floorLimit.toNat with
    | (s1, r, d) => .next (s1.answer c r d).finish
  | _, _ => .next (s.answer c .badArg [])

/-- GROUP_UNDEFINE (R78). -/
def execGroupUndefine (c : Port) (group : Byte) (s : State) : Host.Outcome State Fault Refusal :=
  match groupArg group with
  | none => .next (s.answer c .badArg [])
  | some g =>
    if !(s.group g).defined then .next (s.answer c .noChange [])
    else if !(s.group g).members.isEmpty then .next (s.answer c .inUse [])
    else
      let s1 := { s.setGroup g Group.powerOn with termCount := s.termCount - (s.group g).talkerLimit }
      .next (s1.answer c .ok []).finish

/-- MEMBER ADD of position `p` with class `k` (R79). -/
def State.addMember (s : State) (g : GroupId) (p : PositionId) (k : LineClass) : State × ResultCode :=
  let x := s.group g
  if !x.defined then (s, .notDefined)
  else
    match x.member? p with
    | some m =>
      if m.cls = k then (s, .noChange)
      else
        (s.setGroup g
          { x with members := x.members.map fun y => if y.position = p then { y with cls := k } else y }, .ok)
    | none =>
      if Config.maxMembers ≤ x.members.length then (s, .groupFull)
      else (s.setGroup g { x with members := x.members ++ [⟨p, k⟩] }, .ok)

/-- MEMBER_ADD (R79). -/
def execMemberAdd (c : Port) (group position cls : Byte) (s : State) : Host.Outcome State Fault Refusal :=
  match groupArg group, positionArg position, classArg cls with
  | some g, some p, some k =>
    match s.addMember g p k with
    | (s1, r) => .next (s1.answer c r [])
  | _, _, _ => .next (s.answer c .badArg [])

/-- A handset slot of `p` that holds group `g` is emptied without a talk release, and the binding's end is reported
(R49, R80 step 4). -/
def State.dropGroupSlot (g : GroupId) (p : PositionId) (s : State) (h : Handset) : State :=
  if holdsSource (s.slot p h) (.group g) then (s.setSlot p h none).reportSlot p (s.slot p h) else s

/-- What position `p` holds on the floor of a group, as MEMBER REMOVE reports it: TALKER 0, WAITING 1 or nothing 2, the
places in the list in which R80 names them (R172). -/
def Group.floorByte (x : Group) (p : PositionId) : Byte :=
  if (x.talker? p).isSome then 0
  else if (x.waiter? p).isSome then 1
  else 2

/-- The removal of member `p` from group `g`, in the order of its steps (R80). Where both slots of `p` hold the group, H0 is
emptied before H1: the model's choice (log entry 22). -/
def State.removeMember (s : State) (g : GroupId) (p : PositionId) : State :=
  let s1 := s.setGroup g
    { s.group g with members := (s.group g).members.filter fun m => decide (m.position ≠ p) }
  let s2 := State.removeEntries p s1 g
  [Handset.h0, Handset.h1].foldl (State.dropGroupSlot g p) s2

/-- MEMBER_REMOVE (R80). -/
def execMemberRemove (c : Port) (group position : Byte) (s : State) : Host.Outcome State Fault Refusal :=
  match groupArg group, positionArg position with
  | some g, some p =>
    if !(s.group g).defined then .next (s.answer c .notDefined [])
    else if ((s.group g).member? p).isNone then .next (s.answer c .notMember [])
    else .next ((s.removeMember g p).answer c .ok [(s.group g).floorByte p]).finish
  | _, _ => .next (s.answer c .badArg [])

/-- GROUP_STATUS_READ (R81). DEDUCED, unsafe: neither R81 nor the sentence on the four group requests (define, undefine,
add, remove) names a refusal of this read; a group above 15 is refused with BAD_ARG, as those four are (log entry 24). -/
def execGroupStatusRead (c : Port) (group : Byte) (s : State) : Host.Outcome State Fault Refusal :=
  match groupArg group with
  | some g => .next (s.answer c .ok (s.groupData g))
  | none => .next (s.answer c .badArg [])

/-- The timeout is handed to the Speaker Field when the mic source was a channel (R87 step 3). -/
def State.handTimeout (s : State) (p : PositionId) (src : Path) : State :=
  match src with
  | .handset _ => s
  | .channel n => s.setMustRelease p n

/-- A talker of `g` loses the floor (R87). -/
def State.floorTimeout (s : State) (g : GroupId) (p : PositionId) (src : Path) : State :=
  ((((s.setGroup g ((s.group g).withoutTalker p)).raise (.floorTimeout g p src)).handTimeout p src).grantHead g)

/-- The floor timer of the talker entry of `p`, if it runs (R76). -/
def Group.floorTimer (x : Group) (p : PositionId) : Option (Path × Nat) :=
  match x.talker? p with
  | some t => t.due.map fun d => (t.source, d)
  | none => none

/-- FLOOR_TIMER_EXPIRY (R87). -/
def execFloorTimerExpiry (g : GroupId) (p : PositionId) (s : State) : Host.Outcome State Fault Refusal :=
  match (s.group g).floorTimer p with
  | some (src, due) => .next ((s.reach due).floorTimeout g p src).finish
  | none => .next s

end Sys2Proof.Machine
end

