-- ==== Sys2Proof/Machine/Links.lean ====
section
/-! DEFINITION. The commands of the chapter Turret Links and the Line Highway: turret frames (R151, R154, R155), ANNOUNCE
(R152), the loss of a link (R153) and highway frames (R158, R159). -/

namespace Sys2Proof.Machine

/-! ### Turret frames -/

def isAnnounce : TurretEvent → Bool
  | .announce _ _ => true
  | .key _ _ | .func _ _ _ | .hook _ _ | .knob _ _ _ | .unknown => false

/-- A control event as the Position Table or the interface will take it, or none where it is ignored or discarded
whatever the state: a KEY up, a FUNC up other than SPK_TALK up, a FUNC with a channel above 7 (R35), a KNOB for a knob
above 1 and an event of an unknown kind (R154). The channel byte of a function without a channel is not read. -/
def deliverable (e : TurretEvent) : Option TurretEvent :=
  match e with
  | .key k true => some (.key k true)
  | .key _ false => none
  | .func f ch down =>
    match f, down with
    | .spkTalk, _ => if ch.toNat < 8 then some (.func .spkTalk ch down) else none
    | .spkMute, true => if ch.toNat < 8 then some (.func .spkMute ch true) else none
    | .hold, true => some (.func .hold 0 true)
    | .release, true => some (.func .release 0 true)
    | .answer, true => some (.func .answer 0 true)
    | .privacy, true => some (.func .privacy 0 true)
    | .selectH0, true => some (.func .selectH0 0 true)
    | .selectH1, true => some (.func .selectH1 0 true)
    | .ringSilence, true => some (.func .ringSilence 0 true)
    | .spkMute, false | .hold, false | .release, false | .answer, false | .privacy, false | .selectH0, false
    | .selectH1, false | .ringSilence, false => none
  | .hook h v => some (.hook h v)
  | .knob n a b => if n.toNat < 2 then some (.knob n a b) else none
  | .announce kc kn => some (.announce kc kn)
  | .unknown => none

/-- The events of a frame that are handed on: all of them while the link is UP; otherwise those from the first ANNOUNCE
on (R151). The link state is the one the frame finds, also where an ANNOUNCE of an earlier frame still waits to be judged:
R151 and R152 do not say whether a next frame may be taken before that judgement, and that it may, and that its events are
then discarded on a link in TRAINING, is the model's choice (log entry 25). -/
def handedEvents (st : LinkState) (events : List TurretEvent) : List TurretEvent :=
  match st with
  | .up => events.filterMap deliverable
  | .down | .training => (events.dropWhile fun e => !isAnnounce e).filterMap deliverable

/-- The link record after an inbound frame (R151, R155). `lossDue` is when a loss timer started now is due. -/
def Link.receive (lossDue : Nat) (f : TurretFrame) (x : Link) : Link :=
  match f with
  | .bad => { x with mics := ⟨0, 0, 0⟩ }
  | .valid m0 m1 t events =>
    { x with
      state := match x.state with
        | .up => .up
        | .down | .training => .training
      lossTimer := some lossDue
      mics := match x.state with
        | .up => ⟨m0, m1, t⟩
        | .down | .training => ⟨0, 0, 0⟩
      delivered := x.delivered ++ handedEvents x.state events }

/-- TURRET_FRAME (R151). -/
def execTurretFrame (p : PositionId) (f : TurretFrame) (s : State) : Host.Outcome State Fault Refusal :=
  .next (s.setLink p ((s.link p).receive (s.dueIn Config.lossMs) f))

/-! ### Loss of a link -/

/-- The link record at a loss (R153 steps 1 and 2): DOWN with the loss timer stopped, or after a re-announce TRAINING
with the timer running on; the lamp queue is emptied. The layout and the knob count are kept. The samples of the frame that
carried a re-announce stay: that frame found the link UP, and they are used if the re-announce is taken and leaves it UP
(R151, R155); while the link is not UP the Mixing Engine reads 0 (`State.micsOf`). -/
def Link.lost (cause : LossCause) (x : Link) : Link :=
  match cause with
  | .timeout =>
    { x with
      state := .down, lossTimer := none, lampQueue := [], mics := ⟨0, 0, 0⟩, delivered := [], attachDue := false }
  | .reannounce => { x with state := .training, lampQueue := [], attachDue := false }

/-- The loss of an UP link as one event (R153): the lamp queue and the stale mark, the position's handling, and
LINK_DOWN last. -/
def State.linkLoss (s : State) (p : PositionId) (cause : LossCause) : State :=
  let s1 := s.setLink p ((s.link p).lost cause)
  let s2 := { s1 with lamps := s1.lamps.set p { s1.lamps.get p with stale := true } }
  ((s2.positionLinkLoss p).raise (.linkDown p cause)).finish

/-- LOSS_TIMER_EXPIRY (R153). -/
def execLossTimerExpiry (p : PositionId) (s : State) : Host.Outcome State Fault Refusal :=
  match (s.link p).lossTimer with
  | none => .next s
  | some due =>
    let s1 := s.reach due
    match (s1.link p).state with
    | .up => .next (s1.linkLoss p .timeout)
    | .training => .next (s1.setLink p ((s1.link p).lost .timeout))
    | .down => .next s1

/-! ### ANNOUNCE -/

/-- The layout that a key count announces; 0 and a count above 64 are refused (R152). -/
def announcedLayout (keyCount : Byte) : Option Layout :=
  if keyCount.toNat = 0 then none
  else if keyCount.toNat ≤ 32 then some .keys32
  else if keyCount.toNat ≤ 64 then some .keys64
  else none

/-- ANNOUNCE judged in TRAINING (R152). -/
def State.judgeAnnounce (s : State) (p : PositionId) (keyCount knobCount : Byte) : State :=
  match announcedLayout keyCount with
  | none => s.raise (.linkReject p keyCount)
  | some y =>
    let n := min 2 knobCount.toNat
    let s1 := s.setLink p { s.link p with state := .up, layout := some y, knobCount := n, attachDue := true }
    let s2 := s1.setPosition p { s1.position p with linkUp := true, layout := y }
    ((s2.fullRefresh p).raise (.linkUp p y n)).finish

/-- The events that stand after an ANNOUNCE are discarded up to the next ANNOUNCE when it has left the link not UP
(R151). -/
def Link.afterAnnounce (x : Link) : Link :=
  match x.state with
  | .up => x
  | .down | .training => { x with delivered := x.delivered.dropWhile fun e => !isAnnounce e }

/-- ANNOUNCE (R152). In UP it is a loss with cause REANNOUNCE followed by its judgement in TRAINING; a link that was
lost before its ANNOUNCE was taken is DOWN, and the ANNOUNCE finds no one to judge it (log entry 7). -/
def execAnnounce (p : PositionId) (keyCount knobCount : Byte) (s : State) : Host.Outcome State Fault Refusal :=
  let s1 := s.takeDelivered p (.announce keyCount knobCount)
  match (s1.link p).state with
  | .down => .next s1
  | .training =>
    let s2 := s1.judgeAnnounce p keyCount knobCount
    .next (s2.setLink p (s2.link p).afterAnnounce)
  | .up =>
    let s2 := (s1.linkLoss p .reannounce).judgeAnnounce p keyCount knobCount
    .next (s2.setLink p (s2.link p).afterAnnounce)

/-! ### The line highway -/

/-- The signals of a timeslot: one without a card reads as faulted (R158). -/
def sampledSignals (x : Timeslot) : Signals := if x.equipped then x.signals else ⟨false, false, true⟩

/-- The receive sample of a timeslot: 0 without a card (R158). -/
def voiceSample (x : Timeslot) : Sample := if x.equipped then x.sample else 0

/-- A line's part of a highway frame: sampled values that differ are recorded and handed as one signal change event
(R159). -/
def HighwayLine.receive (t : Timeslot) (x : HighwayLine) : HighwayLine :=
  if sampledSignals t = x.last then { x with far := voiceSample t }
  else ⟨sampledSignals t, voiceSample t, x.handed ++ [sampledSignals t]⟩

/-- HIGHWAY_FRAME (R158, R159). -/
def execHighwayFrame (slots : Table 160 Timeslot) (s : State) : Host.Outcome State Fault Refusal :=
  .next { s with highway := Table.ofFn fun l => (s.highway.get l).receive (slots.get l) }

end Sys2Proof.Machine
end

