-- ==== Sys2Proof/Machine/Flags.lean ====
section
/-! DEFINITION. The flags a controller sees: the ATTN output (R168, R180), the status byte (R163), and the clip flags
that LEVEL READ returns (R128). -/

namespace Sys2Proof.Machine

/-- The threshold condition of a port (R180). -/
def NoticeQueue.atThreshold (q : NoticeQueue) : Bool := decide (q.threshold ≤ q.queue.length)

/-- The ATTN output of a port (R168). -/
def State.attn (s : State) (c : Port) : Bool :=
  decide ((s.port c).state = .ready) || (s.noticeQueue c).atThreshold || (s.noticeQueue c).ageAttention

/-- The status byte of a port: RESPONSE_READY, REQUEST_DROPPED, MALFORMED, ATTENTION, QUIET in bits 0 to 4, and 0 in
bits 5 to 7 (R163). -/
def State.statusByte (s : State) (c : Port) : Byte :=
  let x := s.port c
  byteOf
    ((decide (x.state = .ready)).toNat + 2 * x.dropped.toNat + 4 * x.malformed.toNat + 8 * (s.attn c).toNat
      + 16 * (decide (s.quiet ≠ .off)).toNat)

/-- The four clip flags of a position in response data, H0, H1, LS0, LS1, a byte each (R128); set 1 and clear 0 is the
model's choice (log entry 10). -/
def ClipFlags.bytes (x : ClipFlags) : List Byte := [flagByte x.h0, flagByte x.h1, flagByte x.ls0, flagByte x.ls1]

/-- No clip flag set. -/
def ClipFlags.clear : ClipFlags := ⟨false, false, false, false⟩

end Sys2Proof.Machine
end

