-- ==== Sys2Proof/Machine/MixOps.lean ====
section
/-! DEFINITION. Mixing arithmetic: the level ladder and scaling (R115, R116), the sums (R91, R92, R117, R119), the
outputs and their single clamp (R118 to R123), the clip flags (R127), and the sample period (R113). -/

namespace Sys2Proof.Machine

/-! ### The level ladder and scaling -/

/-- The multiplier M of a level step (R115). -/
def ladder (s : Step) : Int :=
  [0, 76, 91, 108, 128, 152, 181, 215, 256, 304, 362, 431, 512, 609, 724, 861, 1024, 1218, 1448, 1722, 2048, 2435,
    2896, 3444, 4096, 4871, 5793, 6889].getD s.val 0

/-- `n / 4096` rounded to the nearest integer, a tie away from zero (R116). -/
def roundQuotient (n : Int) : Int := if 0 ≤ n then (n + 2048) / 4096 else -((-n + 2048) / 4096)

/-- A value scaled by a level step (R116). -/
def scale (x : Int) (s : Step) : Int := roundQuotient (x * ladder s)

/-- The single clamp of an output (R118). -/
def clamp (x : Int) : Int := max Config.sampleMin (min Config.sampleMax x)

/-- The clamp changes the value (R118, R127). -/
def clips (x : Int) : Bool := decide (clamp x ≠ x)

/-- A clamped value as a sample. -/
def toSample (x : Int) : Sample := BitVec.ofInt 16 (clamp x)

/-! ### Input samples -/

/-- The microphone samples of `p` in the period: 0 while its link is not UP (R114, R155). -/
def State.micsOf (s : State) (p : PositionId) : Mics :=
  match (s.link p).state with
  | .up => (s.link p).mics
  | .down | .training => ⟨0, 0, 0⟩

def State.handsetMic (s : State) (p : PositionId) : Handset → Int
  | .h0 => (s.micsOf p).h0.toInt
  | .h1 => (s.micsOf p).h1.toInt

def State.talkbackMic (s : State) (p : PositionId) : Int := (s.micsOf p).talkback.toInt

/-- The far-end sample of a line, in every line state (R114). -/
def State.far (s : State) (l : LineId) : Int := (s.highway.get l).far.toInt

/-! ### Sums -/

/-- The microphone sample a party contributes to its line (R114, R119). -/
def State.partyMic (s : State) (x : Party) : Int :=
  match x.path with
  | .handset h => s.handsetMic x.position h
  | .channel _ => s.talkbackMic x.position

/-- The local sum of a line: its parties that are both talk-capable and talking (R119). -/
def State.localSum (s : State) (l : LineId) : Int :=
  (((s.line l).parties.filter fun x => x.talkCapable && x.talking).map s.partyMic).sum

/-- A talker's microphone sample in a group: 0 for an on-hook handset (R91). -/
def State.talkerMic (s : State) (t : Talker) : Int :=
  match t.source with
  | .handset h => if s.hook t.position h = .off then s.handsetMic t.position h else 0
  | .channel _ => s.talkbackMic t.position

/-- The group sum (R91). -/
def State.groupSum (s : State) (g : GroupId) : Int :=
  if (s.group g).defined then ((s.group g).talkers.map s.talkerMic).sum else 0

/-- The position's own term in a group: what it contributes as a talker, from any source (R92). -/
def State.ownTerm (s : State) (g : GroupId) (p : PositionId) : Int :=
  match (s.group g).talker? p with
  | some t => s.talkerMic t
  | none => 0

/-- What `p` hears of group `g`: the sum less its own term (R92). -/
def State.groupHeard (s : State) (g : GroupId) (p : PositionId) : Int := s.groupSum g - s.ownTerm g p

/-- The own term of handset `h` in a line: its microphone if its party is talking (R120). -/
def State.handsetOwn (s : State) (l : LineId) (p : PositionId) (h : Handset) : Int :=
  if (s.line l).talkingParty p (.handset h) then s.handsetMic p h else 0

/-! ### Outputs before their clamp -/

/-- The receive value of a handset, scaled by the handset step (R120). -/
def State.handsetValue (s : State) (p : PositionId) (h : Handset) : Int :=
  scale
    (match s.slot p h with
      | none => 0
      | some ⟨.line l, _⟩ => s.far l + s.localSum l - s.handsetOwn l p h
      | some ⟨.group g, _⟩ => s.groupHeard g p)
    (s.position p).handsetStep

/-- The source sample of a speaker channel (R121). -/
def State.sourceSample (s : State) (p : PositionId) (n : ChannelId) : Int :=
  let x := s.channel p n
  if x.mute || s.suppressed p n then 0
  else
    match x.source with
    | none => 0
    | some (.line l) => if x.attach = .attached then s.far l else 0
    | some (.group g) => if ((s.group g).member? p).isSome then s.groupHeard g p else 0

/-- The step a channel plays at (R106). -/
def State.effectiveStep (s : State) (p : PositionId) (n : ChannelId) : Step :=
  if s.inConversation p then duckedStep (s.channel p n).level (s.speaker p).duck else (s.channel p n).level

/-- A channel's contribution to the loudspeaker it is routed to (R121). -/
def State.contribution (s : State) (p : PositionId) (n : ChannelId) : Int :=
  scale (s.sourceSample p n) (s.effectiveStep p n)

/-- The half-period of a ringer tone in samples (R72). -/
def RingerTone.halfPeriod : RingerTone → Nat
  | .hz400 => 10
  | .hz500 => 8
  | .hz800 => 5
  | .hz1000 => 4

/-- The tone sample of the period (R72). -/
def Position.toneSample (x : Position) : Int :=
  match x.ringerCondition with
  | .on =>
    if x.ringer.tonePhase / x.ringerTone.halfPeriod % 2 = 0 then Config.toneAmplitude else -Config.toneAmplitude
  | .stopped | .silenced | .off => 0

/-- The ringer term of LS0; LS1 has none (R122). -/
def State.ringerTerm (s : State) (p : PositionId) : Loudspeaker → Int
  | .ls0 => scale (s.position p).toneSample (s.position p).ringerStep
  | .ls1 => 0

/-- The contributions of the channels routed to a loudspeaker, added exactly (R121, R123). -/
def State.channelSum (s : State) (p : PositionId) (ls : Loudspeaker) : Int :=
  (((ascending 8).filter fun n => decide ((s.channel p n).loudspeaker = ls)).map fun n => s.contribution p n).sum

/-- The value of a loudspeaker before its clamp (R123 steps 1 and 2). -/
def State.loudspeakerValue (s : State) (p : PositionId) (ls : Loudspeaker) : Int :=
  scale (s.channelSum p ls + s.ringerTerm p ls) ((s.speaker p).step ls)

/-- The value of a position's output before its clamp. -/
def State.outputValue (s : State) (p : PositionId) : PositionOutput → Int
  | .h0 => s.handsetValue p .h0
  | .h1 => s.handsetValue p .h1
  | .ls0 => s.loudspeakerValue p .ls0
  | .ls1 => s.loudspeakerValue p .ls1

/-! ### The samples sent -/

/-- The transmit sample of a line (R119). -/
def State.transmitSample (s : State) (l : LineId) : Sample := toSample (s.localSum l)

/-- A loudspeaker sample as it is sent: 0 while the quiet state is not OFF (R123 step 4). -/
def State.loudspeakerSample (s : State) (p : PositionId) (ls : Loudspeaker) : Sample :=
  if s.quiet = .off then toSample (s.loudspeakerValue p ls) else 0

/-- The four samples formed for a position. -/
def State.formedSamples (s : State) (p : PositionId) : PositionSamples where
  h0 := toSample (s.handsetValue p .h0)
  h1 := toSample (s.handsetValue p .h1)
  ls0 := s.loudspeakerSample p .ls0
  ls1 := s.loudspeakerSample p .ls1

/-! ### Clip flags -/

def ClipFlags.get (x : ClipFlags) : PositionOutput → Bool
  | .h0 => x.h0
  | .h1 => x.h1
  | .ls0 => x.ls0
  | .ls1 => x.ls1

/-- The outputs of a position in the order of their CLIP notices (R127). -/
def positionOutputs : List PositionOutput := [.h0, .h1, .ls0, .ls1]

/-- The CLIP notices of the period: the flags that go from clear to set, lines first, then positions (R127). -/
def State.clipNotices (s : State) : List NoticeBody :=
  ((ascending 160).filter fun l => clips (s.localSum l) && !s.lineClip.get l).map NoticeBody.clipLine
    ++ (ascending 32).flatMap fun p =>
      (positionOutputs.filter fun o => clips (s.outputValue p o) && !(s.positionClip.get p).get o).map
        (NoticeBody.clipPosition p)

/-- A line's transmit flag after the period; a set flag stays set (R127). -/
def State.lineClipAfter (s : State) (l : LineId) : Bool := s.lineClip.get l || clips (s.localSum l)

/-- A position's flags after the period (R127). -/
def State.positionClipAfter (s : State) (p : PositionId) : ClipFlags where
  h0 := (s.positionClip.get p).h0 || clips (s.outputValue p .h0)
  h1 := (s.positionClip.get p).h1 || clips (s.outputValue p .h1)
  ls0 := (s.positionClip.get p).ls0 || clips (s.outputValue p .ls0)
  ls1 := (s.positionClip.get p).ls1 || clips (s.outputValue p .ls1)

/-! ### The sample period -/

/-- In a period in which the ringer is ON the tone phase advances by 1 (R122). -/
def Position.advanceTone (x : Position) : Position :=
  match x.ringerCondition with
  | .on => { x with ringer := { x.ringer with tonePhase := x.ringer.tonePhase + 1 } }
  | .stopped | .silenced | .off => x

/-- The outbound frame of a turret link: the link state, the position's samples and up to two updates while UP,
zeros and no update otherwise (R150, R156, R157). -/
def State.outboundTurret (s : State) (p : PositionId) : TurretOut :=
  match (s.link p).state with
  | .up => ⟨.up, s.formedSamples p, (s.link p).lampQueue.take 2⟩
  | .training => ⟨.training, ⟨0, 0, 0, 0⟩, []⟩
  | .down => ⟨.down, ⟨0, 0, 0, 0⟩, []⟩

/-- The link after its outbound frame: the updates carried leave the queue (R157), and the period's microphone samples
have been used, so that a period without a frame reads 0 (R151). -/
def Link.afterPeriod (x : Link) : Link :=
  { x with
    lampQueue := match x.state with
      | .up => x.lampQueue.drop 2
      | .down | .training => x.lampQueue
    mics := ⟨0, 0, 0⟩ }

/-- What the outbound highway frame carries for a line; the other two positions of the nibble are driven off (R161). -/
def State.outboundHighway (s : State) (l : LineId) : HighwayOut where
  sz := (s.line l).sz
  rg := (s.line l).rg
  third := false
  fourth := false
  sample := s.transmitSample l

/-- One sample period: every output is formed from the state as it stands at the start (R113), the clip flags follow
with their notices (R127), the tone phases advance (R122), and the frames go out (R156, R161). The clock advances by
one period (log entry 3). -/
def State.period (s : State) : State :=
  let s1 := { s with
    clock := s.clock + 1
    lineClip := Table.ofFn s.lineClipAfter
    positionClip := Table.ofFn s.positionClipAfter
    positions := s.positions.map Position.advanceTone
    turretOut := Table.ofFn s.outboundTurret
    links := s.links.map Link.afterPeriod
    highwayOut := Table.ofFn s.outboundHighway }
  s.clipNotices.foldl State.raise s1

end Sys2Proof.Machine
end

