-- ==== Sys2Proof/Machine/Mixing.lean ====
section
/-! DEFINITION. The commands of the chapter Mixing Arithmetic: LEVEL READ (R128) and the sample period (R113). -/

namespace Sys2Proof.Machine

/-- The flags of a position, cleared by the read that returns them (R128). -/
def State.readPositionLevels (s : State) (c : Port) (p : PositionId) : State :=
  ({ s with positionClip := s.positionClip.set p ClipFlags.clear }).answer c .ok
    ((s.positionClip.get p).bytes ++ halfBytes s.termCount)

/-- The transmit flag of a line, cleared by the read that returns it (R128). -/
def State.readLineLevel (s : State) (c : Port) (l : LineId) : State :=
  ({ s with lineClip := s.lineClip.set l false }).answer c .ok (flagByte (s.lineClip.get l) :: halfBytes s.termCount)

/-- LEVEL_READ (R128); the subject kind is POSITION 0 or LINE 1 (R173). -/
def execLevelRead (c : Port) (subjectKind number : Byte) (s : State) : Host.Outcome State Fault Refusal :=
  match subjectKind.toNat, positionArg number, lineArg number with
  | 0, some p, _ => .next (s.readPositionLevels c p)
  | 1, _, some l => .next (s.readLineLevel c l)
  | _, _, _ => .next (s.answer c .badArg [])

/-- SAMPLE_PERIOD (R113). -/
def execSamplePeriod (s : State) : Host.Outcome State Fault Refusal := .next s.period

end Sys2Proof.Machine
end

