-- ==== Sys2Proof/Machine/Ports.lean ====
section
/-! DEFINITION. The commands of the chapter Controller Ports: transfers (R163, R164), request frames (R165), pure reads
(R167), the return of a result (R166), PORT RESET (R169) and the floor parameters (R170, R171). -/

namespace Sys2Proof.Machine

/-! ### The status byte and the bytes of a transfer -/

/-- The whole bytes shifted out in a transfer of `n` bytes whose first is `status` and whose later ones are `rest`
followed by zeros (R163, R167). -/
def shiftedOut (status : Byte) (rest : List Byte) (n : Nat) : List Byte :=
  (status :: rest ++ List.replicate n 0).take n

/-- The first byte of a transfer: the status byte goes out, and REQUEST_DROPPED and MALFORMED are cleared; a transfer
without a whole byte leaves both (R163). The later bytes are zeros until a pure read says otherwise (R167). -/
def State.beginTransfer (s : State) (c : Port) (n : Nat) : State :=
  let x := s.port c
  if n = 0 then s.setPort c { x with dataOut := [] }
  else s.setPort c { x with dataOut := shiftedOut (s.statusByte c) [] n, dropped := false, malformed := false }

/-! ### PORT RESET -/

/-- The notice queue emptied by a PORT RESET: the class mask, threshold and age limit are kept (R169 step 4, R177). -/
def NoticeQueue.emptied (q : NoticeQueue) : NoticeQueue :=
  { q with queue := [], lostMark := false, ageTimer := none, ageAttention := false }

/-- The discard mark after PORT RESET: it turns on in BUSY and is otherwise as it was (R169 step 1). -/
def PortRecord.discardAfterReset (x : PortRecord) : Bool :=
  match x.state with
  | .busy => true
  | .idle | .ready => x.discard

/-- PORT RESET of port `c` under tag `tag`, steps 1 to 5 (R169). -/
def State.portReset (s : State) (c : Port) (tag : Byte) : State :=
  let s1 := (s.setStaging c Staging.emptied).setNoticeQueue c (s.noticeQueue c).emptied
  s1.setPort c
    { s.port c with
      state := .ready, slot := some (responseFrame tag .ok []), readPosition := 0
      discard := (s.port c).discardAfterReset, dropped := false, malformed := false }

/-- PORT_RESET (R169). -/
def execPortReset (c : Port) (tag : Byte) (s : State) : Host.Outcome State Fault Refusal := .next (s.portReset c tag)

/-! ### Request frames -/

/-- The port itself forms a response and enters READY (R165). -/
def State.portResponds (s : State) (c : Port) (tag : Byte) (r : ResultCode) (data : List Byte) : State :=
  s.setPort c { s.port c with state := .ready, slot := some (responseFrame tag r data), readPosition := 0 }

/-- The port is free for a request: IDLE with the discard mark off (R165). -/
def PortRecord.free (x : PortRecord) : Bool := decide (x.state = .idle) && !x.discard

/-- The request is not executed, and REQUEST_DROPPED is set (R165). -/
def State.dropRequest (s : State) (c : Port) : State := s.setPort c { s.port c with dropped := true }

/-- The port enters BUSY and passes the request and its arguments to the owning block (R165). -/
def State.passRequest (s : State) (c : Port) (tag number : Byte) (args : List Byte) : State :=
  s.setPort c { s.port c with state := .busy, inFlight := some ⟨tag, number, args⟩, answer := none }

/-- The dispatch of a request frame (R165), with the exception of PORT RESET: without arguments it is taken in every
port state, with arguments it is answered with BAD_ARG in IDLE and dropped otherwise (R169). -/
def State.dispatch (s : State) (c : Port) (tag number : Byte) (args : List Byte) : State :=
  if number.toNat = portResetNumber then
    if args.isEmpty then s.portReset c tag
    else if (s.port c).state = .idle then s.portResponds c tag .badArg []
    else s.dropRequest c
  else if !(s.port c).free then s.dropRequest c
  else
    match catalogueArgs number.toNat with
    | none => s.portResponds c tag .unknownRequest [number]
    | some n => if args.length = n then s.passRequest c tag number args else s.portResponds c tag .badArg []

/-! ### Pure reads -/

/-- A pure-read transfer of `n` bytes: in READY the response goes out from the third byte on, and the slot is emptied
once its last byte has gone; in IDLE and BUSY zeros go out (R167). -/
def State.pureRead (s : State) (c : Port) (status : Byte) (n : Nat) : State :=
  let x := s.port c
  match x.state, x.slot with
  | .ready, some frame =>
    let left := frame.drop x.readPosition
    let out := shiftedOut status (0 :: left) n
    if left.length ≤ n - 2 then
      s.setPort c { x with state := .idle, slot := none, readPosition := 0, dataOut := out }
    else s.setPort c { x with readPosition := x.readPosition + (n - 2), dataOut := out }
  | .ready, none | .idle, _ | .busy, _ => s

/-! ### Transfers -/

/-- A malformed frame: MALFORMED is set and no block is reached (R164). -/
def State.dropMalformed (s : State) (c : Port) : State := s.setPort c { s.port c with malformed := true }

/-- One whole transfer on port `c`: its status byte, then what its bytes are judged to be at the release of chip select
(R163, R164). -/
def State.transfer (s : State) (c : Port) (bytes : List Byte) : State :=
  let s1 := s.beginTransfer c bytes.length
  match judgeTransfer bytes with
  | .statusPoll => s1
  | .malformed => s1.dropMalformed c
  | .pureRead => s1.pureRead c (s.statusByte c) bytes.length
  | .request tag number args => s1.dispatch c tag number args

/-- REQUEST_FRAME (R165). -/
def execRequestFrame (c : Port) (bytes : List Byte) (s : State) : Host.Outcome State Fault Refusal :=
  .next (s.transfer c bytes)

/-- MALFORMED_FRAME (R164). -/
def execMalformedFrame (c : Port) (bytes : List Byte) (s : State) : Host.Outcome State Fault Refusal :=
  .next (s.transfer c bytes)

/-- STATUS_POLL (R163, R164). -/
def execStatusPoll (c : Port) (bytes : List Byte) (s : State) : Host.Outcome State Fault Refusal :=
  .next (s.transfer c bytes)

/-- PURE_READ (R167). -/
def execPureRead (c : Port) (bytes : List Byte) (s : State) : Host.Outcome State Fault Refusal :=
  .next (s.transfer c bytes)

/-! ### The return of a result -/

/-- The result of the request in flight comes back: into the slot, or, while the discard mark is on, nowhere (R166). -/
def State.returnResult (s : State) (c : Port) (f : InFlight) (a : Answer) : State :=
  let x := s.port c
  if x.discard then s.setPort c { x with discard := false, inFlight := none, answer := none }
  else
    s.setPort c
      { x with
        state := .ready, slot := some (responseFrame f.tag a.result a.data), readPosition := 0
        inFlight := none, answer := none }

/-- RESULT_RETURN (R166). Where no request is in flight, or its owning block has not yet returned a result, there is
nothing to take (log entry 4). -/
def execResultReturn (c : Port) (s : State) : Host.Outcome State Fault Refusal :=
  match (s.port c).inFlight, (s.port c).answer with
  | some f, some a => .next (s.returnResult c f a)
  | some _, none | none, _ => .next s

/-! ### Floor parameters -/

/-- A value clamped to a range and rounded down to a whole number of steps (R170). -/
def clampTo (lo hi step n : Nat) : Nat := (max lo (min hi n)) / step * step

/-- A recall limit as taken: 0 stands, and 10 to 600 s in steps of 10 s otherwise (R170). -/
def clampRecall (n : Nat) : Nat := if n = 0 then 0 else clampTo 10 600 10 n

/-- The floor parameters after a SET PARAMETER of number `n` with value `v`, and the value taken; none for a number
above 6 or a QUIET_AUTORESUME value other than 0 and 1 (R170). -/
def Params.set (x : Params) (n v : Nat) : Option (Params × Nat) :=
  match n with
  | 0 => some ({ x with guardTime := clampTo 100 2000 100 v }, clampTo 100 2000 100 v)
  | 1 => some ({ x with burstTime := clampTo 200 5000 100 v }, clampTo 200 5000 100 v)
  | 2 => some ({ x with answerWait := clampTo 1 30 1 v }, clampTo 1 30 1 v)
  | 3 => some ({ x with burstLimit := clampTo 1 8 1 v }, clampTo 1 8 1 v)
  | 4 => some ({ x with holdRecall := clampRecall v }, clampRecall v)
  | 5 => some ({ x with recallLimit := clampRecall v }, clampRecall v)
  | 6 =>
    match v with
    | 0 => some ({ x with quietAutoresume := false }, 0)
    | 1 => some ({ x with quietAutoresume := true }, 1)
    | _ => none
  | _ => none

/-- SET_PARAMETER (R170). -/
def execSetParameter (c : Port) (parameter : Byte) (value : Half) (s : State) : Host.Outcome State Fault Refusal :=
  match s.params.set parameter.toNat value.toNat with
  | some (x, v) =>
    .next (({ s with params := x }).answer c (if v = value.toNat then .ok else .clamped)
      (parameter :: halfBytes v))
  | none => .next (s.answer c .badArg [])

/-- PARAMETER_READ (R171). -/
def execParameterRead (c : Port) (s : State) : Host.Outcome State Fault Refusal :=
  .next (s.answer c .ok s.params.data)

end Sys2Proof.Machine
end

