-- ==== Sys2Proof/Machine/NoticeRequests.lean ====
section
/-! DEFINITION. The commands of the chapter Notices: NOTICE SETUP (R178), NOTICE READ (R182) and the age timer (R181). -/

namespace Sys2Proof.Machine

/-- The threshold as taken (R178). -/
def thresholdTaken (n : Nat) : Nat := if n < 4 then 1 else if n < 8 then 4 else if n < 16 then 8 else 16

/-- The age limit in milliseconds as taken (R178). -/
def ageLimitTaken (n : Nat) : Nat := if n < 10 then 10 else if n ≤ 2550 then n / 10 * 10 else 2550

/-- A class mask of NOTICE SETUP; bits 6 and 7 must be clear (R178). -/
def maskArg (b : Byte) : Option (BitVec 6) := if b.toNat < 64 then some (b.setWidth 6) else none

/-- NOTICE_SETUP (R178). -/
def execNoticeSetup (c : Port) (mask threshold : Byte) (ageLimit : Half) (s : State) :
    Host.Outcome State Fault Refusal :=
  match maskArg mask with
  | none => .next (s.answer c .badArg [])
  | some m =>
    let t := thresholdTaken threshold.toNat
    let a := ageLimitTaken ageLimit.toNat
    let s1 := s.setNoticeQueue c { s.noticeQueue c with mask := m, threshold := t, ageLimit := a }
    let r : ResultCode := if t = threshold.toNat ∧ a = ageLimit.toNat then .ok else .clamped
    .next (s1.answer c r (mask :: byteOf t :: halfBytes a))

/-- The queue of a port after a NOTICE READ of `n` notices; `ageDue` is when an age timer started now is due (R181,
R182). -/
def NoticeQueue.afterRead (ageDue n : Nat) (q : NoticeQueue) : NoticeQueue :=
  { q with
    queue := q.queue.drop n
    ageAttention := false
    ageTimer := if (q.queue.drop n).isEmpty then none else some ageDue }

/-- The data of a NOTICE READ of `n` notices: the list, the number left and the lost mark (R182). -/
def NoticeQueue.readData (n : Nat) (q : NoticeQueue) : List Byte :=
  listBytes Notice.bytes (q.queue.take n) ++ [byteOf (q.queue.drop n).length, flagByte q.lostMark]

/-- The NOTICE READ that port `c` has in flight gets its answer back in the event that takes it: the read's own response
makes the port READY, and ATTN is kept through the read (R182, log entry 21). A request of another number waits for its
RESULT_RETURN (R166). -/
def State.returnRead (s : State) (c : Port) : State :=
  match (s.port c).inFlight, (s.port c).answer with
  | some f, some a => if f.number.toNat = noticeReadNumber then s.returnResult c f a else s
  | some _, none | none, _ => s

/-- NOTICE_READ (R182). -/
def execNoticeRead (c : Port) (count : Byte) (s : State) : Host.Outcome State Fault Refusal :=
  if 8 < count.toNat then .next ((s.answer c .badArg []).returnRead c)
  else
    let q := s.noticeQueue c
    .next (((s.setNoticeQueue c (q.afterRead (s.dueIn q.ageLimit) count.toNat)).answer c .ok
      (q.readData count.toNat)).returnRead c)

/-- AGE_TIMER_EXPIRY: the timer stops and age-attention is set (R181). -/
def execAgeTimerExpiry (c : Port) (s : State) : Host.Outcome State Fault Refusal :=
  match (s.noticeQueue c).ageTimer with
  | some due =>
    let s1 := s.reach due
    .next (s1.setNoticeQueue c { s1.noticeQueue c with ageTimer := none, ageAttention := true })
  | none => .next s

end Sys2Proof.Machine
end

