-- ==== Sys2Proof/Machine/PrivateLines.lean ====
section
/-! DEFINITION. The commands of the chapter Private Lines: the four line requests (R28 to R31), signal changes (R24 to
R26) and the expiries of the line timer (R10, R17, R22, R23). -/

namespace Sys2Proof.Machine

/-! ### Line requests -/

/-- LINE CONFIGURE on a line (R29): all three values are written, and a change of class refiles the entries of a
RINGING or RECALL line. -/
def State.configureLine (s : State) (l : LineId) (k : LineClass) (b : BargePolicy) (r : Ringdown) : State :=
  let old := s.line l
  let s1 := s.moveLine l { old with cls := k, barge := b, ringdown := r }
  if decide (old.cls ≠ k) && (decide (old.state = .ringing) || decide (old.state = .recall)) then s1.refileRing l
  else s1

/-- LINE_CONFIGURE (R29). -/
def execLineConfigure (c : Port) (line cls barge ringdown : Byte) (s : State) : Host.Outcome State Fault Refusal :=
  match lineArg line, classArg cls, bargeArg barge, ringdownArg ringdown with
  | some l, some k, some b, some r => .next ((s.configureLine l k b r).answer c .ok []).finish
  | _, _, _, _ => .next (s.answer c .badArg [])

/-- LINE SERVICE on a line (R28). -/
def State.serviceLine (s : State) (l : LineId) (d : ServiceDirection) : State × ResultCode :=
  let x := s.line l
  match d, x.state with
  | .out, .outOfService => (s, .noChange)
  | .out, .idle | .out, .ringing | .out, .calling | .out, .active | .out, .held | .out, .recall | .out, .guard
  | .out, .fault => (s.clearLine l .outOfService .lineOutOfService, .ok)
  | .into, .outOfService =>
    if x.signals.lf then (s.moveLine l { x with state := .fault }, .ok)
    else (s.moveLine l (x.guarded (s.startTimer .guard)), .ok)
  | .into, .idle | .into, .ringing | .into, .calling | .into, .active | .into, .held | .into, .recall
  | .into, .guard | .into, .fault => (s, .noChange)

/-- LINE_SERVICE (R28). -/
def execLineService (c : Port) (line direction : Byte) (s : State) : Host.Outcome State Fault Refusal :=
  match lineArg line, directionArg direction with
  | some l, some d =>
    match s.serviceLine l d with
    | (s1, r) => .next (s1.answer c r []).finish
  | _, _ => .next (s.answer c .badArg [])

/-- LINE_STATUS_READ (R30). -/
def execLineStatusRead (c : Port) (line : Byte) (s : State) : Host.Outcome State Fault Refusal :=
  match lineArg line with
  | some l => .next (s.answer c .ok (s.lineData l))
  | none => .next (s.answer c .badArg [])

/-- LINE_CLEAR_MISSED (R31): the result carries the count the line had. -/
def execLineClearMissed (c : Port) (line : Byte) (s : State) : Host.Outcome State Fault Refusal :=
  match lineArg line with
  | some l =>
    .next ((s.setLine l { s.line l with missed := 0 }).answer c .ok [byteOf (s.line l).missed]).finish
  | none => .next (s.answer c .badArg [])

/-! ### Far-end signals -/

/-- A CALLING line is answered, by FL on or by glare (R19). -/
def State.answered (s : State) (l : LineId) : State :=
  s.moveLine l
    { s.line l with state := .active, rg := false, timer := none, burstCount := 0, unanswered := false }

/-- The line enters RINGING, and LINE_RING follows (R6, R10, R25). -/
def State.enterRinging (s : State) (l : LineId) (timer : Option LineTimer) : State :=
  (s.moveLine l { s.line l with state := .ringing, timer := timer }).raise (.lineRing l (s.line l).cls)

/-- RD off in RINGING: a missed call, counted up to 15 (R25). -/
def State.missedCall (s : State) (l : LineId) : State :=
  let n := min 15 ((s.line l).missed + 1)
  (s.moveLine l { s.line l with state := .idle, missed := n }).raise (.lineMissed l n)

/-- A change of FL, by the line's state (R25, R26). -/
def State.flChange (s : State) (l : LineId) (fl : Bool) : State :=
  match (s.line l).state with
  | .calling => if fl then s.answered l else s
  | .active => if fl then s else s.raise (.farClear l)
  | .held => if fl then s else s.abandon l
  | .recall => if fl then s else s.abandon l
  | .idle | .ringing | .guard | .fault | .outOfService => s

/-- A change of RD, by the line's state (R25, R26). -/
def State.rdChange (s : State) (l : LineId) (rd : Bool) : State :=
  match (s.line l).state with
  | .idle => if rd then s.enterRinging l (s.line l).timer else s
  | .ringing => if rd then s else s.missedCall l
  | .calling => if rd then s.answered l else s
  | .active => s.raise (.farSignal l rd)
  | .held | .recall | .guard | .fault | .outOfService => s

/-- The line enters FAULT on LF on (R24, R27). -/
def LineState.live : LineState → Bool
  | .fault | .outOfService => false
  | .idle | .ringing | .calling | .active | .held | .recall | .guard => true

/-- The changes of a signal change event, taken in the order LF, FL, RD; all three values are recorded first (R24). -/
def State.signalEvent (s : State) (l : LineId) (now : Signals) : State :=
  let old := (s.line l).signals
  let s1 := s.setLine l { s.line l with signals := now }
  if !old.lf && now.lf && (s.line l).state.live then s1.clearLine l .fault .lineFault
  else if old.lf && !now.lf && decide ((s.line l).state = .fault) then
    s1.moveLine l ((s1.line l).guarded (s1.startTimer .guard))
  else
    let s2 := if old.fl = now.fl then s1 else s1.flChange l now.fl
    if old.rd = now.rd then s2 else s2.rdChange l now.rd

/-- The Line Table takes a handed event from the interface; once none is left the last sampled values and the
recorded ones agree (R160, log entry 4). -/
def HighwayLine.taken (now : Signals) (x : HighwayLine) : HighwayLine :=
  let rest := if x.handed.head? = some now then x.handed.tail else x.handed
  { x with handed := rest, last := if rest.isEmpty then now else x.last }

/-- SIGNAL_CHANGE (R24). -/
def execSignalChange (l : LineId) (now : Signals) (s : State) : Host.Outcome State Fault Refusal :=
  let s1 := { s with highway := s.highway.set l ((s.highway.get l).taken now) }
  .next (s1.signalEvent l now).finish

/-! ### Expiries of the line timer -/

/-- The line timer runs for `purpose` in state `st`: a replaced or cancelled timer does not expire (R5). -/
def Line.expires (ln : Line) (purpose : LinePurpose) (st : LineState) : Option Nat :=
  match ln.timer with
  | some t => if decide (t.purpose = purpose) && decide (ln.state = st) then some t.due else none
  | none => none

/-- BURST_EXPIRY: in CALLING the pause begins (R17); on an ACTIVE line the single burst ends (R18). -/
def execBurstExpiry (l : LineId) (s : State) : Host.Outcome State Fault Refusal :=
  match (s.line l).expires .burst .calling, (s.line l).expires .burst .active with
  | some due, _ =>
    let s1 := s.reach due
    .next (s1.moveLine l { s1.line l with rg := false, timer := s1.startTimer .answerWait }).finish
  | none, some due =>
    let s1 := s.reach due
    .next (s1.moveLine l { s1.line l with rg := false, timer := none }).finish
  | none, none => .next s

/-- ANSWER_WAIT_EXPIRY: the next burst, or the end of the series (R17). -/
def execAnswerWaitExpiry (l : LineId) (s : State) : Host.Outcome State Fault Refusal :=
  match (s.line l).expires .answerWait .calling with
  | some due =>
    let s1 := s.reach due
    let x := s1.line l
    if x.burstCount < s1.params.burstLimit then
      .next (s1.moveLine l
        { x with rg := true, burstCount := x.burstCount + 1, timer := s1.startTimer .burst }).finish
    else
      .next ((s1.moveLine l { x with timer := none, unanswered := true }).raise
        (.lineUnanswered l x.burstCount)).finish
  | none => .next s

/-- HOLD_EXPIRY: the line enters RECALL, its owner's queue gains the RECALL entry, and LINE_RECALL is raised (R22). -/
def execHoldExpiry (l : LineId) (s : State) : Host.Outcome State Fault Refusal :=
  match (s.line l).expires .hold .held with
  | some due =>
    let s1 := s.reach due
    let x := s1.line l
    .next ((s1.moveLine l { x with state := .recall, timer := s1.startTimer .recall }).raise
      (.lineRecall l x.holdOwner)).finish
  | none => .next s

/-- RECALL_EXPIRY: the hold is abandoned (R23). -/
def execRecallExpiry (l : LineId) (s : State) : Host.Outcome State Fault Refusal :=
  match (s.line l).expires .recall .recall with
  | some due => .next ((s.reach due).abandon l).finish
  | none => .next s

/-- GUARD_EXPIRY: to RINGING if RD is on and to IDLE otherwise; the timer is NONE afterwards (R10). -/
def execGuardExpiry (l : LineId) (s : State) : Host.Outcome State Fault Refusal :=
  match (s.line l).expires .guard .guard with
  | some due =>
    let s1 := s.reach due
    if (s1.line l).signals.rd then .next (s1.enterRinging l none).finish
    else .next (s1.moveLine l { s1.line l with state := .idle, timer := none }).finish
  | none => .next s

end Sys2Proof.Machine
end

