-- ==== Sys2Proof/Machine/SpeakerField.lean ====
section
/-! DEFINITION. The commands of the chapter The Speaker Field: the staged plan (R96, R97), MIX APPLY (R98 to R100), mute
and push-to-talk (R103 to R105), knobs (R108), the attach event after link UP (R102), the quiet state (R110, R111) and
SPEAKER STATUS READ (R112). -/

namespace Sys2Proof.Machine

/-- PLAN_SET (R96): a level step above 27 is written as 27, and the result then carries it. -/
def execPlanSet (c : Port) (position channel sourceKind sourceNumber level loudspeaker talkback : Byte) (s : State) :
    Host.Outcome State Fault Refusal :=
  match positionArg position, channelArg channel, sourceArg sourceKind sourceNumber, loudspeakerArg loudspeaker,
    flagArg talkback with
  | some p, some n, some src, some ls, some tb =>
    let v := clampStep level
    let s1 := s.setSpeaker p { s.speaker p with plan := (s.speaker p).plan.set n ⟨src, v, ls, tb⟩ }
    if v.val = level.toNat then .next (s1.answer c .ok []) else .next (s1.answer c .clamped [byteOf v.val])
  | _, _, _, _, _ => .next (s.answer c .badArg [])

/-- PLAN_POSITION (R97): the result carries both values taken when either was changed. -/
def execPlanPosition (c : Port) (position duckDepth knobFloor : Byte) (s : State) :
    Host.Outcome State Fault Refusal :=
  match positionArg position with
  | some p =>
    let d := clampDuck duckDepth
    let f := clampFloor knobFloor
    let s1 := s.setSpeaker p { s.speaker p with stagedDuck := d, stagedFloor := f }
    if decide (d.val = duckDepth.toNat) && decide (f.val = knobFloor.toNat) then .next (s1.answer c .ok [])
    else .next (s1.answer c .clamped [byteOf d.val, byteOf f.val])
  | none => .next (s.answer c .badArg [])

/-- MIX APPLY of position `p`: the whole plan is installed, or nothing of it (R98). -/
def State.mixApply (s : State) (p : PositionId) : State × ResultCode :=
  let old := (s.speaker p).liveTerms
  let new := (s.speaker p).planTerms
  if s.admits old new then (s.installPlan p old new, .ok) else (s, .mixFull)

/-- MIX_APPLY (R98 to R100). -/
def execMixApply (c : Port) (position : Byte) (s : State) : Host.Outcome State Fault Refusal :=
  match positionArg position with
  | none => .next (s.answer c .badArg [])
  | some p =>
    match s.mixApply p with
    | (s1, .ok) => .next (s1.answer c .ok (s1.mixData p)).finish
    | (s1, r) => .next (s1.answer c r [])

/-- SPEAKER_STATUS_READ (R112). -/
def execSpeakerStatusRead (c : Port) (position : Byte) (s : State) : Host.Outcome State Fault Refusal :=
  match positionArg position with
  | some p => .next (s.answer c .ok (s.speakerData p))
  | none => .next (s.answer c .badArg [])

/-- SPEAKERS_RESUME (R111). -/
def execSpeakersResume (c : Port) (s : State) : Host.Outcome State Fault Refusal :=
  match s.quiet with
  | .holding => .next ({ s with quiet := .off }.answer c .ok [])
  | .on => .next (s.answer c .quietAsserted [])
  | .off => .next (s.answer c .ok [])

/-- The channel byte of a delivered FUNC event. -/
def channelByte (n : ChannelId) : Byte := byteOf n.val

/-- SPK_MUTE (R46, R103). -/
def execSpkMute (p : PositionId) (n : ChannelId) (s : State) : Host.Outcome State Fault Refusal :=
  .next (s.turretEvent p (.func .spkMute (channelByte n) true) fun s1 => (s1.spkMuteKey p n .turret).1)

/-- SPK_TALK_DOWN (R46, R104). -/
def execSpkTalkDown (p : PositionId) (n : ChannelId) (s : State) : Host.Outcome State Fault Refusal :=
  .next (s.turretEvent p (.func .spkTalk (channelByte n) true) fun s1 => (s1.spkTalkDownKey p n .turret).1)

/-- SPK_TALK_UP (R46, R105). -/
def execSpkTalkUp (p : PositionId) (n : ChannelId) (s : State) : Host.Outcome State Fault Refusal :=
  .next (s.turretEvent p (.func .spkTalk (channelByte n) false) fun s1 => (s1.talkKeyUp p n).1)

/-- KNOB (R108): an event for a knob number at or above the announced knob count is discarded (R154). -/
def execKnob (p : PositionId) (j : KnobId) (a b : Bool) (s : State) : Host.Outcome State Fault Refusal :=
  .next (s.turretEvent p (.knob (byteOf j.val) a b) fun s1 =>
    if j.val < (s1.link p).knobCount then s1.knobEvent p j a b else s1)

/-- LINK_UP_ATTACH: the speaker takes that follow link UP, as an event of their own (R102). -/
def execLinkUpAttach (p : PositionId) (s : State) : Host.Outcome State Fault Refusal :=
  let s1 := s.setLink p { s.link p with attachDue := false }
  .next (s1.linkUpTakes p).finish

/-- QUIET_ASSERTED (R110). -/
def execQuietAsserted (s : State) : Host.Outcome State Fault Refusal :=
  match s.quiet with
  | .on => .next { s with quietPin := true }
  | .off => .next ({ s with quietPin := true, quiet := .on }.raise .quietOn)
  | .holding => .next ({ s with quietPin := true, quiet := .on }.raise .quietOn)

/-- The quiet state that a deassertion of QUIET leaves (R110). -/
def State.quietAfter (s : State) : Quiet := if s.params.quietAutoresume then .off else .holding

/-- QUIET_DEASSERTED (R110). -/
def execQuietDeasserted (s : State) : Host.Outcome State Fault Refusal :=
  match s.quiet with
  | .on => .next ({ s with quietPin := false, quiet := s.quietAfter }.raise (.quietOff s.quietAfter))
  | .off => .next { s with quietPin := false }
  | .holding => .next { s with quietPin := false }

end Sys2Proof.Machine
end

