-- ==== Sys2Proof/Machine/System.lean ====
section
/-! DEFINITION. The one command of the whole part: POWER ON RESET, the assertion of RSTn. -/

namespace Sys2Proof.Machine

/-- POWER_ON_RESET: every table, queue, timer and port takes its power-on value, and the quiet state follows the QUIET
input (R1, R110). The commands that wait outside the part keep waiting (log entry 1). -/
def execPowerOnReset (quiet mnt : Bool) (s : State) : Host.Outcome State Fault Refusal :=
  .next { State.powerOn quiet mnt with pending := s.pending }

end Sys2Proof.Machine
end

