-- ==== Sys2Proof/Machine/Dispatch.lean ====
section
/-! DEFINITION. The meaning of each command: one arm per row of opcode_table.json, in the table's order. -/

namespace Sys2Proof.Machine

def exec (i : Instr) (s : State) : Host.Outcome State Fault Refusal :=
  match i with
  | .powerOnReset quiet mnt => Sys2Proof.Machine.execPowerOnReset quiet mnt s
  | .lineConfigure port line cls barge ringdown => Sys2Proof.Machine.execLineConfigure port line cls barge ringdown s
  | .lineService port line direction => Sys2Proof.Machine.execLineService port line direction s
  | .lineStatusRead port line => Sys2Proof.Machine.execLineStatusRead port line s
  | .lineClearMissed port line => Sys2Proof.Machine.execLineClearMissed port line s
  | .keyInject port position kind code channel direction => Sys2Proof.Machine.execKeyInject port position kind code channel direction s
  | .positionConfigure port position switchAway answerOnLift handsetStep ringerStep tone => Sys2Proof.Machine.execPositionConfigure port position switchAway answerOnLift handsetStep ringerStep tone s
  | .positionStatusRead port position => Sys2Proof.Machine.execPositionStatusRead port position s
  | .groupDefine port group talkerLimit floorLimit => Sys2Proof.Machine.execGroupDefine port group talkerLimit floorLimit s
  | .groupUndefine port group => Sys2Proof.Machine.execGroupUndefine port group s
  | .memberAdd port group position cls => Sys2Proof.Machine.execMemberAdd port group position cls s
  | .memberRemove port group position => Sys2Proof.Machine.execMemberRemove port group position s
  | .groupStatusRead port group => Sys2Proof.Machine.execGroupStatusRead port group s
  | .planSet port position channel sourceKind sourceNumber level loudspeaker talkback => Sys2Proof.Machine.execPlanSet port position channel sourceKind sourceNumber level loudspeaker talkback s
  | .planPosition port position duckDepth knobFloor => Sys2Proof.Machine.execPlanPosition port position duckDepth knobFloor s
  | .mixApply port position => Sys2Proof.Machine.execMixApply port position s
  | .speakerStatusRead port position => Sys2Proof.Machine.execSpeakerStatusRead port position s
  | .speakersResume port => Sys2Proof.Machine.execSpeakersResume port s
  | .levelRead port subjectKind number => Sys2Proof.Machine.execLevelRead port subjectKind number s
  | .pageLoad port page slot kind target attributes => Sys2Proof.Machine.execPageLoad port page slot kind target attributes s
  | .pageCommit port page => Sys2Proof.Machine.execPageCommit port page s
  | .pageDiscard port => Sys2Proof.Machine.execPageDiscard port s
  | .guardSet port position guard => Sys2Proof.Machine.execGuardSet port position guard s
  | .entryRead port position key => Sys2Proof.Machine.execEntryRead port position key s
  | .positionWipe port position mnt => Sys2Proof.Machine.execPositionWipe port position mnt s
  | .portReset port tag => Sys2Proof.Machine.execPortReset port tag s
  | .setParameter port parameter value => Sys2Proof.Machine.execSetParameter port parameter value s
  | .parameterRead port => Sys2Proof.Machine.execParameterRead port s
  | .noticeSetup port mask threshold ageLimit => Sys2Proof.Machine.execNoticeSetup port mask threshold ageLimit s
  | .noticeRead port count => Sys2Proof.Machine.execNoticeRead port count s
  | .requestFrame port bytes => Sys2Proof.Machine.execRequestFrame port bytes s
  | .malformedFrame port bytes => Sys2Proof.Machine.execMalformedFrame port bytes s
  | .statusPoll port bytes => Sys2Proof.Machine.execStatusPoll port bytes s
  | .pureRead port bytes => Sys2Proof.Machine.execPureRead port bytes s
  | .resultReturn port => Sys2Proof.Machine.execResultReturn port s
  | .keyDown position key => Sys2Proof.Machine.execKeyDown position key s
  | .hold position => Sys2Proof.Machine.execHold position s
  | .release position => Sys2Proof.Machine.execRelease position s
  | .answer position => Sys2Proof.Machine.execAnswer position s
  | .privacy position => Sys2Proof.Machine.execPrivacy position s
  | .selectH0 position => Sys2Proof.Machine.execSelectH0 position s
  | .selectH1 position => Sys2Proof.Machine.execSelectH1 position s
  | .ringSilence position => Sys2Proof.Machine.execRingSilence position s
  | .spkMute position channel => Sys2Proof.Machine.execSpkMute position channel s
  | .spkTalkDown position channel => Sys2Proof.Machine.execSpkTalkDown position channel s
  | .spkTalkUp position channel => Sys2Proof.Machine.execSpkTalkUp position channel s
  | .hookOn position handset => Sys2Proof.Machine.execHookOn position handset s
  | .hookOff position handset => Sys2Proof.Machine.execHookOff position handset s
  | .knob position knob a b => Sys2Proof.Machine.execKnob position knob a b s
  | .turretFrame position frame => Sys2Proof.Machine.execTurretFrame position frame s
  | .announce position keyCount knobCount => Sys2Proof.Machine.execAnnounce position keyCount knobCount s
  | .lossTimerExpiry position => Sys2Proof.Machine.execLossTimerExpiry position s
  | .linkUpAttach position => Sys2Proof.Machine.execLinkUpAttach position s
  | .highwayFrame slots => Sys2Proof.Machine.execHighwayFrame slots s
  | .signalChange line now => Sys2Proof.Machine.execSignalChange line now s
  | .burstExpiry line => Sys2Proof.Machine.execBurstExpiry line s
  | .answerWaitExpiry line => Sys2Proof.Machine.execAnswerWaitExpiry line s
  | .holdExpiry line => Sys2Proof.Machine.execHoldExpiry line s
  | .recallExpiry line => Sys2Proof.Machine.execRecallExpiry line s
  | .guardExpiry line => Sys2Proof.Machine.execGuardExpiry line s
  | .denyTimerExpiry position lamp => Sys2Proof.Machine.execDenyTimerExpiry position lamp s
  | .cadenceTimerExpiry position => Sys2Proof.Machine.execCadenceTimerExpiry position s
  | .floorTimerExpiry group position => Sys2Proof.Machine.execFloorTimerExpiry group position s
  | .ageTimerExpiry port => Sys2Proof.Machine.execAgeTimerExpiry port s
  | .quietAsserted => Sys2Proof.Machine.execQuietAsserted s
  | .quietDeasserted => Sys2Proof.Machine.execQuietDeasserted s
  | .samplePeriod => Sys2Proof.Machine.execSamplePeriod s

end Sys2Proof.Machine
end

