-- ==== Sys2Proof/WellFormed.lean ====
section
/-! DEFINITION. Which terms of `Instr` the part can meet. The types already bound every number an interface hands
over; what is left is the form of a transfer (R164), of a turret frame and of its control events (R151, R154). -/

namespace Sys2Proof

/-- A turret frame carries zero, one or two control events (R151). -/
def TurretFrame.wf : TurretFrame → Bool
  | .bad => true
  | .valid _ _ _ events => decide (events.length ≤ 2)

/-- A transfer's whole bytes are judged as the row says (R164). -/
def isRequestTransfer (bytes : List Byte) : Bool :=
  match judgeTransfer bytes with
  | .request _ _ _ => true
  | .statusPoll | .pureRead | .malformed => false

/-- The commands the part can meet: each of the four rows for a transfer carries bytes of its own kind, and a
turret frame carries at most two control events. -/
def Instr.wf : Instr → Bool
  | .requestFrame _ bytes => isRequestTransfer bytes
  | .malformedFrame _ bytes => decide (judgeTransfer bytes = .malformed)
  | .statusPoll _ bytes => decide (judgeTransfer bytes = .statusPoll)
  | .pureRead _ bytes => decide (judgeTransfer bytes = .pureRead)
  | .turretFrame _ frame => frame.wf
  | .powerOnReset _ _ | .lineConfigure _ _ _ _ _ | .lineService _ _ _ | .lineStatusRead _ _
  | .lineClearMissed _ _ | .keyInject _ _ _ _ _ _ | .positionConfigure _ _ _ _ _ _ _
  | .positionStatusRead _ _ | .groupDefine _ _ _ _ | .groupUndefine _ _ | .memberAdd _ _ _ _
  | .memberRemove _ _ _ | .groupStatusRead _ _ | .planSet _ _ _ _ _ _ _ _ | .planPosition _ _ _ _
  | .mixApply _ _ | .speakerStatusRead _ _ | .speakersResume _ | .levelRead _ _ _
  | .pageLoad _ _ _ _ _ _ | .pageCommit _ _ | .pageDiscard _ | .guardSet _ _ _ | .entryRead _ _ _
  | .positionWipe _ _ _ | .portReset _ _ | .setParameter _ _ _ | .parameterRead _ | .noticeSetup _ _ _ _
  | .noticeRead _ _ | .resultReturn _ | .keyDown _ _ | .hold _ | .release _ | .answer _ | .privacy _
  | .selectH0 _ | .selectH1 _ | .ringSilence _ | .spkMute _ _ | .spkTalkDown _ _ | .spkTalkUp _ _
  | .hookOn _ _ | .hookOff _ _ | .knob _ _ _ _ | .announce _ _ _ | .lossTimerExpiry _ | .linkUpAttach _
  | .highwayFrame _ | .signalChange _ _ | .burstExpiry _ | .answerWaitExpiry _ | .holdExpiry _
  | .recallExpiry _ | .guardExpiry _ | .denyTimerExpiry _ _ | .cadenceTimerExpiry _
  | .floorTimerExpiry _ _ | .ageTimerExpiry _ | .quietAsserted | .quietDeasserted | .samplePeriod => true

end Sys2Proof
end

