-- ==== Sys2Proof/Safety.lean ====
section
/-! DEFINITION. The terms in which claims speak: which commands the part itself has made due, the frame of a command,
and the properties of a state that every step keeps. -/

namespace Sys2Proof.Machine

/-! ### Commands that are due (log entry 4) -/

/-- The commands that come from outside the part: its pins, its clock, its ports and its two interfaces. -/
def outside : Instr → Bool
  | .powerOnReset _ _ | .requestFrame _ _ | .malformedFrame _ _ | .statusPoll _ _ | .pureRead _ _ | .turretFrame _ _
  | .highwayFrame _ | .quietAsserted | .quietDeasserted | .samplePeriod => true
  | .lineConfigure _ _ _ _ _ | .lineService _ _ _ | .lineStatusRead _ _ | .lineClearMissed _ _
  | .keyInject _ _ _ _ _ _ | .positionConfigure _ _ _ _ _ _ _ | .positionStatusRead _ _ | .groupDefine _ _ _ _
  | .groupUndefine _ _ | .memberAdd _ _ _ _ | .memberRemove _ _ _ | .groupStatusRead _ _
  | .planSet _ _ _ _ _ _ _ _ | .planPosition _ _ _ _ | .mixApply _ _ | .speakerStatusRead _ _ | .speakersResume _
  | .levelRead _ _ _ | .pageLoad _ _ _ _ _ _ | .pageCommit _ _ | .pageDiscard _ | .guardSet _ _ _
  | .entryRead _ _ _ | .positionWipe _ _ _ | .portReset _ _ | .setParameter _ _ _ | .parameterRead _
  | .noticeSetup _ _ _ _ | .noticeRead _ _ | .resultReturn _ | .keyDown _ _ | .hold _ | .release _ | .answer _
  | .privacy _ | .selectH0 _ | .selectH1 _ | .ringSilence _ | .spkMute _ _ | .spkTalkDown _ _ | .spkTalkUp _ _
  | .hookOn _ _ | .hookOff _ _ | .knob _ _ _ _ | .announce _ _ _ | .lossTimerExpiry _ | .linkUpAttach _
  | .signalChange _ _ | .burstExpiry _ | .answerWaitExpiry _ | .holdExpiry _ | .recallExpiry _ | .guardExpiry _
  | .denyTimerExpiry _ _ | .cadenceTimerExpiry _ | .floorTimerExpiry _ _ | .ageTimerExpiry _ => false

/-- Some port has passed this request on and its owning block has not answered it yet (R165). -/
def State.requestDue (s : State) (i : Instr) : Bool :=
  (ascending 4).any fun c =>
    match (s.port c).inFlight, (s.port c).answer with
    | some f, none =>
      [false, true].any fun mnt => decide (requestCommand c f.tag mnt f.number.toNat f.args = some i)
    | some _, some _ | none, _ => false

/-- The control event that the Position Table is to take next at position `p` (R154). -/
def State.nextDelivered (s : State) (p : PositionId) : Option TurretEvent := (s.link p).delivered.head?

/-- A command that the part's own interfaces, timers and ports have made due, or that comes from outside. -/
def State.due (s : State) (i : Instr) : Bool :=
  outside i || s.requestDue i ||
    match i with
    | .resultReturn c => (s.port c).answer.isSome
    | .keyDown p k => decide (s.nextDelivered p = some (.key k true))
    | .hold p => decide (s.nextDelivered p = some (.func .hold 0 true))
    | .release p => decide (s.nextDelivered p = some (.func .release 0 true))
    | .answer p => decide (s.nextDelivered p = some (.func .answer 0 true))
    | .privacy p => decide (s.nextDelivered p = some (.func .privacy 0 true))
    | .selectH0 p => decide (s.nextDelivered p = some (.func .selectH0 0 true))
    | .selectH1 p => decide (s.nextDelivered p = some (.func .selectH1 0 true))
    | .ringSilence p => decide (s.nextDelivered p = some (.func .ringSilence 0 true))
    | .spkMute p n => decide (s.nextDelivered p = some (.func .spkMute (channelByte n) true))
    | .spkTalkDown p n => decide (s.nextDelivered p = some (.func .spkTalk (channelByte n) true))
    | .spkTalkUp p n => decide (s.nextDelivered p = some (.func .spkTalk (channelByte n) false))
    | .hookOn p h => decide (s.nextDelivered p = some (.hook h .on))
    | .hookOff p h => decide (s.nextDelivered p = some (.hook h .off))
    | .knob p j a b => decide (s.nextDelivered p = some (.knob (byteOf j.val) a b))
    | .announce p kc kn => decide (s.nextDelivered p = some (.announce kc kn))
    | .lossTimerExpiry p => (s.link p).lossTimer.isSome
    | .linkUpAttach p => (s.link p).attachDue
    | .signalChange l now => decide ((s.highway.get l).handed.head? = some now)
    | .burstExpiry l => decide ((s.line l).timer.map LineTimer.purpose = some .burst)
    | .answerWaitExpiry l => decide ((s.line l).timer.map LineTimer.purpose = some .answerWait)
    | .holdExpiry l => decide ((s.line l).timer.map LineTimer.purpose = some .hold)
    | .recallExpiry l => decide ((s.line l).timer.map LineTimer.purpose = some .recall)
    | .guardExpiry l => decide ((s.line l).timer.map LineTimer.purpose = some .guard)
    | .denyTimerExpiry p x => ((s.position p).deny.get x).isSome
    | .cadenceTimerExpiry p => (s.position p).ringer.cadence.isSome
    | .floorTimerExpiry g p => ((s.group g).floorTimer p).isSome
    | .ageTimerExpiry c => (s.noticeQueue c).ageTimer.isSome
    | .powerOnReset _ _ | .requestFrame _ _ | .malformedFrame _ _ | .statusPoll _ _ | .pureRead _ _
    | .turretFrame _ _ | .highwayFrame _ | .quietAsserted | .quietDeasserted | .samplePeriod
    | .lineConfigure _ _ _ _ _ | .lineService _ _ _ | .lineStatusRead _ _ | .lineClearMissed _ _
    | .keyInject _ _ _ _ _ _ | .positionConfigure _ _ _ _ _ _ _ | .positionStatusRead _ _ | .groupDefine _ _ _ _
    | .groupUndefine _ _ | .memberAdd _ _ _ _ | .memberRemove _ _ _ | .groupStatusRead _ _
    | .planSet _ _ _ _ _ _ _ _ | .planPosition _ _ _ _ | .mixApply _ _ | .speakerStatusRead _ _
    | .speakersResume _ | .levelRead _ _ _ | .pageLoad _ _ _ _ _ _ | .pageCommit _ _ | .pageDiscard _
    | .guardSet _ _ _ | .entryRead _ _ _ | .positionWipe _ _ _ | .portReset _ _ | .setParameter _ _ _
    | .parameterRead _ | .noticeSetup _ _ _ _ | .noticeRead _ _ => false

/-- A step as the part's environment takes it: the front command is well-formed and due. -/
def State.orderly (s : State) : Bool :=
  match s.pending with
  | [] => true
  | i :: _ => i.wf && s.due i

/-! ### Frames -/

/-- The parts of State, by the names of its fields. -/
inductive Part where
  | pending | clock | offers | lines | positions | lamps | groups | speakers | quiet | quietPin | mntPin | termCount
  | lineClip | positionClip | directory | guards | staging | links | turretOut | highway | highwayOut | ports | params
  | notices
deriving DecidableEq, Repr

/-- Two states agree in one part. -/
def Part.same (s t : State) : Part → Prop
  | .pending => t.pending = s.pending
  | .clock => t.clock = s.clock
  | .offers => t.offers = s.offers
  | .lines => t.lines = s.lines
  | .positions => t.positions = s.positions
  | .lamps => t.lamps = s.lamps
  | .groups => t.groups = s.groups
  | .speakers => t.speakers = s.speakers
  | .quiet => t.quiet = s.quiet
  | .quietPin => t.quietPin = s.quietPin
  | .mntPin => t.mntPin = s.mntPin
  | .termCount => t.termCount = s.termCount
  | .lineClip => t.lineClip = s.lineClip
  | .positionClip => t.positionClip = s.positionClip
  | .directory => t.directory = s.directory
  | .guards => t.guards = s.guards
  | .staging => t.staging = s.staging
  | .links => t.links = s.links
  | .turretOut => t.turretOut = s.turretOut
  | .highway => t.highway = s.highway
  | .highwayOut => t.highwayOut = s.highwayOut
  | .ports => t.ports = s.ports
  | .params => t.params = s.params
  | .notices => t.notices = s.notices

/-- Every part outside `changed` is as it was. -/
def SameExcept (changed : List Part) (s t : State) : Prop := ∀ q : Part, q ∉ changed → q.same s t

/-- Every line but `l` is as it was. -/
def OtherLines (l : LineId) (s t : State) : Prop := ∀ l', l' ≠ l → t.line l' = s.line l'

/-- Every position record but that of `p` is as it was. -/
def OtherPositions (p : PositionId) (s t : State) : Prop := ∀ p', p' ≠ p → t.position p' = s.position p'

/-- Every group but `g` is as it was. -/
def OtherGroups (g : GroupId) (s t : State) : Prop := ∀ g', g' ≠ g → t.group g' = s.group g'

/-- What the Speaker Field keeps for every position but `p` is as it was. -/
def OtherSpeakers (p : PositionId) (s t : State) : Prop := ∀ p', p' ≠ p → t.speaker p' = s.speaker p'

/-- Every speaker channel but channel `n` of `p`, and every plan and step, is as it was. -/
def OtherChannels (p : PositionId) (n : ChannelId) (s t : State) : Prop :=
  OtherSpeakers p s t ∧ (∀ n', n' ≠ n → t.channel p n' = s.channel p n')
    ∧ { t.speaker p with channels := (s.speaker p).channels } = s.speaker p

/-- Every directory entry but (p, k) is as it was. -/
def OtherEntries (p : PositionId) (k : Key) (s t : State) : Prop :=
  ∀ p' k', (p', k') ≠ (p, k) → t.entry p' k' = s.entry p' k'

/-- Every link but that of `p` is as it was. -/
def OtherLinks (p : PositionId) (s t : State) : Prop := ∀ p', p' ≠ p → t.link p' = s.link p'

/-- The owning block has answered the request of port `c` with `r` and `data`; nothing else of any port has changed. -/
def Answered (c : Port) (r : ResultCode) (data : List Byte) (s t : State) : Prop :=
  t.port c = { s.port c with answer := some ⟨r, data⟩ } ∧ ∀ c', c' ≠ c → t.port c' = s.port c'

/-- Of the links, at most the outbound lamp queues have changed: what the Lamp Unit hands after an event (R65). -/
def OnlyLampQueues (s t : State) : Prop :=
  ∀ p, t.link p = { s.link p with lampQueue := (t.link p).lampQueue }

/-- Of the links, at most the lamp queues and the delivered events of `p` have changed. -/
def OnlyDelivered (p : PositionId) (s t : State) : Prop :=
  (∀ p', p' ≠ p → t.link p' = { s.link p' with lampQueue := (t.link p').lampQueue })
    ∧ t.link p = { s.link p with lampQueue := (t.link p).lampQueue, delivered := (t.link p).delivered }

/-- Of the position records, at most the ring queues and the ringers have changed (R51, R52, R70). -/
def OnlyRings (s t : State) : Prop :=
  ∀ p, t.position p =
    { s.position p with ringQueue := (t.position p).ringQueue, ringer := (t.position p).ringer }

/-- No channel waits on line `l` at a position whose link is UP, so that an attach opportunity of `l` finds none
(R101). -/
def State.noneWaits (s : State) (l : LineId) : Prop := ∀ p n, s.awaits l p n = false

/-- The notices `bs` were raised one after the other: each was offered to every port, and no other was (R176, R183). -/
def Raised (bs : List NoticeBody) (s t : State) : Prop :=
  ∀ c, t.noticeQueue c =
    bs.foldl (fun q b => q.offered (t.clock + q.ageLimit * Config.periodsPerMs) b) (s.noticeQueue c)

/-- The slots of every handset but `h` of `p` are as they were. -/
def OtherSlots (p : PositionId) (h : Handset) (s t : State) : Prop :=
  ∀ q g, (q, g) ≠ (p, h) → t.slot q g = s.slot q g

/-- Of the links, at most the lamp queues have changed, and `attachDue` of `p` is off. -/
def OnlyAttachDue (p : PositionId) (s t : State) : Prop :=
  (∀ p', p' ≠ p → t.link p' = { s.link p' with lampQueue := (t.link p').lampQueue })
    ∧ t.link p = { s.link p with lampQueue := (t.link p).lampQueue, attachDue := false }

/-- The channels that wait on line `l` at positions whose link is UP, in the order in which an attach opportunity takes
them (R101). -/
def State.waiters (s : State) (l : LineId) : List (PositionId × ChannelId) :=
  (ascending 32).flatMap fun p => ((ascending 8).filter fun n => s.awaits l p n).map fun n => (p, n)

/-- The party that channel `w` makes (R2, R94, R101). -/
def State.partyOf (s : State) (w : PositionId × ChannelId) : Party :=
  ⟨w.1, .channel w.2, none, (s.channel w.1 w.2).talkback, false, .plan⟩

/-- At an attach opportunity of line `l` the first `room` of its waiting channels attach, in order, and every later one
keeps waiting with the refusal `reason`; no other channel changes (R101). -/
def AttachedInOrder (l : LineId) (room : Nat) (reason : ResultCode) (s t : State) : Prop :=
  (∀ w ∈ (s.waiters l).take room,
      t.channel w.1 w.2 = { s.channel w.1 w.2 with attach := .attached, waitReason := none }) ∧
    (∀ w ∈ (s.waiters l).drop room, t.channel w.1 w.2 = { s.channel w.1 w.2 with waitReason := some reason }) ∧
    (∀ p n, (p, n) ∉ s.waiters l → t.channel p n = s.channel p n) ∧
    ∀ p, { t.speaker p with channels := (s.speaker p).channels } = s.speaker p

/-- What a handset party leaves behind when others remain: the line keeps its state and its other parties, privacy goes
off with the principal, and the slot is emptied (R3, R20, R34). -/
def PartyLeft (p : PositionId) (h : Handset) (l : LineId) (x : Party) (others : List Party) (s t : State) : Prop :=
  t.line l = { s.line l with
      parties := others, privacy := (s.line l).privacy && !decide ((s.line l).principal = some x) } ∧
    OtherLines l s t ∧ t.slot p h = none ∧ OtherSlots p h s t ∧ OtherPositions p s t ∧
    t.termCount = s.termCount - 3 ∧ Raised [] s t

/-- A denial at `p` shown on lamp `x`: KEY_DENIED with its reason, and the lamp's deny timer at 1 s (R53). -/
def Denied (p : PositionId) (x : LampId) (reason : ResultCode) (s t : State) : Prop :=
  Raised [.keyDenied p (some x) reason .turret] s t ∧
    t.position p = { s.position p with deny := (s.position p).deny.set x (some (s.clock + 8000)) } ∧
    OtherPositions p s t

/-- The three bytes of a directory content; a hidden target is 255, and so is that of EMPTY (R147, R172, log
entry 10). -/
def ContentShown (hidden : Bool) (x : Content) (bytes : List Byte) : Prop :=
  match x with
  | .empty => bytes = [0, 255, 0]
  | .line l r b u =>
    ∃ attrs : Byte, bytes = [1, if hidden then 255 else byteOf l.val, attrs] ∧
      attrs.getLsbD 0 = r ∧ attrs.getLsbD 1 = b ∧ attrs.getLsbD 2 = u ∧ attrs.toNat < 8
  | .group g => bytes = [2, if hidden then 255 else byteOf g.val, 0]

/-- The place of a knob's phase pair in the forward round (0,0), (0,1), (1,1), (1,0) of R108. -/
def phase : Bool → Bool → Fin 4
  | false, false => 0
  | false, true => 1
  | true, true => 2
  | true, false => 3

/-- IDLE line `l` as handset `h` of `p` takes it through `k` (R12). -/
def State.originated (s : State) (by_ : JoinedBy) (p : PositionId) (h : Handset) (k : Key) (l : LineId) : Line :=
  if (s.line l).ringdown = .auto ∧ (s.line l).signals.fl = false then
    { s.line l with
      state := .calling, parties := [⟨p, .handset h, some k, true, decide (s.hook p h = .off), by_⟩]
      missed := 0, sz := true, rg := true, burstCount := 1, unanswered := false
      timer := some ⟨.burst, s.clock + s.params.burstTime * 8⟩ }
  else
    { s.line l with
      state := .active, parties := [⟨p, .handset h, some k, true, decide (s.hook p h = .off), by_⟩]
      missed := 0, sz := true, rg := false, timer := none }

/-- What a line key into an empty slot leaves when its IDLE line is taken (R12, R34, R39). -/
def Originated (by_ : JoinedBy) (p : PositionId) (h : Handset) (k : Key) (l : LineId) (s t : State) :
    Prop :=
  t.line l = s.originated by_ p h k l ∧
    OtherLines l s t ∧ t.slot p h = some ⟨.line l, k⟩ ∧ OtherSlots p h s t ∧ OtherPositions p s t ∧
    t.position p = (s.position p).setHandset h { (s.position p).handset h with slot := some ⟨.line l, k⟩ } ∧
    t.termCount = s.termCount + 3 ∧ Raised [.lineState l .idle (t.line l).state] s t

/-! ### Samples (R72, R91, R92, R114, R120, R121) -/

/-- `v` is the microphone sample of a path of `p`: the handset's, or the talkback microphone for a speaker channel, and 0
while the link is not UP (R114, R155). -/
def Heard.Mic (s : State) (p : PositionId) (path : Path) (v : Int) : Prop :=
  ((s.link p).state ≠ .up → v = 0) ∧
    ((s.link p).state = .up → v = match path with
      | .handset .h0 => (s.link p).mics.h0.toInt
      | .handset .h1 => (s.link p).mics.h1.toInt
      | .channel _ => (s.link p).mics.talkback.toInt)

/-- `v` is the own term of `p` in group `g`: what it contributes as a talker, from any source, 0 from an on-hook handset
and 0 without a talker entry (R91, R92). -/
def Heard.OwnTerm (s : State) (g : GroupId) (p : PositionId) (v : Int) : Prop :=
  ((s.group g).talker? p = none → v = 0) ∧
    ∀ y, (s.group g).talker? p = some y → v = match y.source with
      | .handset h => if s.hook p h = .on then 0 else s.handsetMic p h
      | .channel _ => s.talkbackMic p

/-- `v` is the receive value of handset `h` of `p` by the table of R120, scaled by the handset step and not yet
clamped. -/
def Heard.Handset (s : State) (p : PositionId) (h : Handset) (v : Int) : Prop :=
  (s.slot p h = none → v = 0) ∧
    (∀ l k, s.slot p h = some ⟨.line l, k⟩ → ∃ own : Int,
      v = scale ((s.highway.get l).far.toInt + s.localSum l - own) (s.position p).handsetStep ∧
      (∀ y, (s.line l).party? p (.handset h) = some y → y.talking = true → own = s.handsetMic p h) ∧
      ((∀ y, (s.line l).party? p (.handset h) = some y → y.talking = false) → own = 0)) ∧
    ∀ g k, s.slot p h = some ⟨.group g, k⟩ → ∃ own : Int,
      v = scale (s.groupSum g - own) (s.position p).handsetStep ∧ Heard.OwnTerm s g p own

/-- `v` is the source sample of channel `n` of `p` by the table of R121; the channel is suppressed while a handset slot of
`p` holds its source (R107). -/
def Heard.Channel (s : State) (p : PositionId) (n : ChannelId) (v : Int) : Prop :=
  ((s.channel p n).source = none ∨ (s.channel p n).mute = true → v = 0) ∧
    (∀ x h k, (s.channel p n).source = some x → s.slot p h = some ⟨x, k⟩ → v = 0) ∧
    (∀ l, (s.channel p n).source = some (.line l) → (s.channel p n).attach ≠ .attached → v = 0) ∧
    (∀ l, (s.channel p n).source = some (.line l) → (s.channel p n).attach = .attached →
      (s.channel p n).mute = false → (∀ h k, s.slot p h ≠ some ⟨.line l, k⟩) → v = (s.highway.get l).far.toInt) ∧
    (∀ g, (s.channel p n).source = some (.group g) → (s.group g).member? p = none → v = 0) ∧
    ∀ g, (s.channel p n).source = some (.group g) → (s.group g).member? p ≠ none → (s.channel p n).mute = false →
      (∀ h k, s.slot p h ≠ some ⟨.group g, k⟩) → ∃ own : Int, v = s.groupSum g - own ∧ Heard.OwnTerm s g p own

/-- `v` is the tone sample of a position: a square wave of amplitude 8192 with the half-period of its tone in samples,
from the tone phase, while the ringer is ON, and 0 otherwise (R72). -/
def Heard.Tone (x : Position) (v : Int) : Prop :=
  (x.ringerCondition ≠ .on → v = 0) ∧
    ∀ half : Nat, x.ringerCondition = .on →
      half = (match x.ringerTone with
        | .hz400 => 10
        | .hz500 => 8
        | .hz800 => 5
        | .hz1000 => 4) →
      v = if x.ringer.tonePhase / half % 2 = 0 then 8192 else -8192

/-! ### Links and ports -/

/-- The link of `p` has come UP with layout `y`: the knob count, the full refresh of every lamp of the layout in order with
its shown code, and the image that says so (R67, R152). The loss timer runs on, and the Speaker Field's attach event is due
(R102, log entry 4). -/
def LinkCameUp (p : PositionId) (y : Layout) (knobs : Byte) (s t : State) : Prop :=
  (t.link p).state = .up ∧ (t.link p).layout = some y ∧ (t.link p).knobCount = min 2 knobs.toNat ∧
    (t.link p).lossTimer = (s.link p).lossTimer ∧ (t.link p).attachDue = true ∧
    (t.link p).lampQueue.map LampUpdate.lamp = y.lamps ∧
    (∀ u ∈ (t.link p).lampQueue, u.code = t.shownCode p u.lamp ∧ (t.lamps.get p).image.get u.lamp = u.code) ∧
    (t.lamps.get p).stale = false ∧
    ∀ q, q ≠ p → t.link q = { s.link q with lampQueue := (t.link q).lampQueue }

/-- The live state of `p` is cleared when its link leaves UP: slots, hooks, residues, deny displays, push-to-talk, the
attachments of its line channels and its places on the floors; the term count falls by the slots' costs, and no other
position's hooks or slots change (R55, R89, R102). -/
def PositionCleared (p : PositionId) (s t : State) : Prop :=
  (∀ h, t.slot p h = none ∧ t.hook p h = .on) ∧
    (∀ j, (t.position p).knob j = { (s.position p).knob j with residue := 0 }) ∧
    (∀ x, (t.position p).deny.get x = none) ∧
    (∀ q, q ≠ p → ∀ h, t.slot q h = s.slot q h ∧ t.hook q h = s.hook q h) ∧
    (∀ n, (t.channel p n).source = (s.channel p n).source ∧ (t.channel p n).ptt = false ∧
      (t.channel p n).mustRelease = false ∧
      (∀ l, (t.channel p n).source = some (.line l) →
        (t.channel p n).attach = .waiting ∧ (t.channel p n).waitReason = some .linkDown)) ∧
    (∀ g, (t.group g).talker? p = none ∧ (t.group g).waiter? p = none) ∧
    t.termCount = s.termCount - slotCost (s.slot p .h0) - slotCost (s.slot p .h1)

/-- A PORT RESET of `c` beside its port record: the staging buffer and the notice queue of `c` are emptied, the setup of
the queue is kept, and no other port, buffer or queue changes (R169, R177). -/
def PortEmptied (c : Port) (s t : State) : Prop :=
  (∀ c', c' ≠ c → t.port c' = s.port c' ∧ t.stagingOf c' = s.stagingOf c' ∧ t.noticeQueue c' = s.noticeQueue c') ∧
    (t.stagingOf c).page = none ∧ (∀ i, (t.stagingOf c).slots.get i = none) ∧
    t.noticeQueue c =
      { s.noticeQueue c with queue := [], lostMark := false, ageTimer := none, ageAttention := false } ∧
    SameExcept [.ports, .staging, .notices] s t

/-- Request `f` of port `c` has returned with result `r` and `data` in the event itself: its response frame is in the slot
of a READY port and ATTN is asserted, or, while the discard mark was on, it is discarded (R166, log entry 21). -/
def ReadReturned (c : Port) (f : InFlight) (r : ResultCode) (data : List Byte) (s t : State) : Prop :=
  t.port c =
    (if (s.port c).discard then { s.port c with discard := false, inFlight := none, answer := none }
    else { s.port c with
      state := .ready, readPosition := 0, inFlight := none, answer := none
      slot := some (byteOf ((data.length + 2) / 256) :: byteOf (data.length + 2) :: f.tag :: byteOf r.code :: data) }) ∧
    ((s.port c).discard = false → t.attn c = true) ∧ ∀ c', c' ≠ c → t.port c' = s.port c'

/-! ### The term count (R124) -/

/-- The terms of the two handset slots of a position (R33, R124). -/
def Position.slotTerms (x : Position) : Nat := slotCost x.h0.slot + slotCost x.h1.slot

/-- The terms that a group reserves: its talker limit while it is defined (R77, R124). -/
def Group.terms (x : Group) : Nat := if x.defined then x.talkerLimit else 0

/-- The terms owed for the configuration as it stands (R124). -/
def State.termsOwed (s : State) : Nat :=
  Config.ringerTerms + (s.positions.items.map Position.slotTerms).sum
    + (s.speakers.items.map Speaker.liveTerms).sum + (s.groups.items.map Group.terms).sum

/-- The count is what the configuration owes, and within the budget (R124). -/
def State.termsAgree (s : State) : Prop := s.termCount = s.termsOwed ∧ s.termCount ≤ Config.termBudget

/-! ### Lines (R2, R3, R4) -/

/-- The states with an empty party list (R4). -/
def LineState.partyless : LineState → Bool
  | .calling | .active => false
  | .idle | .ringing | .held | .recall | .guard | .fault | .outOfService => true

/-- The states with a hold owner (R4). -/
def LineState.hasOwner : LineState → Bool
  | .held | .recall => true
  | .idle | .ringing | .calling | .active | .guard | .fault | .outOfService => false

/-- SZ is on in these states (R4). -/
def LineState.seizes : LineState → Bool
  | .calling | .active | .held | .recall => true
  | .idle | .ringing | .guard | .fault | .outOfService => false

/-- The timer purposes a line may run in a state (R5, R9, R12, R17, R18, R21, R22). -/
def LineState.mayRun : LineState → LinePurpose → Bool
  | .calling, .burst | .calling, .answerWait | .active, .burst | .held, .hold | .recall, .recall
  | .guard, .guard => true
  | .calling, .hold | .calling, .recall | .calling, .guard | .active, .answerWait | .active, .hold
  | .active, .recall | .active, .guard | .held, .burst | .held, .answerWait | .held, .recall | .held, .guard
  | .recall, .burst | .recall, .answerWait | .recall, .hold | .recall, .guard | .guard, .burst
  | .guard, .answerWait | .guard, .hold | .guard, .recall | .idle, _ | .ringing, _ | .fault, _
  | .outOfService, _ => false

/-- What R2, R3 and R4 say of one line record, with the ranges of R1. -/
structure Line.ok (x : Line) : Prop where
  atMostEight : x.parties.length ≤ Config.maxParties
  distinct : (x.parties.map fun y => (y.position, y.path)).Nodup
  keyOfHandset : ∀ y ∈ x.parties, y.key.isSome = y.path.isHandset
  handsetTalkCapable : ∀ y ∈ x.parties, y.path.isHandset = true → y.talkCapable = true
  partyless : x.parties.isEmpty = x.state.partyless
  holdOwner : x.holdOwner.isSome = x.state.hasOwner
  privateHold : x.privateHold = true → x.holdOwner.isSome = true
  privacy : x.privacy = true → x.principal.isSome = true
  seized : x.sz = x.state.seizes
  rings : x.rg = true → x.state = .calling ∨ x.state = .active
  timer : ∀ t, x.timer = some t → x.state.mayRun t.purpose = true
  guardTimed : x.state = .guard → x.timer.isSome = true
  missed : x.missed ≤ 15

/-- Every line record keeps R2, R3 and R4. -/
def State.linesOk (s : State) : Prop := ∀ l, (s.line l).ok

/-! ### Slots, channels and bindings against the lines (R33, R94, R135) -/

/-- Handset `h` of `p` holds line `l` through `k` exactly when `l` has a handset party (p, h) with key `k` (R33). -/
def State.slotsAgree (s : State) : Prop :=
  ∀ p h l k, s.slot p h = some ⟨.line l, k⟩ ↔
    ∃ x ∈ (s.line l).parties, x.position = p ∧ x.path = .handset h ∧ x.key = some k

/-- Channel `n` of `p` is ATTACHED exactly when its source line has a speaker party (p, Sn), and no other line has one
(R94). -/
def State.attachAgree (s : State) : Prop :=
  ∀ p n l,
    (∃ x ∈ (s.line l).parties, x.position = p ∧ x.path = .channel n) ↔
      ((s.channel p n).source = some (.line l) ∧ (s.channel p n).attach = .attached)

/-- The attach state that goes with a source (R94). -/
def attachFits : Option Source → Attach → Bool
  | none, .none | some (.group _), .listening | some (.line _), .attached | some (.line _), .waiting => true
  | none, .attached | none, .waiting | none, .listening | some (.group _), .none | some (.group _), .attached
  | some (.group _), .waiting | some (.line _), .none | some (.line _), .listening => false

/-- Every channel's attach state goes with its source, and its wait reason is present only while it is WAITING (R94). -/
def State.attachFit (s : State) : Prop :=
  ∀ p n, attachFits (s.channel p n).source (s.channel p n).attach = true ∧
    ((s.channel p n).waitReason.isSome = true → (s.channel p n).attach = .waiting)

/-- A directory entry has a pending replacement only while it is bound (R135). -/
def State.pendingBound (s : State) : Prop :=
  ∀ p k, (s.entry p k).pendingContent.isSome = true → s.bound p k = true

/-! ### Ring queues (R50) -/

/-- PRIORITY entries stand before all NORMAL ones (R50, R75). -/
def byClass {α : Type} (cls : α → LineClass) (q : List α) : Prop :=
  q.Pairwise fun a b => cls b = .priority → cls a = .priority

/-- Position `p` holds an entry for line `l` of one kind. -/
def Position.rings (x : Position) (kind : RingKind) (l : LineId) : Prop :=
  ∃ e ∈ x.ringQueue, e.line = l ∧ e.kind = kind

/-- Every ring queue has an entry of a kind for exactly the lines that R50 gives, at most one for any line, in the order by
class. -/
def State.ringsAgree (s : State) : Prop :=
  ∀ p, ((s.position p).ringQueue.map RingEntry.line).Nodup ∧ byClass RingEntry.cls (s.position p).ringQueue ∧
    ∀ l,
      ((s.position p).rings .ring l ↔
        (s.line l).state = .ringing ∧ (lowestRingKey (s.directory.get p) l).isSome = true) ∧
      ((s.position p).rings .recall l ↔
        (s.line l).state = .recall ∧ ∃ k, (s.line l).holdOwner = some ⟨p, k⟩)

/-- Every ring queue entry has its line's class, and its key is the one of R50: the lowest ring-enabled key of a RING entry,
the hold owner's key of a RECALL entry (R50, R51, R52). -/
def State.ringFieldsAgree (s : State) : Prop :=
  ∀ p, ∀ e ∈ (s.position p).ringQueue, e.cls = (s.line e.line).cls ∧
    (e.kind = .ring → lowestRingKey (s.directory.get p) e.line = some e.key) ∧
    (e.kind = .recall → (s.line e.line).holdOwner = some ⟨p, e.key⟩)

/-! ### Groups (R74, R75) -/

/-- What R74 and R75 say of one group, with the ranges of R73. -/
structure Group.ok (x : Group) : Prop where
  limit : 1 ≤ x.talkerLimit ∧ x.talkerLimit ≤ 8
  talkers : x.talkers.length ≤ x.talkerLimit
  waiting : x.waiting.length ≤ Config.maxWaiting
  waitsWhenFull : x.waiting ≠ [] → x.talkers.length = x.talkerLimit
  oneEntry : (x.talkers.map Talker.position ++ x.waiting.map Waiter.position).Nodup
  membersOnce : (x.members.map Member.position).Nodup
  talkersMembers : ∀ t ∈ x.talkers, t.position ∈ x.members.map Member.position
  waitersMembers : ∀ w ∈ x.waiting, w.position ∈ x.members.map Member.position
  ordered : byClass Waiter.cls x.waiting
  undefinedEmpty : x.defined = false → x.members = []

/-- Every group keeps R74 and R75. -/
def State.groupsOk (s : State) : Prop := ∀ g, (s.group g).ok

/-! ### Speaker steps and knobs (R93, R108) -/

/-- The knob floor is at least 1 and no loudspeaker step is below it, live or staged (R93, R97). -/
def Speaker.stepsOk (x : Speaker) : Prop :=
  1 ≤ x.knobFloor.val ∧ 1 ≤ x.stagedFloor.val ∧ x.knobFloor ≤ x.step0 ∧ x.knobFloor ≤ x.step1

/-- A knob residue lies between -3 and +3 (R32, R108). -/
def KnobState.ok (x : KnobState) : Prop := -3 ≤ x.residue ∧ x.residue ≤ 3

/-- Every loudspeaker step and every knob residue is in its range (R93, R108). -/
def State.knobsOk (s : State) : Prop :=
  (∀ p, (s.speaker p).stepsOk) ∧ ∀ p, (s.position p).knob0.ok ∧ (s.position p).knob1.ok

/-! ### Lamps (R59 to R65) -/

/-- The table of R61: `c` is the code of key lamp (p, k) whose entry names a line with record `x`. -/
structure LineLampIs (x : Line) (p : PositionId) (k : Key) (c : LampCode) : Prop where
  idle : x.state = .idle → c = if x.missed = 0 then .off else .redWink
  ringing : x.state = .ringing → c = if x.cls = .normal then .greenFast else .amberFast
  partyCalling : x.state = .calling → (∃ y ∈ x.parties, y.position = p ∧ y.path.isHandset ∧ y.key = some k) →
    c = if x.unanswered then .greenWink else .greenSteady
  partyActive : x.state = .active → (∃ y ∈ x.parties, y.position = p ∧ y.path.isHandset ∧ y.key = some k) →
    c = .greenSteady
  others : x.state = .calling ∨ x.state = .active →
    (∀ y ∈ x.parties, ¬(y.position = p ∧ y.path.isHandset ∧ y.key = some k)) →
    c = if x.privacy then .amberSteady else .redSteady
  onHold : x.state = .held → c = if x.holdOwner = some ⟨p, k⟩ then .greenSlow else .redSlow
  recalling : x.state = .recall → c = if x.holdOwner = some ⟨p, k⟩ then .greenFast else .redSlow
  guarded : x.state = .guard → c = .redSteady
  outOfOrder : x.state = .fault ∨ x.state = .outOfService → c = .redFast

/-- The table of R62: `c` is the code of key lamp (p, k) whose entry names a group with record `x`; `holds` says that a
slot of `p` holds the group through `k`. -/
structure GroupLampIs (x : Group) (holds : Prop) (p : PositionId) (c : LampCode) : Prop where
  undefinedGroup : x.defined = false → c = .redFast
  talks : x.defined = true → holds → p ∈ x.talkers.map Talker.position → c = .greenSteady
  waits : x.defined = true → holds → p ∉ x.talkers.map Talker.position → p ∈ x.waiting.map Waiter.position →
    c = .greenSlow
  listens : x.defined = true → holds → p ∉ x.talkers.map Talker.position →
    p ∉ x.waiting.map Waiter.position → c = .greenWink
  elsewhere : x.defined = true → ¬holds → c = if x.talkers = [] then .off else .redSteady

/-- The table of R63: `c` is the code of channel lamp (p, n) of a channel with record `x`. -/
structure ChannelLampIs (s : State) (p : PositionId) (n : ChannelId) (x : Channel) (c : LampCode) : Prop where
  noSource : x.source = none → c = .off
  waiting : x.source ≠ none → x.attach = .waiting → c = .redSteady
  lineTalks : ∀ l y, x.source = some (.line l) → x.attach = .attached →
    (s.line l).party? p (.channel n) = some y → y.talking = true → c = .greenFast
  lineListens : ∀ l, x.source = some (.line l) → x.attach ≠ .waiting →
    (x.attach = .attached → ∀ y, (s.line l).party? p (.channel n) = some y → y.talking = false) →
    c = if x.mute then .greenSlow else .greenSteady
  groupTalks : ∀ g y, x.source = some (.group g) → x.attach ≠ .waiting →
    (s.group g).talker? p = some y → y.source = .channel n → c = .greenFast
  groupWaits : ∀ g w, x.source = some (.group g) → x.attach ≠ .waiting →
    (∀ y, (s.group g).talker? p = some y → y.source ≠ .channel n) →
    (s.group g).waiter? p = some w → w.source = .channel n → c = .amberSteady
  groupListens : ∀ g, x.source = some (.group g) → x.attach ≠ .waiting →
    (∀ y, (s.group g).talker? p = some y → y.source ≠ .channel n) →
    (∀ w, (s.group g).waiter? p = some w → w.source ≠ .channel n) →
    c = if x.mute then .greenSlow else .greenSteady

/-- `c` is the shown code of lamp `x` of `p`: DENY while the lamp has a deny display, and the code that the tables
derive otherwise (R59 to R64). -/
structure LampIs (s : State) (p : PositionId) (x : LampId) (c : LampCode) : Prop where
  deny : ∀ due, (s.position p).deny.get x = some due → c = .deny
  emptyKey : (s.position p).deny.get x = none → ∀ k, x = keyLamp k → (s.entry p k).content = .empty → c = .off
  lineKey : (s.position p).deny.get x = none → ∀ k l r b u, x = keyLamp k →
    (s.entry p k).content = .line l r b u → LineLampIs (s.line l) p k c
  groupKey : (s.position p).deny.get x = none → ∀ k g, x = keyLamp k → (s.entry p k).content = .group g →
    GroupLampIs (s.group g) (∃ h, s.slot p h = some ⟨.group g, k⟩) p c
  channel : (s.position p).deny.get x = none → ∀ n, x = channelLamp n → ChannelLampIs s p n (s.channel p n) c

/-- At every position whose link is UP and whose image is not stale, each lamp of the layout has its shown code as its
image entry (R65, R68). -/
def State.lampsAgree (s : State) : Prop :=
  ∀ p, (s.position p).linkUp = true → (s.lamps.get p).stale = false →
    ∀ x : LampId, (x.val < (s.position p).layout.keyCount ∨ 64 ≤ x.val) → LampIs s p x ((s.lamps.get p).image.get x)

/-! ### Lamp queues and notice queues (R157, R179, R181) -/

/-- An outbound lamp queue holds at most one update for each lamp (R157). -/
def State.lampQueuesOk (s : State) : Prop := ∀ p, ((s.link p).lampQueue.map LampUpdate.lamp).Nodup

/-- A notice queue holds at most 32 notices, its setup is one that NOTICE SETUP can take, and its age timer runs exactly
while the queue is not empty and age-attention is clear (R177, R178, R179, R181). -/
structure NoticeQueue.ok (x : NoticeQueue) : Prop where
  atMost : x.queue.length ≤ Config.maxNotices
  threshold : x.threshold = 1 ∨ x.threshold = 4 ∨ x.threshold = 8 ∨ x.threshold = 16
  ageLimit : 10 ≤ x.ageLimit ∧ x.ageLimit ≤ 2550 ∧ x.ageLimit % 10 = 0
  ageTimer : x.ageTimer.isSome = (!x.queue.isEmpty && !x.ageAttention)

/-- Every notice queue is so. -/
def State.noticesOk (s : State) : Prop := ∀ c, (s.noticeQueue c).ok

/-! ### Ports (R162) -/

/-- A response slot is full exactly in READY, the read position stands within the frame, and a request is in flight while
the port is BUSY or the discard mark is on (R162, R169). -/
structure PortRecord.ok (x : PortRecord) : Prop where
  slot : x.slot.isSome = decide (x.state = .ready)
  readPosition : ∀ f, x.slot = some f → x.readPosition < f.length
  emptyPosition : x.slot = none → x.readPosition = 0
  inFlight : x.inFlight.isSome = (decide (x.state = .busy) || x.discard)
  busyKeeps : x.state = .busy → x.discard = false

/-- Every port record is so. -/
def State.portsOk (s : State) : Prop := ∀ c, (s.port c).ok

/-! ### Slot changes of a filled slot (R34, R39, R40) -/

/-- The line record that switch-away leaves of line `x` in a slot of `p` (R39): the one party (p, h), seated through `k`,
puts it on hold under HOLD and leaves it to GUARD under RELEASE; where other parties remain it leaves it to them under
either (R3, R9, R20, R21). -/
def State.switchedLine (s : State) (p : PositionId) (h : Handset) (k : Key) (x : LineId) : Line :=
  let ln := s.line x
  match ln.parties.filter (fun y => decide (y.position ≠ p ∨ y.path ≠ .handset h)), (s.position p).switchAway with
  | [], .hold =>
    { ln with
      state := .held, parties := [], holdOwner := some ⟨p, k⟩, privateHold := ln.privacy, privacy := false, rg := false
      burstCount := 0, unanswered := false
      timer := if s.params.holdRecall = 0 then none else some ⟨.hold, s.clock + s.params.holdRecall * 1000 * 8⟩ }
  | [], .release =>
    { ln with
      state := .guard, parties := [], privacy := false, sz := false, rg := false, unanswered := false, burstCount := 0
      timer := some ⟨.guard, s.clock + s.params.guardTime * 8⟩ }
  | y :: others, _ =>
    { ln with
      parties := y :: others
      privacy := ln.privacy && !(ln.principal.any fun z => decide (z.position = p ∧ z.path = .handset h)) }

/-- The floor of group `g` after a talk release of `p` from `src`, and its notices (R85, R86): a waiting entry is
withdrawn, a talker entry is removed and the head of the queue granted, and an entry from another source stays. -/
def State.releasedFloor (s : State) (g : GroupId) (p : PositionId) (src : Path) : Group × List NoticeBody :=
  let x := s.group g
  let left := x.talkers.filter fun y => decide (y.position ≠ p)
  match x.waiter? p, x.talker? p, x.waiting with
  | some w, _, q =>
    (if w.source = src then { x with waiting := q.filter fun y => decide (y.position ≠ p) } else x, [])
  | none, none, _ => (x, [])
  | none, some y, [] => (if y.source = src then { x with talkers := left } else x, [])
  | none, some y, w :: rest =>
    if y.source = src then
      ({ x with
        talkers := left ++ [⟨w.position, w.source,
          if x.floorLimit = 0 then none else some (s.clock + x.floorLimit * 1000 * 8)⟩]
        waiting := rest }, [.floorGrant g w.position w.source true])
    else (x, [])

/-- A content of slot `h` of `p` whose line, if it is one, is well-formed, has that handset as its party, and has no channel
waiting for it. -/
def State.disposable (s : State) (p : PositionId) (h : Handset) (old : Held) : Prop :=
  ∀ x, old.source = .line x → (s.line x).ok ∧ s.noneWaits x ∧
    ∃ y ∈ (s.line x).parties, y.position = p ∧ y.path = .handset h ∧ y.key = some old.key

/-- A pending replacement of entry (p, k), if there is one, waits for slot `h` alone: no other slot of `p` is filled through
`k` and no line is held through it (R133, R135). -/
def State.soleBinding (s : State) (p : PositionId) (h : Handset) (k : Key) : Prop :=
  (s.entry p k).pendingContent ≠ none →
    (∀ g x, g ≠ h → s.slot p g = some x → x.key ≠ k) ∧ ∀ l, (s.line l).holdOwner ≠ some ⟨p, k⟩

/-- The line or group of `old` is as switch-away leaves it (R39). -/
def SwitchedAway (p : PositionId) (h : Handset) (old : Held) (s t : State) : Prop :=
  (∀ x, old.source = .line x → t.line x = s.switchedLine p h old.key x) ∧
    ∀ g, old.source = .group g → t.group g = (s.releasedFloor g p (.handset h)).1

/-- The notices of the switch-away of `old` (R6, R86). -/
def State.switchedNotices (s : State) (p : PositionId) (h : Handset) (old : Held) : List NoticeBody :=
  match old.source with
  | .line x =>
    if (s.switchedLine p h old.key x).state = (s.line x).state then []
    else [.lineState x (s.line x).state (s.switchedLine p h old.key x).state]
  | .group g => (s.releasedFloor g p (.handset h)).2

/-- The replacement that the binding report of `old` installs (R134, R136): the pending one, if there is one, but none where
a hold by switch-away keeps the entry bound. -/
def State.freed (s : State) (p : PositionId) (h : Handset) (old : Held) : Option Content :=
  match old.source with
  | .line x =>
    if (s.switchedLine p h old.key x).holdOwner = some ⟨p, old.key⟩ then none else (s.entry p old.key).pendingContent
  | .group _ => (s.entry p old.key).pendingContent

/-- The notice of an installed replacement (R136). -/
def installNotices (p : PositionId) (k : Key) : Option Content → List NoticeBody
  | some c => [.directoryApplied p k c.kind]
  | none => []

/-- Slot `h` of `p` has changed from `old` to `new`: the slot, the term count and the old entry, where `installed` became
the content (R34, R136). -/
def SlotChanged (p : PositionId) (h : Handset) (old : Held) (new : Option Held) (installed : Option Content)
    (s t : State) : Prop :=
  t.slot p h = new ∧ OtherSlots p h s t ∧ t.termCount = s.termCount + slotCost new - slotCost (some old) ∧
    (∀ c, installed = some c → t.entry p old.key = ⟨c, none⟩) ∧
    (installed = none → t.entry p old.key = s.entry p old.key) ∧ OtherEntries p old.key s t

/-- Of the position records only that of `p` has changed, to `x`; an installed replacement may change its ring queue and
ringer besides (R52). -/
def PositionBecomes (p : PositionId) (x : Position) (installed : Option Content) (s t : State) : Prop :=
  OtherPositions p s t ∧ (installed = none → t.position p = x) ∧
    t.position p = { x with ringQueue := (t.position p).ringQueue, ringer := (t.position p).ringer }

/-- What a line key leaves when its IDLE line is taken in place of `old` (R12, R34, R39). -/
def OriginatedInPlace (by_ : JoinedBy) (p : PositionId) (h : Handset) (k : Key) (l : LineId) (old : Held) (s t : State) :
    Prop :=
  t.line l = s.originated by_ p h k l ∧ SwitchedAway p h old s t ∧
    (∀ l', l' ≠ l → old.source ≠ .line l' → t.line l' = s.line l') ∧
    (∀ g, old.source ≠ .group g → t.group g = s.group g) ∧
    SlotChanged p h old (some ⟨.line l, k⟩) (s.freed p h old) s t ∧
    PositionBecomes p
      ((s.position p).setHandset h { (s.position p).handset h with slot := some ⟨.line l, k⟩ }) (s.freed p h old) s t ∧
    Raised (.lineState l .idle (t.line l).state :: s.switchedNotices p h old ++
      installNotices p old.key (s.freed p h old)) s t

/-- What a release of group `g` from slot `h` of `p`, filled through `k`, leaves; the record of the handset is `x` (R34,
R41, R42, R47, R85, R86). -/
def GroupReleased (p : PositionId) (h : Handset) (g : GroupId) (k : Key) (x : HandsetRecord) (s t : State) : Prop :=
  t.group g = (s.releasedFloor g p (.handset h)).1 ∧ OtherGroups g s t ∧
    SlotChanged p h ⟨.group g, k⟩ none (s.entry p k).pendingContent s t ∧
    PositionBecomes p ((s.position p).setHandset h x) (s.entry p k).pendingContent s t ∧
    Raised ((s.releasedFloor g p (.handset h)).2 ++ installNotices p k (s.entry p k).pendingContent) s t

/-- What the talk request of a group key leaves, after the notices `bs`: it is ignored for a position that has an entry in
the group, and otherwise granted, queued by class, or refused with FLOOR_FULL, which shows DENY (R40, R53, R82, R83). -/
def FloorAsked (p : PositionId) (h : Handset) (k : Key) (g : GroupId) (cls : LineClass) (bs : List NoticeBody)
    (s t : State) : Prop :=
  ((s.group g).talker? p ≠ none ∨ (s.group g).waiter? p ≠ none → t.group g = s.group g ∧ Raised bs s t) ∧
    ((s.group g).talker? p = none → (s.group g).waiter? p = none →
      ((s.group g).talkers.length < (s.group g).talkerLimit → (s.group g).waiting = [] →
        t.group g = { s.group g with
          talkers := (s.group g).talkers ++ [⟨p, .handset h, if (s.group g).floorLimit = 0 then none
            else some (s.clock + (s.group g).floorLimit * 1000 * 8)⟩] } ∧
        Raised (bs ++ [.floorGrant g p (.handset h) false]) s t) ∧
      ((s.group g).talkerLimit ≤ (s.group g).talkers.length → (s.group g).waiting.length < 8 →
        (t.group g).talkers = (s.group g).talkers ∧
        (⟨p, .handset h, cls⟩ : Waiter) ∈ (t.group g).waiting ∧
        (t.group g).waiting.length = (s.group g).waiting.length + 1 ∧ Raised bs s t) ∧
      ((s.group g).talkerLimit ≤ (s.group g).talkers.length → 8 ≤ (s.group g).waiting.length →
        t.group g = s.group g ∧ t.shownCode p (keyLamp k) = .deny ∧
        Raised (bs ++ [.keyDenied p (some (keyLamp k)) .floorFull .turret]) s t))

end Sys2Proof.Machine
end

