-- ==== Sys2Proof/Certificates/Slice0/Obligations.lean ====
section
/-! DEFINITION. The statements for the provers: what each command of the part does, and what every step keeps. -/

open Sys2Proof Sys2Proof.Machine

/-! ### The machine -/

/-- The front command of the queue runs on the state with the queue's rest. -/
def Obligations.StepRunsFront : Prop :=
  ∀ (s : State) (c : Instr) (rest : List Instr), s.pending = c :: rest → step s = exec c { s with pending := rest }

/-- POWER ON RESET completes with every record at its power-on value and the quiet state by QUIET. Three clauses are the
model's choice: the commands that wait outside are kept (log entry 1), the levels of QUIET and MNT come with the command
(log entry 20), and `State.reset` is that state with both deasserted (log entry 5). -/
def Obligations.PowerOnValues : Prop :=
  ∀ (q m : Bool) (s : State), ∃ t, exec (.powerOnReset q m) s = .next t ∧
    t.pending = s.pending ∧
    (∀ l, t.line l = ⟨.idle, [], false, none, false, none, 0, false, 0, ⟨false, false, false⟩, false, false, .normal,
      .closed, .auto⟩) ∧
    (∀ p, (t.position p).linkUp = false ∧ (t.position p).layout = .keys64 ∧
      (∀ h, t.hook p h = .on ∧ t.slot p h = none) ∧ t.selected p = .h0 ∧ (t.position p).switchAway = .hold ∧
      (t.position p).answerOnLift = true ∧ (t.position p).handsetStep = 24 ∧ (t.position p).ringerStep = 20 ∧
      (t.position p).ringerTone = .hz500 ∧ (t.position p).ringQueue = [] ∧
      (t.position p).ringerCondition = .stopped ∧ (t.position p).ringer.silenced = false ∧
      (∀ j, (t.position p).knob j = ⟨false, false, 0⟩) ∧ ∀ x, (t.position p).deny.get x = none) ∧
    (∀ p, (t.lamps.get p).stale = true ∧ ∀ x, (t.lamps.get p).image.get x = .off) ∧
    (∀ g, t.group g = ⟨false, 1, 0, [], [], []⟩) ∧
    (∀ p n, t.channel p n = ⟨none, 0, .ls0, false, false, false, false, .none, none⟩) ∧
    (∀ p, (∀ n, (t.speaker p).plan.get n = ⟨none, 0, .ls0, false⟩) ∧ (t.speaker p).stagedDuck = 6 ∧
      (t.speaker p).stagedFloor = 1 ∧ (t.speaker p).duck = 6 ∧ (t.speaker p).knobFloor = 1 ∧
      (t.speaker p).step0 = 20 ∧ (t.speaker p).step1 = 20) ∧
    t.quiet = (if q then .on else .off) ∧ t.termCount = 32 ∧
    (∀ l, t.lineClip.get l = false) ∧ (∀ p o, (t.positionClip.get p).get o = false) ∧
    (∀ p k, t.entry p k = ⟨.empty, none⟩) ∧ (∀ p, t.guardOf p = .openGuard) ∧
    (∀ c, (t.stagingOf c).page = none ∧ ∀ i, (t.stagingOf c).slots.get i = none) ∧
    (∀ p, (t.link p).state = .down ∧ (t.link p).lossTimer = none ∧ (t.link p).layout = none ∧
      (t.link p).knobCount = 0 ∧ (t.link p).lampQueue = []) ∧
    (∀ l, (t.highway.get l).last = ⟨false, false, false⟩) ∧
    (∀ c, (t.port c).state = .idle ∧ (t.port c).slot = none ∧ (t.port c).readPosition = 0 ∧
      (t.port c).discard = false ∧ (t.port c).dropped = false ∧ (t.port c).malformed = false) ∧
    t.params = ⟨500, 1000, 4, 3, 60, 120, false⟩ ∧
    (∀ c, t.noticeQueue c = ⟨[], false, none, false, 0, 1, 100⟩ ∧ t.attn c = false) ∧
    (q = false → m = false → t = { State.reset with pending := s.pending })

/-- Every property that the invariants below keep holds right after reset. -/
def Obligations.ResetMeetsInvariants : Prop :=
  State.reset.termsAgree ∧ State.reset.linesOk ∧ State.reset.slotsAgree ∧ State.reset.attachAgree ∧
    State.reset.attachFit ∧ State.reset.pendingBound ∧ State.reset.ringsAgree ∧ State.reset.ringFieldsAgree ∧
    State.reset.groupsOk ∧ State.reset.knobsOk ∧ State.reset.lampsAgree ∧ State.reset.lampQueuesOk ∧ State.reset.noticesOk ∧
    State.reset.portsOk ∧ State.reset.offers = []

/-! ### What every step keeps -/

/-- Power-on reset leaves the term count at 32, and every step keeps it equal to what the configuration owes and within the
budget (R124). -/
def Obligations.StepKeepsTermCount : Prop :=
  (∀ q m : Bool, (State.powerOn q m).termCount = 32) ∧
    ∀ s t : State, s.termsAgree → step s = .next t → t.termsAgree

/-- Every line record keeps the parties, principal, hold owner, signals and timer that R2 to R5 allow its state. -/
def Obligations.StepKeepsLines : Prop :=
  ∀ s t : State, s.linesOk → step s = .next t → t.linesOk

/-- The handset slots and the handset parties of the lines agree (R33). -/
def Obligations.StepKeepsSlots : Prop :=
  ∀ s t : State, s.linesOk → s.slotsAgree → step s = .next t → t.slotsAgree

/-- The attach states and the speaker parties of the lines agree (R94). -/
def Obligations.StepKeepsAttachStates : Prop :=
  ∀ s t : State, s.linesOk → s.attachAgree → s.attachFit → step s = .next t → t.attachAgree ∧ t.attachFit

/-- A directory entry has a pending replacement only while it is bound (R135). -/
def Obligations.StepKeepsPendingBound : Prop :=
  ∀ s t : State, s.linesOk → s.pendingBound → step s = .next t → t.pendingBound

/-- The ring queues hold entries for exactly the lines that R50 gives, PRIORITY before NORMAL, and each entry has its line's
class and the key that R50 gives its kind. -/
def Obligations.StepKeepsRingQueues : Prop :=
  (∀ s t : State, s.linesOk → s.ringsAgree → step s = .next t → t.ringsAgree) ∧
  ∀ s t : State, s.linesOk → s.ringsAgree → s.ringFieldsAgree → step s = .next t → t.ringFieldsAgree

/-- The floor of every group keeps R74 and R75. -/
def Obligations.StepKeepsFloors : Prop :=
  ∀ s t : State, s.groupsOk → step s = .next t → t.groupsOk

/-- Loudspeaker steps stay between the knob floor and 27 and knob residues between -3 and +3 (R93, R108); at every position
whose link is UP and whose image is not stale, each lamp of the layout has as its image entry the code that the tables of
R61 to R63 give, or DENY under a deny display (R59 to R65); the lamp queues, notice queues and port records keep R157,
R162, R179 and R181, and no attach opportunity is left over between events. -/
def Obligations.StepKeepsRanges : Prop :=
  (∀ s t : State, s.knobsOk → step s = .next t → t.knobsOk) ∧
  (∀ s t : State, s.lampsAgree → step s = .next t → t.lampsAgree) ∧
  (∀ s t : State, s.lampQueuesOk → s.noticesOk → s.portsOk → s.offers = [] → step s = .next t →
      t.lampQueuesOk ∧ t.noticesOk ∧ t.portsOk ∧ t.offers = [])

/-! ### Requests: encoding, refusals and reads -/

/-- The frame of a request, whatever bytes follow it, is read back as that request with every argument (R164, R173). -/
def Obligations.RequestFramesReadBack : Prop :=
  ∀ (i : Instr) (n : Nat) (args : List Byte), requestBytes i = some (n, args) →
    catalogueArgs n = some args.length ∧
    (∀ (tag : Byte) (extra : List Byte),
      judgeTransfer (frameBytes tag n args ++ extra) = .request tag (byteOf n) args ∧ (byteOf n).toNat = n) ∧
    ∃ c tag mnt, requestCommand c tag mnt n args = some i

/-- A request with an argument outside its stated values is answered with BAD_ARG and changes nothing else, and so is an
injected key that the position's layout does not have (R36). Held in the model's own form: log entry 4; the level of MNT
comes with POSITION WIPE and is recorded: log entry 20. The BAD_ARG of a GROUP STATUS READ above 15 is the model's choice:
log entry 24. The answer to a NOTICE READ in flight is in NoticeRequests. -/
def Obligations.BadArgumentsRefused : Prop :=
  ∀ (c : Port) (s : State) (a b d e f g h : Byte) (w : Half),
    (160 ≤ a.toNat ∨ 2 ≤ b.toNat ∨ 2 ≤ d.toNat ∨ 2 ≤ e.toNat →
      exec (.lineConfigure c a b d e) s = .next (s.answer c .badArg [])) ∧
    (160 ≤ a.toNat ∨ 2 ≤ b.toNat → exec (.lineService c a b) s = .next (s.answer c .badArg [])) ∧
    (160 ≤ a.toNat → exec (.lineStatusRead c a) s = .next (s.answer c .badArg [])) ∧
    (160 ≤ a.toNat → exec (.lineClearMissed c a) s = .next (s.answer c .badArg [])) ∧
    (32 ≤ a.toNat ∨ 2 ≤ b.toNat ∨ (b.toNat = 0 ∧ 64 ≤ d.toNat) ∨ (b.toNat = 1 ∧ 9 ≤ d.toNat) ∨
        (b.toNat = 1 ∧ 7 ≤ d.toNat ∧ 8 ≤ e.toNat) ∨ 2 ≤ f.toNat →
      exec (.keyInject c a b d e f) s = .next (s.answer c .badArg [])) ∧
    (32 ≤ a.toNat ∨ 2 ≤ b.toNat ∨ 2 ≤ d.toNat ∨
        (w.toNat ≠ 400 ∧ w.toNat ≠ 500 ∧ w.toNat ≠ 800 ∧ w.toNat ≠ 1000) →
      exec (.positionConfigure c a b d e f w) s = .next (s.answer c .badArg [])) ∧
    (32 ≤ a.toNat → exec (.positionStatusRead c a) s = .next (s.answer c .badArg [])) ∧
    (16 ≤ a.toNat ∨ b.toNat = 0 ∨ 9 ≤ b.toNat → exec (.groupDefine c a b d) s = .next (s.answer c .badArg [])) ∧
    (16 ≤ a.toNat → exec (.groupUndefine c a) s = .next (s.answer c .badArg [])) ∧
    (16 ≤ a.toNat ∨ 32 ≤ b.toNat ∨ 2 ≤ d.toNat → exec (.memberAdd c a b d) s = .next (s.answer c .badArg [])) ∧
    (16 ≤ a.toNat ∨ 32 ≤ b.toNat → exec (.memberRemove c a b) s = .next (s.answer c .badArg [])) ∧
    (16 ≤ a.toNat → exec (.groupStatusRead c a) s = .next (s.answer c .badArg [])) ∧
    (32 ≤ a.toNat ∨ 8 ≤ b.toNat ∨ 3 ≤ d.toNat ∨ (d.toNat = 1 ∧ 160 ≤ e.toNat) ∨ (d.toNat = 2 ∧ 16 ≤ e.toNat) ∨
        2 ≤ g.toNat ∨ 2 ≤ h.toNat →
      exec (.planSet c a b d e f g h) s = .next (s.answer c .badArg [])) ∧
    (32 ≤ a.toNat → exec (.planPosition c a b d) s = .next (s.answer c .badArg [])) ∧
    (32 ≤ a.toNat → exec (.mixApply c a) s = .next (s.answer c .badArg [])) ∧
    (32 ≤ a.toNat → exec (.speakerStatusRead c a) s = .next (s.answer c .badArg [])) ∧
    (2 ≤ a.toNat ∨ (a.toNat = 0 ∧ 32 ≤ b.toNat) ∨ (a.toNat = 1 ∧ 160 ≤ b.toNat) →
      exec (.levelRead c a b) s = .next (s.answer c .badArg [])) ∧
    (128 ≤ a.toNat ∨ 16 ≤ b.toNat ∨ 3 ≤ d.toNat ∨ (d.toNat = 1 ∧ 160 ≤ e.toNat) ∨ (d.toNat = 2 ∧ 16 ≤ e.toNat) →
      exec (.pageLoad c a b d e f) s = .next (s.answer c .badArg [])) ∧
    (128 ≤ a.toNat → exec (.pageCommit c a) s = .next (s.answer c .badArg [])) ∧
    (32 ≤ a.toNat ∨ 4 ≤ b.toNat → exec (.guardSet c a b) s = .next (s.answer c .badArg [])) ∧
    (32 ≤ a.toNat ∨ 64 ≤ b.toNat → exec (.entryRead c a b) s = .next (s.answer c .badArg [])) ∧
    (7 ≤ a.toNat ∨ (a.toNat = 6 ∧ 2 ≤ w.toNat) →
      exec (.setParameter c a w) s = .next (s.answer c .badArg [])) ∧
    (64 ≤ a.toNat → exec (.noticeSetup c a b w) s = .next (s.answer c .badArg [])) ∧
    (9 ≤ a.toNat → (∀ f, (s.port c).inFlight = some f → f.number ≠ 29) →
      exec (.noticeRead c a) s = .next (s.answer c .badArg [])) ∧
    (32 ≤ a.toNat → ∀ mnt, exec (.positionWipe c a mnt) s = .next ({ s with mntPin := mnt }.answer c .badArg [])) ∧
    (∀ p : PositionId, (s.position p).layout.keyCount ≤ b.toNat →
      exec (.keyInject c (byteOf p.val) 0 b d e) s = .next (s.answer c .badArg []))

/-- The status reads return OK with their record and change nothing; ENTRY READ shows kinds, attributes and the guard under
every guard, and withholds every target, current and pending, from a port that does not own an OWNED_PRIVATE guard (R30,
R58, R81, R112, R147, R171). Held in the model's own form: log entry 4; the layout of the data where R172 leaves it open
is the model's choice: log entry 10. -/
def Obligations.ReadsChangeNothing : Prop :=
  ∀ (c : Port) (s : State),
    (∀ l : LineId, ∃ t rest, exec (.lineStatusRead c (byteOf l.val)) s = .next t ∧
      Answered c .ok (byteOf (s.line l).state.code :: byteOf (s.line l).parties.length :: rest) s t ∧
      SameExcept [.ports] s t) ∧
    (∀ p : PositionId, ∃ t rest, exec (.positionStatusRead c (byteOf p.val)) s = .next t ∧
      Answered c .ok
        ((if (s.position p).linkUp then 0 else 1) :: byteOf (s.position p).layout.keyCount :: rest) s t ∧
      SameExcept [.ports] s t) ∧
    (∀ g : GroupId, ∃ t rest, exec (.groupStatusRead c (byteOf g.val)) s = .next t ∧
      Answered c .ok (flagByte (s.group g).defined :: byteOf (s.group g).talkerLimit ::
        byteOf (s.group g).floorLimit :: byteOf (s.group g).members.length :: rest) s t ∧
      SameExcept [.ports] s t) ∧
    (∀ p : PositionId, ∃ t, exec (.speakerStatusRead c (byteOf p.val)) s = .next t ∧
      Answered c .ok (s.speakerData p) s t ∧ (s.speakerData p).length = 136 ∧ SameExcept [.ports] s t) ∧
    (∀ (p : PositionId) (k : Key) (hidden : Bool),
      (hidden = true ↔ ∃ o : Port, s.guardOf p = .ownedPrivate o ∧ o ≠ c) →
      ∃ t current pending code owner, exec (.entryRead c (byteOf p.val) (byteOf k.val)) s = .next t ∧
        SameExcept [.ports] s t ∧ Answered c .ok (current ++ [flagByte (s.bound p k),
          flagByte (s.entry p k).pendingContent.isSome] ++ pending ++ [code, owner]) s t ∧
        ContentShown hidden (s.entry p k).content current ∧
        ((s.entry p k).pendingContent = none → pending = []) ∧
        (∀ x, (s.entry p k).pendingContent = some x → ContentShown hidden x pending) ∧
        (s.guardOf p = .openGuard → code = 0 ∧ owner = 255) ∧
        (∀ o : Port, s.guardOf p = .owned o → code = 1 ∧ owner = byteOf o.val) ∧
        (∀ o : Port, s.guardOf p = .ownedPrivate o → code = 2 ∧ owner = byteOf o.val) ∧
        (s.guardOf p = .sealed → code = 3 ∧ owner = 255)) ∧
    ∃ t, exec (.parameterRead c) s = .next t ∧ SameExcept [.ports] s t ∧
      Answered c .ok
        (halfBytes s.params.guardTime ++ halfBytes s.params.burstTime ++ halfBytes s.params.answerWait ++
          halfBytes s.params.burstLimit ++ halfBytes s.params.holdRecall ++ halfBytes s.params.recallLimit ++
          halfBytes (if s.params.quietAutoresume then 1 else 0)) s t

/-! ### Private lines -/

/-- LINE CONFIGURE writes its three values in any state and returns OK (R29); without a change from CLOSED to OPEN the
rest of the line stays, and without a change of class the ring queues stay. A change of class refiles the entry of a
RINGING or RECALL line at every position as the newest of its new class, with its key and kind, and moves no other entry
(R51). Held in the model's own form: log entry 4. -/
def Obligations.LineConfigureWrites : Prop :=
  ∀ (c : Port) (l : LineId) (k : LineClass) (b : BargePolicy) (r : Ringdown) (s : State), s.offers = [] →
    ∃ t, exec (.lineConfigure c (byteOf l.val) (byteOf k.code) (byteOf b.code) (byteOf r.code)) s = .next t ∧
      Answered c .ok [] s t ∧
      ((t.line l).cls = k ∧ (t.line l).barge = b ∧ (t.line l).ringdown = r) ∧ OtherLines l s t ∧
      SameExcept [.lines, .positions, .notices, .speakers, .links, .lamps, .ports] s t ∧
      OnlyRings s t ∧ OnlyLampQueues s t ∧
      ((s.line l).barge = .closed → b = .closed →
        t.line l = { s.line l with cls := k, ringdown := r } ∧ Raised [] s t ∧ t.speakers = s.speakers) ∧
      ((s.line l).barge = .openPolicy →
        t.line l = { s.line l with cls := k, barge := b, ringdown := r } ∧ Raised [] s t ∧
          t.speakers = s.speakers ∧ ((s.line l).cls = k → t.positions = s.positions)) ∧
      ((s.line l).barge = .openPolicy ∨ b = .closed ∨ s.noneWaits l → (s.line l).cls ≠ k →
        (s.line l).state ≠ .ringing → (s.line l).state ≠ .recall → t.positions = s.positions) ∧
      ((s.line l).barge = .openPolicy ∨ b = .closed ∨ s.noneWaits l → (s.line l).cls ≠ k →
        ((s.line l).state = .ringing ∨ (s.line l).state = .recall) → s.ringsAgree →
        ∀ p, ((∀ e ∈ (s.position p).ringQueue, e.line ≠ l) → t.position p = s.position p) ∧
          ∀ e ∈ (s.position p).ringQueue, e.line = l →
            (k = .normal → (t.position p).ringQueue =
              (s.position p).ringQueue.filter (fun y => decide (y.line ≠ l)) ++ [{ e with cls := .normal }]) ∧
            (k = .priority → (t.position p).ringQueue =
              (s.position p).ringQueue.filter (fun y => decide (y.line ≠ l) && decide (y.cls = .priority)) ++
                { e with cls := .priority } ::
                  (s.position p).ringQueue.filter fun y => decide (y.line ≠ l) && decide (y.cls = .normal)))

/-- LINE SERVICE IN returns an OUT_OF_SERVICE line to FAULT or to GUARD by its recorded LF; any other line gives
NO_CHANGE (R28, R9). Held in the model's own form: log entries 3, 4. -/
def Obligations.LineServiceIn : Prop :=
  ∀ (c : Port) (l : LineId) (s : State), s.offers = [] →
    ((s.line l).state ≠ .outOfService →
      ∃ t, exec (.lineService c (byteOf l.val) 1) s = .next t ∧ Answered c .noChange [] s t ∧
        SameExcept [.ports, .links, .lamps] s t ∧ OnlyLampQueues s t) ∧
    ((s.line l).state = .outOfService → (s.line l).privacy = false →
      ∃ t, exec (.lineService c (byteOf l.val) 1) s = .next t ∧ Answered c .ok [] s t ∧
        t.line l =
          (if (s.line l).signals.lf then { s.line l with state := .fault }
          else { s.line l with
            state := .guard, sz := false, rg := false, unanswered := false, burstCount := 0, privacy := false
            timer := some ⟨.guard, s.clock + s.params.guardTime * 8⟩ }) ∧
        OtherLines l s t ∧ Raised [.lineState l .outOfService (t.line l).state] s t ∧
        SameExcept [.lines, .notices, .links, .lamps, .ports] s t ∧ OnlyLampQueues s t)

/-- RD on takes an IDLE line that no channel waits for to RINGING with its notices, and rings every position with a
ring-enabled key naming it (R24, R25, R51). -/
def Obligations.RingInRings : Prop :=
  ∀ (l : LineId) (now : Signals) (s : State), s.offers = [] → (s.line l).state = .idle →
    (s.line l).privacy = false → (s.line l).signals.rd = false → now.rd = true → now.lf = false → s.noneWaits l →
    ∃ t, exec (.signalChange l now) s = .next t ∧
      t.line l = { s.line l with state := .ringing, signals := now } ∧ OtherLines l s t ∧
      Raised [.lineState l .idle .ringing, .lineRing l (s.line l).cls] s t ∧
      (∀ p k, lowestRingKey (s.directory.get p) l = some k →
        (⟨l, k, .ring, (s.line l).cls⟩ : RingEntry) ∈ (t.position p).ringQueue) ∧
      (∀ p, lowestRingKey (s.directory.get p) l = none → t.position p = s.position p) ∧
      OnlyRings s t ∧ OnlyLampQueues s t ∧
      SameExcept [.lines, .positions, .notices, .highway, .links, .lamps] s t

/-- What the far end does to a line beyond ringing it: RD off in RINGING is a missed call, FL on or RD on answers a
CALLING line, in ACTIVE FL off raises FAR_CLEAR and a change of RD FAR_SIGNAL, and LF off in FAULT enters GUARD (R19,
R24, R25, R26). Held in the model's own form: log entry 3. -/
def Obligations.FarEndSignals : Prop :=
  ∀ (l : LineId) (now : Signals) (s : State), s.offers = [] → (s.line l).ok →
    (∀ n, (s.line l).state = .ringing → (s.line l).signals.rd = true → now.rd = false → now.lf = false →
      n = min 15 ((s.line l).missed + 1) → s.noneWaits l →
      ∃ t, exec (.signalChange l now) s = .next t ∧
        t.line l = { s.line l with state := .idle, missed := n, signals := now } ∧ OtherLines l s t ∧
        Raised [.lineState l .ringing .idle, .lineMissed l n] s t ∧ (∀ q, ¬(t.position q).rings .ring l) ∧
        OnlyRings s t ∧ OnlyLampQueues s t ∧
        SameExcept [.lines, .positions, .notices, .highway, .links, .lamps] s t) ∧
    ((s.line l).state = .calling → now.lf = false →
      (((s.line l).signals.fl = false ∧ now.fl = true ∧ now.rd = (s.line l).signals.rd) ∨
        (now.fl = (s.line l).signals.fl ∧ (s.line l).signals.rd = false ∧ now.rd = true)) →
      ∃ t, exec (.signalChange l now) s = .next t ∧
        t.line l = { s.line l with
          state := .active, rg := false, timer := none, burstCount := 0, unanswered := false, signals := now } ∧
        OtherLines l s t ∧ Raised [.lineState l .calling .active] s t ∧ OnlyLampQueues s t ∧
        SameExcept [.lines, .notices, .highway, .links, .lamps] s t) ∧
    ((s.line l).state = .active → now.lf = false →
      ∃ t, exec (.signalChange l now) s = .next t ∧ t.line l = { s.line l with signals := now } ∧
        OtherLines l s t ∧ OnlyLampQueues s t ∧ SameExcept [.lines, .notices, .highway, .links, .lamps] s t ∧
        Raised ((if (s.line l).signals.fl = true ∧ now.fl = false then [.farClear l] else []) ++
          if (s.line l).signals.rd = now.rd then [] else [.farSignal l now.rd]) s t) ∧
    ((s.line l).state = .fault → (s.line l).signals.lf = true → now.lf = false →
      ∃ t, exec (.signalChange l now) s = .next t ∧
        t.line l = { s.line l with
          state := .guard, sz := false, rg := false, unanswered := false, burstCount := 0, privacy := false
          signals := now, timer := some ⟨.guard, s.clock + s.params.guardTime * 8⟩ } ∧
        OtherLines l s t ∧ Raised [.lineState l .fault .guard] s t ∧ OnlyLampQueues s t ∧
        SameExcept [.lines, .notices, .highway, .links, .lamps] s t)

/-- LF on takes every live line to FAULT, and LINE SERVICE OUT takes every line to OUT_OF_SERVICE, with the line
clearance: the parties, the hold owner, privacy and the timer go, the parties' slots empty and their channels wait;
OUT of a line already out gives NO_CHANGE (R24, R27, R28). Held in the model's own form: log entry 4. -/
def Obligations.LineCleared : Prop :=
  (∀ (l : LineId) (now : Signals) (s : State), s.offers = [] → (s.line l).state ≠ .fault →
      (s.line l).state ≠ .outOfService → (s.line l).signals.lf = false → now.lf = true →
      ∃ t, exec (.signalChange l now) s = .next t ∧
        t.line l = { s.line l with
          state := .fault, parties := [], privacy := false, holdOwner := none, privateHold := false, timer := none
          burstCount := 0, unanswered := false, sz := false, rg := false, signals := now } ∧
        OtherLines l s t ∧
        (∀ x ∈ (s.line l).parties, ∀ h, x.path = .handset h → t.slot x.position h = none) ∧
        (∀ x ∈ (s.line l).parties, ∀ n, x.path = .channel n →
          (t.channel x.position n).attach = .waiting ∧ (t.channel x.position n).waitReason = some .lineFault ∧
            (t.channel x.position n).ptt = false) ∧
        SameExcept [.lines, .positions, .termCount, .directory, .notices, .speakers, .highway, .links, .lamps] s t) ∧
  (∀ (c : Port) (l : LineId) (s : State), s.offers = [] →
      ((s.line l).state = .outOfService →
        ∃ t, exec (.lineService c (byteOf l.val) 0) s = .next t ∧ Answered c .noChange [] s t ∧
          SameExcept [.ports, .links, .lamps] s t ∧ OnlyLampQueues s t) ∧
      ((s.line l).state ≠ .outOfService →
        ∃ t, exec (.lineService c (byteOf l.val) 0) s = .next t ∧ Answered c .ok [] s t ∧
          t.line l = { s.line l with
            state := .outOfService, parties := [], privacy := false, holdOwner := none, privateHold := false, timer := none
            burstCount := 0, unanswered := false, sz := false, rg := false } ∧
          OtherLines l s t ∧
          (∀ x ∈ (s.line l).parties, ∀ h, x.path = .handset h → t.slot x.position h = none) ∧
          (∀ x ∈ (s.line l).parties, ∀ n, x.path = .channel n →
            (t.channel x.position n).attach = .waiting ∧
              (t.channel x.position n).waitReason = some .lineOutOfService ∧
              (t.channel x.position n).ptt = false) ∧
          (∀ p h, (∀ x ∈ (s.line l).parties, ¬(x.position = p ∧ x.path = .handset h)) → t.slot p h = s.slot p h) ∧
          SameExcept [.lines, .positions, .termCount, .directory, .notices, .speakers, .links, .lamps, .ports] s t))

/-- The HOLD expiry takes a HELD line to RECALL, which rings at its kept owner and raises LINE_RECALL; a hold is
abandoned by FL off and by the RECALL expiry: the owner is cleared and the line enters GUARD (R22, R23). Held in the
model's own form: log entry 3. -/
def Obligations.HoldsEnd : Prop :=
  (∀ (l : LineId) (o : KeyRef) (due : Nat) (s : State), s.offers = [] → (s.line l).state = .held →
      (s.line l).timer = some ⟨.hold, due⟩ → (s.line l).holdOwner = some o →
      ∃ t, exec (.holdExpiry l) s = .next t ∧ t.clock = max s.clock due ∧
        t.line l = { s.line l with
          state := .recall
          timer := if s.params.recallLimit = 0 then none
            else some ⟨.recall, t.clock + s.params.recallLimit * 1000 * 8⟩ } ∧
        OtherLines l s t ∧
        (⟨l, o.key, .recall, (s.line l).cls⟩ : RingEntry) ∈ (t.position o.position).ringQueue ∧
        OtherPositions o.position s t ∧ OnlyRings s t ∧
        Raised [.lineState l .held .recall, .lineRecall l (some o)] s t ∧
        SameExcept [.clock, .lines, .positions, .notices, .links, .lamps] s t) ∧
  (∀ (l : LineId) (s : State), s.offers = [] → (s.line l).ok →
      (∀ now : Signals, ((s.line l).state = .held ∨ (s.line l).state = .recall) →
        (s.line l).signals.fl = true → now.fl = false → now.lf = (s.line l).signals.lf →
        ∃ t, exec (.signalChange l now) s = .next t ∧
          t.line l = { s.line l with
            state := .guard, holdOwner := none, privateHold := false, sz := false, rg := false, unanswered := false
            burstCount := 0, signals := now, timer := some ⟨.guard, s.clock + s.params.guardTime * 8⟩ } ∧
          OtherLines l s t ∧ OnlyRings s t ∧
          SameExcept [.lines, .positions, .directory, .notices, .highway, .links, .lamps] s t) ∧
      (∀ due, (s.line l).state = .recall → (s.line l).timer = some ⟨.recall, due⟩ →
        ∃ t, exec (.recallExpiry l) s = .next t ∧ t.clock = max s.clock due ∧
          t.line l = { s.line l with
            state := .guard, holdOwner := none, privateHold := false, sz := false, rg := false, unanswered := false
            burstCount := 0, timer := some ⟨.guard, t.clock + s.params.guardTime * 8⟩ } ∧
          OtherLines l s t ∧ OnlyRings s t ∧
          SameExcept [.clock, .lines, .positions, .directory, .notices, .links, .lamps] s t))

/-- The bursts of a CALLING line and the single burst of an ACTIVE one; the GUARD expiry takes the line to RINGING or
IDLE by RD, and on a line that no channel waits for nothing else follows but the rings and the notices (R10, R17,
R18). Held in the model's own form: log entries 3, 4. -/
def Obligations.LineTimersExpire : Prop :=
  (∀ (l : LineId) (due : Nat) (s : State), s.offers = [] →
      ((s.line l).state = .calling → (s.line l).timer = some ⟨.burst, due⟩ →
        ∃ t, exec (.burstExpiry l) s = .next t ∧ t.clock = max s.clock due ∧
          t.line l = { s.line l with
            rg := false, timer := some ⟨.answerWait, t.clock + s.params.answerWait * 1000 * 8⟩ } ∧
          OtherLines l s t ∧ SameExcept [.clock, .lines, .links, .lamps] s t) ∧
      ((s.line l).state = .active → (s.line l).timer = some ⟨.burst, due⟩ →
        ∃ t, exec (.burstExpiry l) s = .next t ∧ t.clock = max s.clock due ∧
          t.line l = { s.line l with rg := false, timer := none } ∧
          OtherLines l s t ∧ SameExcept [.clock, .lines, .links, .lamps] s t) ∧
      ((s.line l).state = .calling → (s.line l).timer = some ⟨.answerWait, due⟩ →
        (s.line l).burstCount < s.params.burstLimit →
        ∃ t, exec (.answerWaitExpiry l) s = .next t ∧ t.clock = max s.clock due ∧
          t.line l = { s.line l with
            rg := true, burstCount := (s.line l).burstCount + 1
            timer := some ⟨.burst, t.clock + s.params.burstTime * 8⟩ } ∧
          OtherLines l s t ∧ SameExcept [.clock, .lines, .links, .lamps] s t) ∧
      ((s.line l).state = .calling → (s.line l).timer = some ⟨.answerWait, due⟩ →
        s.params.burstLimit ≤ (s.line l).burstCount →
        ∃ t, exec (.answerWaitExpiry l) s = .next t ∧ t.clock = max s.clock due ∧
          t.line l = { s.line l with timer := none, unanswered := true } ∧
          OtherLines l s t ∧ Raised [.lineUnanswered l (s.line l).burstCount] s t ∧
          SameExcept [.clock, .lines, .notices, .links, .lamps] s t)) ∧
  (∀ (l : LineId) (due : Nat) (s : State), s.offers = [] → (s.line l).state = .guard →
      (s.line l).timer = some ⟨.guard, due⟩ → s.noneWaits l →
      ∃ t, exec (.guardExpiry l) s = .next t ∧ t.clock = max s.clock due ∧ OtherLines l s t ∧ OnlyRings s t ∧
        ((s.line l).signals.rd = true →
          t.line l = { s.line l with state := .ringing, timer := none } ∧
          Raised [.lineState l .guard .ringing, .lineRing l (s.line l).cls] s t ∧
          ∀ p k, lowestRingKey (s.directory.get p) l = some k →
            (⟨l, k, .ring, (s.line l).cls⟩ : RingEntry) ∈ (t.position p).ringQueue) ∧
        ((s.line l).signals.rd = false →
          t.line l = { s.line l with state := .idle, timer := none } ∧
          Raised [.lineState l .guard .idle] s t ∧ t.positions = s.positions) ∧
        SameExcept [.clock, .lines, .positions, .notices, .links, .lamps] s t)

/-! ### Dealer positions -/

/-- A line key, pressed or injected, takes an IDLE line into the slot of the selected handset. Into a filled slot it does so
with switch-away: the one party of the old line puts it on hold under HOLD and leaves it under RELEASE, a party with others
leaves it to them, and a group is released; the term count changes by the difference, and the binding report installs a
replacement that waited for the slot (R12, R34, R36, R39, R134). Held in the model's own form: log entries 3, 4; the
order of the notices of a slot change: log entry 9. -/
def Obligations.LineKeyOriginates : Prop :=
  (∀ (p : PositionId) (k : Key) (l : LineId) (r b u : Bool) (s : State), s.offers = [] →
    (s.position p).linkUp = true → k.val < (s.position p).layout.keyCount →
    (s.entry p k).content = .line l r b u → s.slot p (s.selected p) = none → (s.line l).state = .idle →
    (s.line l).ok → s.termCount + 3 ≤ 768 →
    (∃ t, exec (.keyDown p k) s = .next t ∧ Originated .key p (s.selected p) k l s t ∧ OnlyDelivered p s t ∧
      SameExcept [.lines, .positions, .termCount, .notices, .links, .lamps] s t) ∧
    ∀ (c : Port) (ch : Byte),
      ∃ t, exec (.keyInject c (byteOf p.val) 0 (byteOf k.val) ch 1) s = .next t ∧
        Originated .inject p (s.selected p) k l s t ∧ Answered c .ok [] s t ∧ OnlyLampQueues s t ∧
        SameExcept [.lines, .positions, .termCount, .notices, .links, .lamps, .ports] s t) ∧
  ∀ (p : PositionId) (h : Handset) (k : Key) (l : LineId) (r b u : Bool) (old : Held) (s : State), s.offers = [] →
    (s.position p).linkUp = true → k.val < (s.position p).layout.keyCount → s.selected p = h →
    (s.entry p k).content = .line l r b u → s.slot p h = some old → old.source ≠ .line l →
    (s.line l).state = .idle → (s.line l).ok → (slotCost (some old) = 3 ∨ s.termCount + 1 ≤ 768) →
    s.disposable p h old → s.soleBinding p h old.key →
    ((s.entry p old.key).pendingContent ≠ none → old.key ≠ k) →
    (∃ t, exec (.keyDown p k) s = .next t ∧ OriginatedInPlace .key p h k l old s t ∧ OnlyDelivered p s t ∧
      SameExcept [.lines, .groups, .positions, .termCount, .directory, .notices, .links, .lamps] s t) ∧
    ∀ (c : Port) (ch : Byte),
      ∃ t, exec (.keyInject c (byteOf p.val) 0 (byteOf k.val) ch 1) s = .next t ∧
        OriginatedInPlace .inject p h k l old s t ∧ Answered c .ok [] s t ∧ OnlyLampQueues s t ∧
        SameExcept [.lines, .groups, .positions, .termCount, .directory, .notices, .links, .lamps, .ports] s t

/-- A line key joins an OPEN call through a barge-allowed entry, picks up a held or recalling line where its
conditions let it, and re-rings the line that the selected handset already holds (R14, R15, R18, R39). Held in the
model's own form: log entries 3, 4. -/
def Obligations.LineKeyJoins : Prop :=
  ∀ (p : PositionId) (h : Handset) (k : Key) (l : LineId) (r b u : Bool) (x : Party) (s : State), s.offers = [] →
    (s.position p).linkUp = true → k.val < (s.position p).layout.keyCount → s.selected p = h →
    (s.entry p k).content = .line l r b u → (s.line l).ok →
    x = ⟨p, .handset h, some k, true, decide (s.hook p h = .off), .key⟩ →
    (s.slot p h = none → s.termCount + 3 ≤ 768 → ((s.line l).state = .calling ∨ (s.line l).state = .active) →
      (s.line l).party? p (.handset h) = none → (s.line l).barge = .openPolicy → (s.line l).privacy = false →
      b = true → (s.line l).parties.length < 8 →
      ∃ t, exec (.keyDown p k) s = .next t ∧
        t.line l = { s.line l with parties := (s.line l).parties ++ [x] } ∧ OtherLines l s t ∧
        t.slot p h = some ⟨.line l, k⟩ ∧ OtherSlots p h s t ∧ OtherPositions p s t ∧
        t.termCount = s.termCount + 3 ∧ Raised [] s t ∧ OnlyDelivered p s t ∧
        SameExcept [.lines, .positions, .termCount, .links, .lamps] s t) ∧
    (∀ o : KeyRef, s.slot p h = none → s.termCount + 3 ≤ 768 →
      ((s.line l).state = .held ∨ (s.line l).state = .recall) → (s.line l).holdOwner = some o →
      (o.position = p ∨ ((s.line l).privateHold = false ∧ u = true)) →
      (s.entry o.position o.key).pendingContent = none → s.noneWaits l →
      ∃ t, exec (.keyDown p k) s = .next t ∧
        t.line l = { s.line l with
          state := .active, parties := [x], holdOwner := none, privateHold := false, timer := none } ∧
        OtherLines l s t ∧ t.slot p h = some ⟨.line l, k⟩ ∧ OtherSlots p h s t ∧
        ((s.line l).state = .recall → ∀ q, ¬(t.position q).rings .recall l) ∧
        t.termCount = s.termCount + 3 ∧
        Raised [.lineState l (s.line l).state .active] s t ∧ OnlyDelivered p s t ∧
        SameExcept [.lines, .positions, .termCount, .notices, .links, .lamps] s t) ∧
    (∀ (k' : Key) (y : Party), s.slot p h = some ⟨.line l, k'⟩ → (s.line l).party? p (.handset h) = some y →
      ∃ t, exec (.keyDown p k) s = .next t ∧
        ((s.line l).state = .calling → t.line l = { s.line l with
          burstCount := 1, rg := true, unanswered := false
          timer := some ⟨.burst, s.clock + s.params.burstTime * 8⟩ }) ∧
        ((s.line l).state = .active → (s.line l).ringdown = .auto → t.line l = { s.line l with
          rg := true, timer := some ⟨.burst, s.clock + s.params.burstTime * 8⟩ }) ∧
        ((s.line l).state = .active → (s.line l).ringdown = .none → t.line l = s.line l) ∧
        OtherLines l s t ∧ OnlyDelivered p s t ∧ SameExcept [.lines, .links, .lamps] s t)

/-- A group key of a member takes a defined group into the slot of the selected handset and asks for the floor: ignored for
a position that has an entry, granted, queued, or FLOOR_FULL, which leaves the slot filled and shows DENY. In a filled slot
switch-away disposes of the old content first, as for a line key; a key naming the group that the slot holds does nothing
(R34, R39, R40, R53, R82, R83, R134). Held in the model's own form: log entries 3, 4. That the binding report comes before
the talk request is the model's choice: log entry 22. -/
def Obligations.GroupKeyTaken : Prop :=
  ∀ (p : PositionId) (h : Handset) (k : Key) (g : GroupId) (m : Member) (s : State), s.offers = [] →
    (s.position p).linkUp = true → k.val < (s.position p).layout.keyCount → s.selected p = h →
    (s.entry p k).content = .group g →
    (s.slot p h = none → s.termCount + 2 ≤ 768 → (s.group g).defined = true → (s.group g).member? p = some m →
      ∃ t, exec (.keyDown p k) s = .next t ∧ t.slot p h = some ⟨.group g, k⟩ ∧ OtherSlots p h s t ∧
        t.termCount = s.termCount + 2 ∧ OtherGroups g s t ∧ OtherPositions p s t ∧ OnlyDelivered p s t ∧
        FloorAsked p h k g m.cls [] s t ∧ SameExcept [.groups, .positions, .termCount, .notices, .links, .lamps] s t) ∧
    (∀ old : Held, s.slot p h = some old → old.source ≠ .group g → (s.group g).defined = true →
      (s.group g).member? p = some m → s.disposable p h old → s.soleBinding p h old.key →
      ((s.entry p old.key).pendingContent ≠ none → old.key ≠ k) →
      ∃ t, exec (.keyDown p k) s = .next t ∧ SwitchedAway p h old s t ∧
        (∀ l, old.source ≠ .line l → t.line l = s.line l) ∧
        (∀ g', g' ≠ g → old.source ≠ .group g' → t.group g' = s.group g') ∧
        SlotChanged p h old (some ⟨.group g, k⟩) (s.freed p h old) s t ∧ OtherPositions p s t ∧ OnlyDelivered p s t ∧
        FloorAsked p h k g m.cls (s.switchedNotices p h old ++ installNotices p old.key (s.freed p h old)) s t ∧
        SameExcept [.lines, .groups, .positions, .termCount, .directory, .notices, .links, .lamps] s t) ∧
    (∀ k', s.slot p h = some ⟨.group g, k'⟩ →
      ∃ t, exec (.keyDown p k) s = .next t ∧ OnlyDelivered p s t ∧ SameExcept [.links, .lamps] s t)

/-- An EMPTY key is denied with EMPTY_KEY and a key that the layout does not show is ignored. A line key is denied with
MIX_FULL where the term budget refuses its slot change, and otherwise with the refusal of its line: by its state, by the
barge conditions of a CALLING or ACTIVE line, by the pickup conditions of a HELD or RECALL line. A group key is denied
with NOT_DEFINED, NOT_MEMBER or MIX_FULL. Each denial raises KEY_DENIED, shows DENY on the key for 1 s, and changes
neither line nor slot (R11, R14, R15, R34, R35, R37, R39, R40, R53). Held in the model's own form: log entries 3, 4. -/
def Obligations.KeysDenied : Prop :=
  (∀ (p : PositionId) (k : Key) (s : State), s.offers = [] → (s.position p).linkUp = true →
      (k.val < (s.position p).layout.keyCount → (s.entry p k).content = .empty →
        ∃ t, exec (.keyDown p k) s = .next t ∧ Denied p (keyLamp k) .emptyKey s t ∧
          t.shownCode p (keyLamp k) = .deny ∧ OnlyDelivered p s t ∧
          SameExcept [.positions, .notices, .links, .lamps] s t) ∧
      ((s.position p).layout.keyCount ≤ k.val →
        ∃ t, exec (.keyDown p k) s = .next t ∧ OnlyDelivered p s t ∧ SameExcept [.links, .lamps] s t)) ∧
  (∀ (p : PositionId) (k : Key) (l : LineId) (r b u : Bool) (s : State), s.offers = [] →
      (s.position p).linkUp = true → k.val < (s.position p).layout.keyCount →
      (s.entry p k).content = .line l r b u →
      (∀ x, s.slot p (s.selected p) = some x → x.source ≠ .line l) →
      ∀ reason : ResultCode,
        (768 < s.termCount + (3 - slotCost (s.slot p (s.selected p))) ∧ slotCost (s.slot p (s.selected p)) < 3 ∧
          reason = .mixFull) ∨
        (s.termCount + 3 ≤ 768 ∧
          (((s.line l).state = .guard ∧ reason = .lineGuard) ∨ ((s.line l).state = .fault ∧ reason = .lineFault) ∨
            ((s.line l).state = .outOfService ∧ reason = .lineOutOfService) ∨
            (((s.line l).state = .calling ∨ (s.line l).state = .active) ∧
              (s.line l).party? p (.handset (s.selected p)) = none ∧
              (((s.line l).barge = .closed ∧ reason = .deniedClosed) ∨
                ((s.line l).barge = .openPolicy ∧ (s.line l).privacy = true ∧ reason = .deniedPrivate) ∨
                ((s.line l).barge = .openPolicy ∧ (s.line l).privacy = false ∧ b = false ∧ reason = .noBarge) ∨
                ((s.line l).barge = .openPolicy ∧ (s.line l).privacy = false ∧ b = true ∧
                  8 ≤ (s.line l).parties.length ∧ reason = .lineFull))) ∨
            (((s.line l).state = .held ∨ (s.line l).state = .recall) ∧
              (∃ o : KeyRef, (s.line l).holdOwner = some o ∧ o.position ≠ p) ∧
              (((s.line l).privateHold = true ∧ reason = .heldPrivate) ∨
                ((s.line l).privateHold = false ∧ u = false ∧ reason = .noPickup))))) →
        ∃ t, exec (.keyDown p k) s = .next t ∧ Denied p (keyLamp k) reason s t ∧
          t.shownCode p (keyLamp k) = .deny ∧ OnlyDelivered p s t ∧
          SameExcept [.positions, .notices, .links, .lamps] s t) ∧
  (∀ (p : PositionId) (k : Key) (g : GroupId) (s : State), s.offers = [] →
      (s.position p).linkUp = true → k.val < (s.position p).layout.keyCount → (s.entry p k).content = .group g →
      (∀ x, s.slot p (s.selected p) = some x → x.source ≠ .group g) →
      ∀ reason : ResultCode,
        ((s.group g).defined = false ∧ reason = .notDefined) ∨
        ((s.group g).defined = true ∧ (s.group g).member? p = none ∧ reason = .notMember) ∨
        ((s.group g).defined = true ∧ (s.group g).member? p ≠ none ∧ s.slot p (s.selected p) = none ∧
          768 < s.termCount + 2 ∧ reason = .mixFull) →
        ∃ t, exec (.keyDown p k) s = .next t ∧ Denied p (keyLamp k) reason s t ∧
          t.shownCode p (keyLamp k) = .deny ∧ OnlyDelivered p s t ∧
          SameExcept [.positions, .notices, .links, .lamps] s t)

/-- HOLD by the one party of a line puts it on hold with that key as the owner, and empties the slot; where other parties
remain it is a leave, and an injected HOLD returns LEFT. A group in the slot is released, with its floor place, its 2 terms
and the binding report, and an injected HOLD returns OK; an empty slot is denied with NO_LINE, on no lamp (R3, R20, R21,
R34, R36, R41, R53, R85, R86). Held in the model's own form: log entries 3, 4. -/
def Obligations.HoldKeyHolds : Prop :=
  (∀ (p : PositionId) (l : LineId) (k : Key) (x : Party) (s : State), s.offers = [] →
    (s.position p).linkUp = true → s.slot p (s.selected p) = some ⟨.line l, k⟩ → (s.line l).ok →
    (s.line l).parties = [x] → x.position = p → x.path = .handset (s.selected p) → x.key = some k →
    ∃ t, exec (.hold p) s = .next t ∧
      t.line l = { s.line l with
        state := .held, parties := [], holdOwner := some ⟨p, k⟩, privateHold := (s.line l).privacy, privacy := false
        rg := false, burstCount := 0, unanswered := false
        timer := if s.params.holdRecall = 0 then none
          else some ⟨.hold, s.clock + s.params.holdRecall * 1000 * 8⟩ } ∧
      OtherLines l s t ∧ t.slot p (s.selected p) = none ∧ OtherSlots p (s.selected p) s t ∧
      t.termCount = s.termCount - 3 ∧ t.entry p k = s.entry p k ∧ t.bound p k = true ∧
      Raised [.lineState l (s.line l).state .held] s t ∧ OnlyDelivered p s t ∧
      SameExcept [.lines, .positions, .termCount, .notices, .speakers, .links, .lamps] s t) ∧
  (∀ (p : PositionId) (l : LineId) (k : Key) (x : Party) (before behind : List Party) (s : State), s.offers = [] →
    (s.position p).linkUp = true → s.slot p (s.selected p) = some ⟨.line l, k⟩ → (s.line l).ok →
    (s.line l).parties = before ++ x :: behind → before ++ behind ≠ [] → x.position = p →
    x.path = .handset (s.selected p) → (s.entry p k).pendingContent = none → s.noneWaits l →
    (∃ t, exec (.hold p) s = .next t ∧ PartyLeft p (s.selected p) l x (before ++ behind) s t ∧
      OnlyDelivered p s t ∧ SameExcept [.lines, .positions, .termCount, .links, .lamps] s t) ∧
    ∀ (c : Port) (ch : Byte), ∃ t, exec (.keyInject c (byteOf p.val) 1 0 ch 1) s = .next t ∧
      PartyLeft p (s.selected p) l x (before ++ behind) s t ∧ Answered c .left [] s t ∧ OnlyLampQueues s t ∧
      SameExcept [.lines, .positions, .termCount, .links, .lamps, .ports] s t) ∧
  (∀ (p : PositionId) (h : Handset) (g : GroupId) (k : Key) (s : State), s.offers = [] →
    (s.position p).linkUp = true → h = s.selected p → s.slot p h = some ⟨.group g, k⟩ → s.soleBinding p h k →
    (∃ t, exec (.hold p) s = .next t ∧ GroupReleased p h g k { (s.position p).handset h with slot := none } s t ∧
      OnlyDelivered p s t ∧
      SameExcept [.groups, .positions, .termCount, .directory, .notices, .links, .lamps] s t) ∧
    ∀ (c : Port) (ch : Byte), ∃ t, exec (.keyInject c (byteOf p.val) 1 0 ch 1) s = .next t ∧
      GroupReleased p h g k { (s.position p).handset h with slot := none } s t ∧ Answered c .ok [] s t ∧
      OnlyLampQueues s t ∧
      SameExcept [.groups, .positions, .termCount, .directory, .notices, .links, .lamps, .ports] s t) ∧
  (∀ (p : PositionId) (s : State), s.offers = [] → (s.position p).linkUp = true → s.slot p (s.selected p) = none →
    ∃ t, exec (.hold p) s = .next t ∧ Raised [.keyDenied p none .noLine .turret] s t ∧ OnlyDelivered p s t ∧
      SameExcept [.notices, .links, .lamps] s t)

/-- RELEASE and HOOK ON by the last party of a line send it to GUARD and empty the slot (R9, R20, R42, R47). Where other
parties remain the line keeps its state and its other parties: privacy goes off when the principal leaves, the next
handset party in order is principal, and an injected RELEASE returns LEFT. A list that falls from 8 parties to 7 is an
attach opportunity: on an OPEN line without privacy the first waiting channel takes the free place (R3, R8, R101); that its
take is made inside the leave's own command is the model's choice (log entry 23). A group in the slot is released, with its
floor place, its 2 terms and the binding report, and an injected RELEASE returns OK (R34, R85, R86); with an empty slot
RELEASE does nothing and returns NO_CHANGE, and HOOK ON changes the hook alone; HOOK ON of an on-hook handset is ignored.
Held in the model's own form: log entries 3, 4. -/
def Obligations.LastPartyLeaves : Prop :=
  (∀ (p : PositionId) (h : Handset) (l : LineId) (k : Key) (x : Party) (s : State), s.offers = [] →
    (s.position p).linkUp = true → s.slot p h = some ⟨.line l, k⟩ → (s.line l).ok →
    (s.line l).parties = [x] → x.position = p → x.path = .handset h → (s.entry p k).pendingContent = none →
    ∀ c : Instr, (c = .release p ∧ h = s.selected p) ∨ (c = .hookOn p h ∧ s.hook p h = .off) →
    ∃ t, exec c s = .next t ∧
      t.line l = { s.line l with
        state := .guard, parties := [], privacy := false, sz := false, rg := false, unanswered := false
        burstCount := 0, timer := some ⟨.guard, s.clock + s.params.guardTime * 8⟩ } ∧
      OtherLines l s t ∧ t.slot p h = none ∧ OtherSlots p h s t ∧ t.termCount = s.termCount - 3 ∧
      (c = .hookOn p h → t.hook p h = .on) ∧ t.selected p = s.selected p ∧ OtherPositions p s t ∧
      Raised [.lineState l (s.line l).state .guard] s t ∧ OnlyDelivered p s t ∧
      SameExcept [.lines, .positions, .termCount, .notices, .speakers, .links, .lamps] s t) ∧
  (∀ (p : PositionId) (h : Handset) (l : LineId) (k : Key) (x : Party) (before behind : List Party) (s : State),
    s.offers = [] → (s.position p).linkUp = true → s.slot p h = some ⟨.line l, k⟩ → (s.line l).ok →
    (s.line l).parties = before ++ x :: behind → before ++ behind ≠ [] → x.position = p → x.path = .handset h →
    (s.entry p k).pendingContent = none →
    (∀ c : Instr, (c = .release p ∧ h = s.selected p) ∨ (c = .hookOn p h ∧ s.hook p h = .off) → s.noneWaits l →
      ∃ t, exec c s = .next t ∧ PartyLeft p h l x (before ++ behind) s t ∧
        (t.line l).principal = (before ++ behind).find? (fun y => y.path.isHandset) ∧
        (c = .hookOn p h → t.hook p h = .on) ∧ OnlyDelivered p s t ∧
        SameExcept [.lines, .positions, .termCount, .links, .lamps] s t) ∧
    (h = s.selected p → s.noneWaits l → ∀ (c : Port) (ch : Byte),
      ∃ t, exec (.keyInject c (byteOf p.val) 1 1 ch 1) s = .next t ∧ PartyLeft p h l x (before ++ behind) s t ∧
        Answered c .left [] s t ∧ OnlyLampQueues s t ∧
        SameExcept [.lines, .positions, .termCount, .links, .lamps, .ports] s t) ∧
    (∀ w rest, h = s.selected p → (before ++ behind).length = 7 → (s.line l).barge = .openPolicy →
      (s.line l).privacy = false → s.waiters l = w :: rest → s.attachAgree →
      ∃ t, exec (.release p) s = .next t ∧
        t.line l = { s.line l with parties := before ++ behind ++ [s.partyOf w] } ∧ OtherLines l s t ∧
        t.slot p h = none ∧ OtherSlots p h s t ∧ t.termCount = s.termCount - 3 ∧
        AttachedInOrder l 1 .lineFull s t ∧ Raised [] s t ∧ OnlyDelivered p s t ∧
        SameExcept [.lines, .positions, .termCount, .speakers, .links, .lamps] s t)) ∧
  (∀ (p : PositionId) (h : Handset) (g : GroupId) (k : Key) (s : State), s.offers = [] →
    (s.position p).linkUp = true → s.slot p h = some ⟨.group g, k⟩ → s.soleBinding p h k →
    (h = s.selected p →
      (∃ t, exec (.release p) s = .next t ∧ GroupReleased p h g k { (s.position p).handset h with slot := none } s t ∧
        OnlyDelivered p s t ∧
        SameExcept [.groups, .positions, .termCount, .directory, .notices, .links, .lamps] s t) ∧
      ∀ (c : Port) (ch : Byte), ∃ t, exec (.keyInject c (byteOf p.val) 1 1 ch 1) s = .next t ∧
        GroupReleased p h g k { (s.position p).handset h with slot := none } s t ∧ Answered c .ok [] s t ∧
        OnlyLampQueues s t ∧
        SameExcept [.groups, .positions, .termCount, .directory, .notices, .links, .lamps, .ports] s t) ∧
    (s.hook p h = .off →
      ∃ t, exec (.hookOn p h) s = .next t ∧ GroupReleased p h g k ⟨.on, none⟩ s t ∧ OnlyDelivered p s t ∧
        SameExcept [.groups, .positions, .termCount, .directory, .notices, .links, .lamps] s t)) ∧
  (∀ (p : PositionId) (h : Handset) (s : State), s.offers = [] → (s.position p).linkUp = true →
    (h = s.selected p → s.slot p h = none →
      (∃ t, exec (.release p) s = .next t ∧ OnlyDelivered p s t ∧ SameExcept [.links, .lamps] s t) ∧
      ∀ (c : Port) (ch : Byte), ∃ t, exec (.keyInject c (byteOf p.val) 1 1 ch 1) s = .next t ∧
        Answered c .noChange [] s t ∧ OnlyLampQueues s t ∧ SameExcept [.links, .lamps, .ports] s t) ∧
    (s.hook p h = .off → s.slot p h = none →
      ∃ t, exec (.hookOn p h) s = .next t ∧ t.position p = (s.position p).setHandset h ⟨.on, none⟩ ∧
        OtherPositions p s t ∧ OnlyDelivered p s t ∧ SameExcept [.positions, .links, .lamps] s t) ∧
    (s.hook p h = .on →
      ∃ t, exec (.hookOn p h) s = .next t ∧ OnlyDelivered p s t ∧ SameExcept [.links, .lamps] s t))

/-- ANSWER, and a lift with answer-on-lift, take the RINGING line at the head of the ring queue through the head's
key, and the line's RING entries leave every queue; ANSWER into a filled slot disposes of the old content by switch-away
(R13, R34, R39, R43, R48). Held in the model's own form: log entries 3, 4; the order of the notices of a slot change: log
entry 9. -/
def Obligations.HeadAnswered : Prop :=
  (∀ (p : PositionId) (h : Handset) (e : RingEntry) (rest : List RingEntry) (s : State), s.offers = [] →
    (s.position p).linkUp = true → (s.position p).ringQueue = e :: rest → (s.line e.line).state = .ringing →
    (s.line e.line).ok → s.slot p h = none → s.termCount + 3 ≤ 768 →
    ∀ c : Instr,
      (c = .answer p ∧ h = s.selected p) ∨
        (c = .hookOff p h ∧ s.hook p h = .on ∧ (s.position p).answerOnLift = true) →
    ∃ t, exec c s = .next t ∧
      t.line e.line = { s.line e.line with
        state := .active
        parties := [⟨p, .handset h, some e.key, true,
          decide (c = .hookOff p h) || decide (s.hook p h = .off), .key⟩]
        missed := 0, sz := true, rg := false, timer := none } ∧
      OtherLines e.line s t ∧ t.slot p h = some ⟨.line e.line, e.key⟩ ∧ OtherSlots p h s t ∧
      t.termCount = s.termCount + 3 ∧ (∀ q, ¬(t.position q).rings .ring e.line) ∧
      (c = .hookOff p h → t.hook p h = .off ∧ t.selected p = h) ∧
      Raised [.lineState e.line .ringing .active] s t ∧ OnlyDelivered p s t ∧
      SameExcept [.lines, .positions, .termCount, .notices, .links, .lamps] s t) ∧
  ∀ (p : PositionId) (h : Handset) (e : RingEntry) (rest : List RingEntry) (old : Held) (s : State), s.offers = [] →
    (s.position p).linkUp = true → (s.position p).ringQueue = e :: rest → (s.line e.line).state = .ringing →
    (s.line e.line).ok → h = s.selected p → s.slot p h = some old → old.source ≠ .line e.line →
    (slotCost (some old) = 3 ∨ s.termCount + 1 ≤ 768) → s.disposable p h old → s.soleBinding p h old.key →
    ((s.entry p old.key).pendingContent ≠ none → old.key ≠ e.key) →
    ∃ t, exec (.answer p) s = .next t ∧
      t.line e.line = { s.line e.line with
        state := .active
        parties := [⟨p, .handset h, some e.key, true, decide (s.hook p h = .off), .key⟩]
        missed := 0, sz := true, rg := false, timer := none } ∧
      SwitchedAway p h old s t ∧ (∀ l, l ≠ e.line → old.source ≠ .line l → t.line l = s.line l) ∧
      (∀ g, old.source ≠ .group g → t.group g = s.group g) ∧
      SlotChanged p h old (some ⟨.line e.line, e.key⟩) (s.freed p h old) s t ∧
      (∀ q, ¬(t.position q).rings .ring e.line) ∧
      Raised (.lineState e.line .ringing .active :: s.switchedNotices p h old ++
        installNotices p old.key (s.freed p h old)) s t ∧
      OnlyDelivered p s t ∧
      SameExcept [.lines, .groups, .positions, .termCount, .directory, .notices, .links, .lamps] s t

/-- HOOK OFF with a line in the slot makes its party talk; with a group in the slot it lifts and selects the handset, and
the floor is as it was; with an empty slot and nothing to answer it lifts and
selects the handset; a handset already off-hook is ignored (R48). Held in the model's own form: log entry 4. -/
def Obligations.LiftTalks : Prop :=
  ∀ (p : PositionId) (h : Handset) (s : State), s.offers = [] → (s.position p).linkUp = true →
    (∀ l k, s.hook p h = .on → s.slot p h = some ⟨.line l, k⟩ →
      ∃ t, exec (.hookOff p h) s = .next t ∧ t.hook p h = .off ∧ t.selected p = h ∧
        t.line l = { s.line l with
          parties := (s.line l).parties.map fun x =>
            if x.position = p ∧ x.path = .handset h then { x with talking := true } else x } ∧
        OtherLines l s t ∧ (∀ q g, t.slot q g = s.slot q g) ∧ OtherPositions p s t ∧ OnlyDelivered p s t ∧
        SameExcept [.lines, .positions, .links, .lamps] s t) ∧
    (∀ g k, s.hook p h = .on → s.slot p h = some ⟨.group g, k⟩ →
      ∃ t, exec (.hookOff p h) s = .next t ∧
        t.position p =
          { (s.position p).setHandset h { (s.position p).handset h with hook := .off } with selected := h } ∧
        OtherPositions p s t ∧ OnlyDelivered p s t ∧ SameExcept [.positions, .links, .lamps] s t) ∧
    (s.hook p h = .on → s.slot p h = none →
      ((s.position p).answerOnLift = false ∨ (s.position p).ringQueue = []) →
      ∃ t, exec (.hookOff p h) s = .next t ∧ t.hook p h = .off ∧ t.selected p = h ∧
        (∀ q g, t.slot q g = s.slot q g) ∧ OtherPositions p s t ∧ OnlyDelivered p s t ∧
        SameExcept [.positions, .links, .lamps] s t) ∧
    (s.hook p h = .off →
      ∃ t, exec (.hookOff p h) s = .next t ∧ OnlyDelivered p s t ∧ SameExcept [.links, .lamps] s t)

/-- PRIVACY by the principal toggles the line's privacy; by another party it is denied with NOT_PRINCIPAL on the
slot's key; with a group or nothing in the slot it is denied with NO_LINE, on the slot's key or on no lamp (R3, R44).
Held in the model's own form: log entries 3, 4. -/
def Obligations.PrivacyByPrincipal : Prop :=
  (∀ (p : PositionId) (l : LineId) (k : Key) (x : Party) (s : State), s.offers = [] →
    (s.position p).linkUp = true → s.slot p (s.selected p) = some ⟨.line l, k⟩ →
    x ∈ (s.line l).parties → x.position = p → x.path = .handset (s.selected p) →
    ((s.line l).principal = some x → s.noneWaits l →
      ∃ t, exec (.privacy p) s = .next t ∧ t.line l = { s.line l with privacy := !(s.line l).privacy } ∧
        OtherLines l s t ∧ OnlyDelivered p s t ∧ SameExcept [.lines, .links, .lamps] s t) ∧
    (∀ y, (s.line l).principal = some y → (y.position ≠ p ∨ y.path ≠ .handset (s.selected p)) →
      ∃ t, exec (.privacy p) s = .next t ∧
        Raised [.keyDenied p (some (keyLamp k)) .notPrincipal .turret] s t ∧
        t.position p = { s.position p with
          deny := (s.position p).deny.set (keyLamp k) (some (s.clock + 8000)) } ∧
        OtherPositions p s t ∧ OnlyDelivered p s t ∧ SameExcept [.positions, .notices, .links, .lamps] s t)) ∧
  ∀ (p : PositionId) (s : State), s.offers = [] → (s.position p).linkUp = true →
    (∀ g k, s.slot p (s.selected p) = some ⟨.group g, k⟩ →
      ∃ t, exec (.privacy p) s = .next t ∧ Denied p (keyLamp k) .noLine s t ∧ OnlyDelivered p s t ∧
        SameExcept [.positions, .notices, .links, .lamps] s t) ∧
    (s.slot p (s.selected p) = none →
      ∃ t, exec (.privacy p) s = .next t ∧ Raised [.keyDenied p none .noLine .turret] s t ∧ OnlyDelivered p s t ∧
        SameExcept [.notices, .links, .lamps] s t)

/-- SELECT_H0 and SELECT_H1 make their handset the selected one, RING_SILENCE silences a ringer whose queue is not
empty, a deny display ends at its timer's expiry, and a sounding ringer changes phase at its cadence timer's, for the
length of the head's class (R45, R54, R69, R70, R71). Held in the model's own form: log entries 3, 4. -/
def Obligations.SelectionSilenceAndTimers : Prop :=
  (∀ (p : PositionId) (s : State), s.offers = [] → (s.position p).linkUp = true →
      (∃ t, exec (.selectH0 p) s = .next t ∧ t.position p = { s.position p with selected := .h0 } ∧
        OtherPositions p s t ∧ OnlyDelivered p s t ∧ SameExcept [.positions, .links, .lamps] s t) ∧
      (∃ t, exec (.selectH1 p) s = .next t ∧ t.position p = { s.position p with selected := .h1 } ∧
        OtherPositions p s t ∧ OnlyDelivered p s t ∧ SameExcept [.positions, .links, .lamps] s t) ∧
      ∃ t, exec (.ringSilence p) s = .next t ∧ OtherPositions p s t ∧ OnlyDelivered p s t ∧
        SameExcept [.positions, .links, .lamps] s t ∧
        ((s.position p).ringQueue = [] → t.position p = s.position p) ∧
        ((s.position p).ringQueue ≠ [] →
          (t.position p).ringerCondition = .silenced ∧
          t.position p = { s.position p with
            ringer := { (s.position p).ringer with silenced := true, cadence := none } })) ∧
  (∀ (p : PositionId) (s : State), s.offers = [] →
      (∀ (x : LampId) (due : Nat), (s.position p).deny.get x = some due →
        ∃ t, exec (.denyTimerExpiry p x) s = .next t ∧ t.clock = max s.clock due ∧
          t.position p = { s.position p with deny := (s.position p).deny.set x none } ∧
          t.shownCode p x = t.derivedCode p x ∧ OtherPositions p s t ∧
          SameExcept [.clock, .positions, .links, .lamps] s t ∧ OnlyLampQueues s t) ∧
      ∀ (due : Nat) (onPhase : Bool) (e : RingEntry) (rest : List RingEntry),
        (s.position p).ringer.cadence = some ⟨onPhase, due⟩ → (s.position p).ringQueue = e :: rest →
        (s.position p).ringer.silenced = false →
        ∃ t, exec (.cadenceTimerExpiry p) s = .next t ∧ t.clock = max s.clock due ∧
          (t.position p).ringerCondition = (if onPhase then .off else .on) ∧
          (t.position p).ringer.cadence = some ⟨!onPhase, t.clock + 8 *
            (match e.cls, onPhase with
              | .normal, true => 2000
              | .normal, false => 1000
              | .priority, _ => 250)⟩ ∧
          (onPhase = false → (t.position p).ringer.tonePhase = 0) ∧
          t.position p = { s.position p with ringer := (t.position p).ringer } ∧
          OtherPositions p s t ∧ SameExcept [.clock, .positions] s t)

/-! ### Intercom groups -/

/-- GROUP DEFINE of an undefined group is admitted against the term budget and takes its limits; GROUP UNDEFINE of a
memberless group returns its terms (R77, R78). Held in the model's own form: log entry 4. -/
def Obligations.GroupDefined : Prop :=
  ∀ (c : Port) (g : GroupId) (s : State), s.offers = [] →
    (∀ lim f : Byte, 1 ≤ lim.toNat → lim.toNat ≤ 8 → (s.group g).defined = false →
      s.termCount + lim.toNat ≤ 768 →
      ∃ t taken, exec (.groupDefine c (byteOf g.val) lim f) s = .next t ∧
        (f.toNat = 0 → taken = 0) ∧ (1 ≤ f.toNat → f.toNat ≤ 5 → taken = 5) ∧
        (5 ≤ f.toNat → f.toNat ≤ 120 → taken = f.toNat) ∧ (120 ≤ f.toNat → taken = 120) ∧
        t.group g = ⟨true, lim.toNat, taken, [], [], []⟩ ∧ OtherGroups g s t ∧
        t.termCount = s.termCount + lim.toNat ∧
        (taken = f.toNat → Answered c .ok [] s t) ∧ (taken ≠ f.toNat → Answered c .clamped [byteOf taken] s t) ∧
        SameExcept [.groups, .termCount, .links, .lamps, .ports] s t) ∧
    (∀ lim f : Byte, 1 ≤ lim.toNat → lim.toNat ≤ 8 →
      ((s.group g).defined = true ∨ 768 < s.termCount + lim.toNat) →
      ∃ t, exec (.groupDefine c (byteOf g.val) lim f) s = .next t ∧
        Answered c (if (s.group g).defined then .alreadyDefined else .mixFull) [] s t ∧
        SameExcept [.links, .lamps, .ports] s t) ∧
    ((s.group g).defined = true → (s.group g).members = [] →
      ∃ t, exec (.groupUndefine c (byteOf g.val)) s = .next t ∧ Answered c .ok [] s t ∧
        t.group g = ⟨false, 1, 0, [], [], []⟩ ∧ OtherGroups g s t ∧
        t.termCount = s.termCount - (s.group g).talkerLimit ∧
        SameExcept [.groups, .termCount, .links, .lamps, .ports] s t) ∧
    ((s.group g).defined = false ∨ (s.group g).members ≠ [] →
      ∃ t, exec (.groupUndefine c (byteOf g.val)) s = .next t ∧
        Answered c (if (s.group g).defined then .inUse else .noChange) [] s t ∧ SameExcept [.ports] s t)

/-- MEMBER ADD appends a new member, replaces the class of a present one in its place, and refuses an argument out of
range, an undefined and a full group; floor, limits and lamps stay (R79). Held in the model's own form: log entry 4.
-/
def Obligations.MemberAdded : Prop :=
  (∀ (c : Port) (a b d : Byte) (s : State), 16 ≤ a.toNat ∨ 32 ≤ b.toNat ∨ 2 ≤ d.toNat →
    exec (.memberAdd c a b d) s = .next (s.answer c .badArg [])) ∧
  (∀ (c : Port) (g : GroupId) (p : PositionId) (k : LineClass) (s : State),
      ∃ t r, exec (.memberAdd c (byteOf g.val) (byteOf p.val) (byteOf k.code)) s = .next t ∧
        Answered c r [] s t ∧ SameExcept [.groups, .ports] s t ∧ OtherGroups g s t ∧
        { t.group g with members := (s.group g).members } = s.group g ∧
        ((s.group g).defined = false → r = .notDefined ∧ t.group g = s.group g) ∧
        ((s.group g).defined = true → (s.group g).member? p = some ⟨p, k⟩ → r = .noChange ∧ t.group g = s.group g) ∧
        (∀ k', (s.group g).defined = true → (s.group g).member? p = some ⟨p, k'⟩ → k' ≠ k →
          r = .ok ∧ (t.group g).members =
            (s.group g).members.map fun m => if m.position = p then ⟨p, k⟩ else m) ∧
        ((s.group g).defined = true → (s.group g).member? p = none → (s.group g).members.length < 32 →
          r = .ok ∧ (t.group g).members = (s.group g).members ++ [⟨p, k⟩]) ∧
        ((s.group g).defined = true → (s.group g).member? p = none → 32 ≤ (s.group g).members.length →
          r = .groupFull ∧ t.group g = s.group g))

/-- MEMBER REMOVE takes the member, its place on the floor and every slot of it that holds the group, and answers what the
position held on the floor (R80). The byte of that place is the model's choice: R80 names the three in running text, and
the model codes them by their order there, TALKER 0, WAITING 1, nothing 2 (log entry 10). Held in the model's own form:
log entry 4. -/
def Obligations.MemberRemoved : Prop :=
  ∀ (c : Port) (g : GroupId) (p : PositionId) (m : Member) (s : State), s.offers = [] →
    (s.group g).defined = true → (s.group g).member? p = some m →
    ∃ t, exec (.memberRemove c (byteOf g.val) (byteOf p.val)) s = .next t ∧
      Answered c .ok [if ((s.group g).talker? p).isSome then 0
        else if ((s.group g).waiter? p).isSome then 1 else 2] s t ∧
      (t.group g).members = (s.group g).members.filter (fun y => decide (y.position ≠ p)) ∧
      (t.group g).talker? p = none ∧ (t.group g).waiter? p = none ∧ OtherGroups g s t ∧
      (∀ h, t.slot p h = if holdsSource (s.slot p h) (.group g) then none else s.slot p h) ∧
      (∀ q, q ≠ p → ∀ h, t.slot q h = s.slot q h) ∧
      t.termCount = s.termCount - (if holdsSource (s.slot p .h0) (.group g) then 2 else 0) -
        (if holdsSource (s.slot p .h1) (.group g) then 2 else 0) ∧
      SameExcept [.groups, .positions, .termCount, .directory, .notices, .links, .lamps, .ports] s t

/-- A floor timer's expiry takes the floor from its talker, sets must-release on a held channel, and grants the head
of the waiting queue (R86, R87). Held in the model's own form: log entry 3. -/
def Obligations.FloorTimesOut : Prop :=
  ∀ (g : GroupId) (p : PositionId) (src : Path) (due : Nat) (s : State), s.offers = [] →
    (s.group g).talker? p = some ⟨p, src, some due⟩ →
    ∃ t, exec (.floorTimerExpiry g p) s = .next t ∧ t.clock = max s.clock due ∧ OtherGroups g s t ∧
      ((s.group g).waiting = [] →
        t.group g = { s.group g with
          talkers := (s.group g).talkers.filter fun x => decide (x.position ≠ p) } ∧
        Raised [.floorTimeout g p src] s t) ∧
      (∀ w rest, (s.group g).waiting = w :: rest →
        t.group g = { s.group g with
          talkers := (s.group g).talkers.filter (fun x => decide (x.position ≠ p)) ++
            [⟨w.position, w.source, if (s.group g).floorLimit = 0 then none
              else some (t.clock + (s.group g).floorLimit * 1000 * 8)⟩]
          waiting := rest } ∧
        Raised [.floorTimeout g p src, .floorGrant g w.position w.source true] s t) ∧
      (∀ h, src = .handset h → t.speakers = s.speakers) ∧
      (∀ n, src = .channel n → OtherChannels p n s t ∧
        t.channel p n = { s.channel p n with
          mustRelease := (s.channel p n).ptt || (s.channel p n).mustRelease }) ∧
      SameExcept [.clock, .groups, .notices, .speakers, .links, .lamps] s t

/-- SPK_TALK down on a group channel asks for the floor: granted, queued, or denied with FLOOR_FULL; SPK_TALK up gives
up the place taken from that channel, and clears must-release (R82, R83, R85, R86, R104, R105). Held in the model's
own form: log entries 3, 4. -/
def Obligations.GroupPushToTalk : Prop :=
  (∀ (p : PositionId) (n : ChannelId) (g : GroupId) (m : Member) (s : State), s.offers = [] →
      (s.position p).linkUp = true → (s.channel p n).source = some (.group g) → (s.channel p n).ptt = false →
      (s.group g).defined = true → (s.group g).member? p = some m → (s.group g).talker? p = none →
      (s.group g).waiter? p = none →
      ∃ t, exec (.spkTalkDown p n) s = .next t ∧ OtherGroups g s t ∧ OtherChannels p n s t ∧ OnlyDelivered p s t ∧
        ((s.group g).talkers.length < (s.group g).talkerLimit → (s.group g).waiting = [] →
          t.group g = { s.group g with
            talkers := (s.group g).talkers ++ [⟨p, .channel n, if (s.group g).floorLimit = 0 then none
              else some (s.clock + (s.group g).floorLimit * 1000 * 8)⟩] } ∧
          t.channel p n = { s.channel p n with ptt := true } ∧
          Raised [.floorGrant g p (.channel n) false] s t ∧ t.positions = s.positions) ∧
        ((s.group g).talkerLimit ≤ (s.group g).talkers.length → (s.group g).waiting.length < 8 →
          (t.group g).talkers = (s.group g).talkers ∧
          (⟨p, .channel n, m.cls⟩ : Waiter) ∈ (t.group g).waiting ∧
          (t.group g).waiting.length = (s.group g).waiting.length + 1 ∧
          (m.cls = .normal → (t.group g).waiting = (s.group g).waiting ++ [⟨p, .channel n, .normal⟩]) ∧
          t.channel p n = { s.channel p n with ptt := true } ∧ Raised [] s t ∧ t.positions = s.positions) ∧
        ((s.group g).talkerLimit ≤ (s.group g).talkers.length → 8 ≤ (s.group g).waiting.length →
          t.group g = s.group g ∧ t.channel p n = s.channel p n ∧
          Raised [.keyDenied p (some (channelLamp n)) .floorFull .turret] s t ∧
          t.shownCode p (channelLamp n) = .deny ∧ OtherPositions p s t) ∧
        SameExcept [.groups, .speakers, .positions, .notices, .links, .lamps] s t) ∧
  (∀ (p : PositionId) (n : ChannelId) (g : GroupId) (s : State), s.offers = [] →
      (s.position p).linkUp = true → (s.channel p n).source = some (.group g) → (s.channel p n).ptt = true →
      ∃ t, exec (.spkTalkUp p n) s = .next t ∧ OtherGroups g s t ∧ OtherChannels p n s t ∧ OnlyDelivered p s t ∧
        t.channel p n = { s.channel p n with ptt := false, mustRelease := false } ∧
        (∀ d, (s.group g).waiter? p = none → (s.group g).talker? p = some ⟨p, .channel n, d⟩ →
          (s.group g).waiting = [] →
          t.group g = { s.group g with
            talkers := (s.group g).talkers.filter fun x => decide (x.position ≠ p) } ∧ Raised [] s t) ∧
        (∀ d w rest, (s.group g).waiter? p = none → (s.group g).talker? p = some ⟨p, .channel n, d⟩ →
          (s.group g).waiting = w :: rest →
          (t.group g).waiting = rest ∧ Raised [.floorGrant g w.position w.source true] s t) ∧
        (∀ w, (s.group g).waiter? p = some w → w.source = .channel n →
          t.group g = { s.group g with
            waiting := (s.group g).waiting.filter fun x => decide (x.position ≠ p) } ∧ Raised [] s t) ∧
        ((s.group g).waiter? p = none → (s.group g).talker? p = none → t.group g = s.group g ∧ Raised [] s t) ∧
        SameExcept [.groups, .speakers, .notices, .links, .lamps] s t)

/-! ### The Speaker Field -/

/-- PLAN SET, PLAN POSITION and POSITION CONFIGURE write the values given, clamped, and change nothing else (R57, R96,
R97). Held in the model's own form: log entry 4. Two clauses are the model's choice: a source of kind none is taken
whatever its number byte (log entry 13), and a clamped POSITION CONFIGURE or PLAN POSITION carries both values (log
entry 10). -/
def Obligations.ConfigurationWritten : Prop :=
  ∀ (c : Port) (p : PositionId) (s : State),
    (∀ (n : ChannelId) (src : Option Source) (num v : Byte) (ls : Loudspeaker) (tb : Bool),
      (∀ l, src = some (.line l) → num = byteOf l.val) → (∀ g, src = some (.group g) → num = byteOf g.val) →
      ∃ t, exec (.planSet c (byteOf p.val) (byteOf n.val)
          (match src with
            | none => 0
            | some (.line _) => 1
            | some (.group _) => 2) num v (byteOf ls.code) (flagByte tb)) s = .next t ∧
        (∀ n', (t.speaker p).plan.get n' =
          if n' = n then ⟨src, ⟨min 27 v.toNat, by omega⟩, ls, tb⟩ else (s.speaker p).plan.get n') ∧
        { t.speaker p with plan := (s.speaker p).plan } = s.speaker p ∧ OtherSpeakers p s t ∧
        (v.toNat ≤ 27 → Answered c .ok [] s t) ∧ (27 < v.toNat → Answered c .clamped [27] s t) ∧
        SameExcept [.speakers, .ports] s t) ∧
    (∀ d f : Byte, ∃ t, exec (.planPosition c (byteOf p.val) d f) s = .next t ∧
      t.speaker p = { s.speaker p with
        stagedDuck := ⟨min 12 d.toNat, by omega⟩, stagedFloor := ⟨max 1 (min 27 f.toNat), by omega⟩ } ∧
      OtherSpeakers p s t ∧
      (d.toNat ≤ 12 → 1 ≤ f.toNat → f.toNat ≤ 27 → Answered c .ok [] s t) ∧
      (12 < d.toNat ∨ f.toNat = 0 ∨ 27 < f.toNat →
        Answered c .clamped [byteOf (min 12 d.toNat), byteOf (max 1 (min 27 f.toNat))] s t) ∧
      SameExcept [.speakers, .ports] s t) ∧
    ∀ (sw : SwitchAway) (al : Bool) (hs rs : Byte) (tone : RingerTone) (w : Half), w.toNat = tone.hertz →
      ∃ t, exec (.positionConfigure c (byteOf p.val) (byteOf sw.code) (flagByte al) hs rs w) s = .next t ∧
        t.position p = { s.position p with
          switchAway := sw, answerOnLift := al, handsetStep := ⟨min 27 hs.toNat, by omega⟩
          ringerStep := ⟨min 27 rs.toNat, by omega⟩, ringerTone := tone } ∧
        OtherPositions p s t ∧ (hs.toNat ≤ 27 → rs.toNat ≤ 27 → Answered c .ok [] s t) ∧
        (27 < hs.toNat ∨ 27 < rs.toNat →
          Answered c .clamped [byteOf (min 27 hs.toNat), byteOf (min 27 rs.toNat)] s t) ∧
        SameExcept [.positions, .ports] s t

/-- MIX APPLY is refused whole with MIX_FULL when the count cannot take its increase; an admitted one installs the
whole plan: sources, steps, loudspeakers, talkback, duck depth, knob floor and term count, and every channel ends in
the attach state that goes with its source (R98, R99, R100). Held in the model's own form: log entries 4, 10. -/
def Obligations.MixApplied : Prop :=
  (∀ (c : Port) (p : PositionId) (s : State), (s.speaker p).liveTerms < (s.speaker p).planTerms →
      768 < s.termCount + ((s.speaker p).planTerms - (s.speaker p).liveTerms) →
      ∃ t, exec (.mixApply c (byteOf p.val)) s = .next t ∧ Answered c .mixFull [] s t ∧ SameExcept [.ports] s t) ∧
  (∀ (c : Port) (p : PositionId) (s : State), s.offers = [] →
      ((s.speaker p).planTerms ≤ (s.speaker p).liveTerms ∨
        s.termCount + ((s.speaker p).planTerms - (s.speaker p).liveTerms) ≤ 768) →
      ∃ t data, exec (.mixApply c (byteOf p.val)) s = .next t ∧ Answered c .ok data s t ∧ data.length = 18 ∧
        t.termCount = s.termCount + (s.speaker p).planTerms - (s.speaker p).liveTerms ∧
        (∀ n, (t.channel p n).source = ((s.speaker p).plan.get n).source ∧
          (t.channel p n).level = ((s.speaker p).plan.get n).level ∧
          (t.channel p n).loudspeaker = ((s.speaker p).plan.get n).loudspeaker ∧
          (t.channel p n).talkback = ((s.speaker p).plan.get n).talkback ∧
          attachFits (t.channel p n).source (t.channel p n).attach = true ∧
          ((s.channel p n).source ≠ ((s.speaker p).plan.get n).source →
            (t.channel p n).mute = false ∧ (t.channel p n).ptt = false ∧ (t.channel p n).mustRelease = false) ∧
          ((s.channel p n).source = ((s.speaker p).plan.get n).source →
            (t.channel p n).mute = (s.channel p n).mute)) ∧
        (t.speaker p).plan = (s.speaker p).plan ∧ (t.speaker p).duck = (s.speaker p).stagedDuck ∧
        (t.speaker p).knobFloor = (s.speaker p).stagedFloor ∧
        (t.speaker p).step0 = max (s.speaker p).step0 (s.speaker p).stagedFloor ∧
        (t.speaker p).step1 = max (s.speaker p).step1 (s.speaker p).stagedFloor ∧
        OnlyRings s t ∧ OnlyLampQueues s t ∧
        SameExcept [.lines, .positions, .groups, .speakers, .termCount, .notices, .links, .lamps, .ports] s t)

/-- SPK_MUTE toggles the mute of a channel with a source and is denied with NO_SOURCE on one without; SPK_TALK on an
ATTACHED talkback channel sets and clears the talking flag of its party, and is denied with NO_TALKBACK on a line
channel that cannot talk (R2, R103, R104, R105). Held in the model's own form: log entries 3, 4. -/
def Obligations.ChannelKeys : Prop :=
  (∀ (p : PositionId) (n : ChannelId) (s : State), s.offers = [] → (s.position p).linkUp = true →
      (∀ x, (s.channel p n).source = some x →
        ∃ t, exec (.spkMute p n) s = .next t ∧
          t.channel p n = { s.channel p n with mute := !(s.channel p n).mute } ∧ OtherChannels p n s t ∧
          OnlyDelivered p s t ∧ SameExcept [.speakers, .links, .lamps] s t) ∧
      ((s.channel p n).source = none →
        ∃ t, exec (.spkMute p n) s = .next t ∧
          Raised [.keyDenied p (some (channelLamp n)) .noSource .turret] s t ∧
          t.position p = { s.position p with
            deny := (s.position p).deny.set (channelLamp n) (some (s.clock + 8000)) } ∧
          OtherPositions p s t ∧ OnlyDelivered p s t ∧ SameExcept [.positions, .notices, .links, .lamps] s t)) ∧
  (∀ (p : PositionId) (n : ChannelId) (l : LineId) (s : State), s.offers = [] → (s.position p).linkUp = true →
      (s.channel p n).source = some (.line l) →
      ((s.channel p n).attach = .attached → (s.channel p n).talkback = true → (s.channel p n).ptt = false →
        ∃ t, exec (.spkTalkDown p n) s = .next t ∧ t.channel p n = { s.channel p n with ptt := true } ∧
          t.line l = { s.line l with
            parties := (s.line l).parties.map fun x =>
              if x.position = p ∧ x.path = .channel n then { x with talking := true } else x } ∧
          OtherLines l s t ∧ OtherChannels p n s t ∧ OnlyDelivered p s t ∧
          SameExcept [.lines, .speakers, .links, .lamps] s t) ∧
      ((s.channel p n).attach = .attached → (s.channel p n).ptt = true →
        ∃ t, exec (.spkTalkUp p n) s = .next t ∧
          t.channel p n = { s.channel p n with ptt := false, mustRelease := false } ∧
          t.line l = { s.line l with
            parties := (s.line l).parties.map fun x =>
              if x.position = p ∧ x.path = .channel n then { x with talking := false } else x } ∧
          OtherLines l s t ∧ OtherChannels p n s t ∧ OnlyDelivered p s t ∧
          SameExcept [.lines, .speakers, .links, .lamps] s t) ∧
      (((s.channel p n).attach = .waiting ∨ (s.channel p n).talkback = false) → (s.channel p n).ptt = false →
        ∃ t, exec (.spkTalkDown p n) s = .next t ∧ t.shownCode p (channelLamp n) = .deny ∧
          Raised [.keyDenied p (some (channelLamp n)) .noTalkback .turret] s t ∧ OtherPositions p s t ∧
          OnlyDelivered p s t ∧ SameExcept [.positions, .notices, .links, .lamps] s t))

/-- A KNOB event moves the residue one detent by the phase round, a fourth detent one way takes one loudspeaker step
within the knob floor and 27, and a change of both contacts sets the residue to 0 (R108, R109). Held in the model's
own form: log entry 4. -/
def Obligations.KnobDetents : Prop :=
  ∀ (p : PositionId) (j : KnobId) (a b : Bool) (s : State), s.offers = [] → (s.position p).linkUp = true →
    j.val < (s.link p).knobCount →
    ∀ (k : KnobState) (ls : Loudspeaker) (v : Step), k = (s.position p).knob j →
      ls = (if j = 0 then .ls0 else .ls1) → v = (s.speaker p).step ls → (s.speaker p).knobFloor ≤ v →
      1 ≤ (s.speaker p).knobFloor.val →
    ∃ t, exec (.knob p j a b) s = .next t ∧ OtherPositions p s t ∧ OtherSpeakers p s t ∧ OnlyDelivered p s t ∧
      (phase a b = phase k.a k.b + 1 → k.residue ≠ 3 → k.residue ≠ -5 →
        (t.position p).knob j = ⟨a, b, k.residue + 1⟩ ∧ t.speakers = s.speakers ∧ Raised [] s t) ∧
      (phase a b = phase k.a k.b + 1 → k.residue = 3 →
        (t.position p).knob j = ⟨a, b, 0⟩ ∧ ((t.speaker p).step ls).val = min 27 (v.val + 1) ∧
        Raised (if v.val < 27 then [.knob p ls ((t.speaker p).step ls)] else []) s t) ∧
      (phase a b + 1 = phase k.a k.b → k.residue ≠ -3 → k.residue ≠ 5 →
        (t.position p).knob j = ⟨a, b, k.residue - 1⟩ ∧ t.speakers = s.speakers ∧ Raised [] s t) ∧
      (phase a b + 1 = phase k.a k.b → k.residue = -3 →
        (t.position p).knob j = ⟨a, b, 0⟩ ∧
        ((t.speaker p).step ls).val = max (s.speaker p).knobFloor.val (v.val - 1) ∧
        Raised (if (s.speaker p).knobFloor < v then [.knob p ls ((t.speaker p).step ls)] else []) s t) ∧
      (phase a b = phase k.a k.b + 2 →
        (t.position p).knob j = ⟨a, b, 0⟩ ∧ t.speakers = s.speakers ∧ Raised [] s t) ∧
      (phase a b = phase k.a k.b → t.positions = s.positions ∧ t.speakers = s.speakers ∧ Raised [] s t) ∧
      SameExcept [.positions, .speakers, .notices, .links, .lamps] s t

/-- The attach event after link UP: the one WAITING channel of the position takes its IDLE line, which becomes ACTIVE
without a burst (R12, R102). At an attach opportunity the waiting channels take the line in ascending order of position
and channel, and the first one refused and every later one keep waiting with the refusal as reason: where a GUARD expiry
takes the line to IDLE or RINGING, the first originates or answers and, under an OPEN policy, up to seven more join;
where privacy goes off by its principal, they join up to the eighth place of an OPEN line (R8, R10, R13, R14, R101). That
no other event is taken between the takes is the model's choice (log entry 23), and `attachDue` is the model's own field
(log entry 4); the time is in the form of log entry 3. -/
def Obligations.LinkUpAttaches : Prop :=
  (∀ (p : PositionId) (n : ChannelId) (l : LineId) (s : State), s.offers = [] → (s.position p).linkUp = true →
    (s.channel p n).source = some (.line l) → (s.channel p n).attach = .waiting →
    (∀ m, m ≠ n → (s.channel p m).attach ≠ .waiting) → (s.line l).state = .idle → (s.line l).ok →
    ∃ t, exec (.linkUpAttach p) s = .next t ∧
      t.line l = { s.line l with
        state := .active, parties := [⟨p, .channel n, none, (s.channel p n).talkback, false, .plan⟩], missed := 0
        sz := true, rg := false, timer := none } ∧
      OtherLines l s t ∧ t.channel p n = { s.channel p n with attach := .attached, waitReason := none } ∧
      OtherChannels p n s t ∧ OnlyAttachDue p s t ∧ Raised [.lineState l .idle .active] s t ∧
      SameExcept [.lines, .speakers, .notices, .links, .lamps] s t) ∧
  (∀ (l : LineId) (due room : Nat) (reason : ResultCode) (s : State), s.offers = [] → (s.line l).state = .guard →
    (s.line l).timer = some ⟨.guard, due⟩ → (s.line l).ok → s.waiters l ≠ [] →
    ((s.line l).barge = .openPolicy ∧ room = 8 ∧ reason = .lineFull ∨
      (s.line l).barge = .closed ∧ room = 1 ∧ reason = .deniedClosed) →
    ∃ t, exec (.guardExpiry l) s = .next t ∧ t.clock = max s.clock due ∧
      t.line l = { s.line l with
        state := .active, parties := ((s.waiters l).take room).map s.partyOf, missed := 0, sz := true, rg := false
        timer := none } ∧
      OtherLines l s t ∧ AttachedInOrder l room reason s t ∧ OnlyRings s t ∧ OnlyLampQueues s t ∧
      ((s.line l).signals.rd = false → t.positions = s.positions ∧
        Raised [.lineState l .guard .idle, .lineState l .idle .active] s t) ∧
      ((s.line l).signals.rd = true → (∀ q, ¬(t.position q).rings .ring l) ∧
        Raised [.lineState l .guard .ringing, .lineRing l (s.line l).cls, .lineState l .ringing .active] s t) ∧
      SameExcept [.clock, .lines, .positions, .notices, .speakers, .links, .lamps] s t) ∧
  (∀ (p : PositionId) (l : LineId) (k : Key) (x : Party) (room : Nat) (reason : ResultCode) (s : State),
    s.offers = [] → (s.position p).linkUp = true → s.slot p (s.selected p) = some ⟨.line l, k⟩ → (s.line l).ok →
    s.attachAgree → (s.line l).principal = some x → x.position = p → x.path = .handset (s.selected p) →
    (s.line l).privacy = true →
    ((s.line l).barge = .openPolicy ∧ room = 8 - (s.line l).parties.length ∧ reason = .lineFull ∨
      (s.line l).barge = .closed ∧ room = 0 ∧ reason = .deniedClosed) →
    ∃ t, exec (.privacy p) s = .next t ∧
      t.line l = { s.line l with
        privacy := false, parties := (s.line l).parties ++ ((s.waiters l).take room).map s.partyOf } ∧
      OtherLines l s t ∧ AttachedInOrder l room reason s t ∧ OnlyDelivered p s t ∧
      SameExcept [.lines, .speakers, .links, .lamps] s t)

/-- The quiet state follows the QUIET input and SPEAKERS RESUME by the tables of R110 and R111, with their notices. Held in
the model's own form: log entry 4. That QUIET asserted in ON and deasserted in OFF or HOLDING changes no quiet state and
raises no notice is the model's choice, since the table of R110 has no row for them (log entry 20). -/
def Obligations.QuietStates : Prop :=
  ∀ (s : State) (c : Port),
    (∃ t, exec .quietAsserted s = .next t ∧ t.quiet = .on ∧ t.quietPin = true ∧
      Raised (if s.quiet = .on then [] else [.quietOn]) s t ∧
      SameExcept [.quiet, .quietPin, .notices] s t ∧ ∀ c', (t.statusByte c').getLsbD 4 = true) ∧
    (∃ t, exec .quietDeasserted s = .next t ∧ t.quietPin = false ∧
      (s.quiet = .on → t.quiet = (if s.params.quietAutoresume then .off else .holding) ∧
        Raised [.quietOff t.quiet] s t) ∧
      (s.quiet ≠ .on → t.quiet = s.quiet ∧ Raised [] s t) ∧ SameExcept [.quiet, .quietPin, .notices] s t) ∧
    ∃ t, exec (.speakersResume c) s = .next t ∧ SameExcept [.quiet, .ports] s t ∧
      (s.quiet = .holding → t.quiet = .off ∧ Answered c .ok [] s t) ∧
      (s.quiet = .on → t.quiet = .on ∧ Answered c .quietAsserted [] s t) ∧
      (s.quiet = .off → t.quiet = .off ∧ Answered c .ok [] s t)

/-! ### Mixing arithmetic -/

/-- Scaling rounds `x * M / 4096` to the nearest integer with ties away from zero, is odd in `x`, is 0 at step 0 and the
identity at step 24, takes a sample to within 55112, and above step 24 takes a full-scale sample out of the sample range
(R116). -/
def Obligations.ScalingRounds : Prop :=
  ∀ (x : Int) (s : Step), scale (-x) s = -scale x s ∧
    2 * (scale x s * 4096 - x * ladder s) ≤ 4096 ∧ 2 * (x * ladder s - scale x s * 4096) ≤ 4096 ∧
    (0 ≤ x → x * ladder s - scale x s * 4096 < 2048) ∧ scale x 0 = 0 ∧ scale x 24 = x ∧
    (-32768 ≤ x → x ≤ 32767 → -55112 ≤ scale x s ∧ scale x s ≤ 55112) ∧
    (24 < s → 32767 < scale 32767 s ∧ scale (-32768) s < -32768)

/-- A sample period forms every output from the state at its start: each line's clamped local sum of its talking
parties; each position's handset values from the slot less the own term, and its loudspeaker values from the channels
routed to it at their effective steps and the ringer, each scaled by its step and clamped; loudspeakers as 0 while the
quiet state is not OFF, and zeros on a link that is not UP. A clamp that changes a value sets its clip flag, and a flag
that goes from clear to set raises CLIP, lines first; the tone phase advances while the ringer is ON; the nibble's other
two positions are driven off (R72, R91, R92, R106, R107, R113, R114, R118 to R123, R127, R156, R161). Held in the
model's own form: log entry 3. -/
def Obligations.SamplePeriodOutputs : Prop :=
  ∀ s : State, ∃ t, exec .samplePeriod s = .next t ∧ t.clock = s.clock + 1 ∧
    (∀ p h, Heard.Mic s p (.handset h) (s.handsetMic p h)) ∧ (∀ p n, Heard.Mic s p (.channel n) (s.talkbackMic p)) ∧
    (∀ l, s.localSum l =
      (((s.line l).parties.filter fun x => x.talkCapable && x.talking).map fun x => match x.path with
        | .handset h => s.handsetMic x.position h
        | .channel _ => s.talkbackMic x.position).sum) ∧
    (∀ g, s.groupSum g = if (s.group g).defined then (((s.group g).talkers).map fun x => match x.source with
        | .handset h => if s.hook x.position h = .on then 0 else s.handsetMic x.position h
        | .channel _ => s.talkbackMic x.position).sum else 0) ∧
    (∀ p h, Heard.Handset s p h (s.handsetValue p h)) ∧
    (∀ p n, Heard.Channel s p n (s.sourceSample p n)) ∧
    (∀ p n, ((∀ h, s.hook p h = .on ∨ s.slot p h = none) ∨ (s.channel p n).level.val = 0 →
        s.effectiveStep p n = (s.channel p n).level) ∧
      ((∃ h, s.hook p h = .off ∧ s.slot p h ≠ none) → (s.channel p n).level.val ≠ 0 →
        (s.effectiveStep p n).val = max 1 ((s.channel p n).level.val - (s.speaker p).duck.val))) ∧
    (∀ p, Heard.Tone (s.position p) (s.position p).toneSample) ∧
    (∀ p ls, s.loudspeakerValue p ls =
      scale (((ascending 8).map fun n =>
          if (s.channel p n).loudspeaker = ls then scale (s.sourceSample p n) (s.effectiveStep p n) else 0).sum +
        if ls = .ls0 then scale (s.position p).toneSample (s.position p).ringerStep else 0) ((s.speaker p).step ls)) ∧
    (∀ l, (t.highwayOut.get l).sz = (s.line l).sz ∧ (t.highwayOut.get l).rg = (s.line l).rg ∧
      (t.highwayOut.get l).third = false ∧ (t.highwayOut.get l).fourth = false ∧
      (t.highwayOut.get l).sample.toInt = max (-32768) (min 32767 (s.localSum l)) ∧
      (t.lineClip.get l = true ↔
        s.lineClip.get l = true ∨ s.localSum l < -32768 ∨ 32767 < s.localSum l)) ∧
    (∀ p o, (t.positionClip.get p).get o = true ↔ (s.positionClip.get p).get o = true ∨
      (match o with
        | .h0 => s.handsetValue p .h0 < -32768 ∨ 32767 < s.handsetValue p .h0
        | .h1 => s.handsetValue p .h1 < -32768 ∨ 32767 < s.handsetValue p .h1
        | .ls0 => s.loudspeakerValue p .ls0 < -32768 ∨ 32767 < s.loudspeakerValue p .ls0
        | .ls1 => s.loudspeakerValue p .ls1 < -32768 ∨ 32767 < s.loudspeakerValue p .ls1)) ∧
    Raised (((ascending 160).filter fun l => t.lineClip.get l && !s.lineClip.get l).map NoticeBody.clipLine ++
      (ascending 32).flatMap fun p =>
        ([.h0, .h1, .ls0, .ls1].filter fun o => (t.positionClip.get p).get o && !(s.positionClip.get p).get o).map
          (NoticeBody.clipPosition p)) s t ∧
    (∀ p, t.position p = { s.position p with
      ringer := { (s.position p).ringer with
        tonePhase := (s.position p).ringer.tonePhase +
          if (s.position p).ringerCondition = .on then 1 else 0 } }) ∧
    (∀ p, (s.link p).state = .up →
      (t.turretOut.get p).state = .up ∧
      (t.turretOut.get p).samples.h0.toInt = max (-32768) (min 32767 (s.handsetValue p .h0)) ∧
      (t.turretOut.get p).samples.h1.toInt = max (-32768) (min 32767 (s.handsetValue p .h1)) ∧
      (s.quiet = .off →
        (t.turretOut.get p).samples.ls0.toInt = max (-32768) (min 32767 (s.loudspeakerValue p .ls0)) ∧
        (t.turretOut.get p).samples.ls1.toInt = max (-32768) (min 32767 (s.loudspeakerValue p .ls1))) ∧
      (s.quiet ≠ .off → (t.turretOut.get p).samples.ls0 = 0 ∧ (t.turretOut.get p).samples.ls1 = 0) ∧
      (t.turretOut.get p).updates ++ (t.link p).lampQueue = (s.link p).lampQueue ∧
      (t.turretOut.get p).updates = (s.link p).lampQueue.take 2) ∧
    (∀ p, (s.link p).state ≠ .up →
      t.turretOut.get p = ⟨(s.link p).state, ⟨0, 0, 0, 0⟩, []⟩ ∧ (t.link p).lampQueue = (s.link p).lampQueue) ∧
    SameExcept [.clock, .lineClip, .positionClip, .positions, .turretOut, .links, .highwayOut, .notices] s t

/-- LEVEL READ returns its subject's clip flags and the term count and clears those flags alone; LINE CLEAR MISSED
returns the missed count and sets it to 0 (R31, R128). The byte of a clip flag, 1 for set and 0 for clear, is the model's
choice (log entry 10). Held in the model's own form: log entry 4. -/
def Obligations.ReadAndClear : Prop :=
  ∀ (c : Port) (s : State),
    (∀ p : PositionId, ∃ t, exec (.levelRead c 0 (byteOf p.val)) s = .next t ∧
      Answered c .ok ([flagByte (s.positionClip.get p).h0, flagByte (s.positionClip.get p).h1,
        flagByte (s.positionClip.get p).ls0, flagByte (s.positionClip.get p).ls1] ++ halfBytes s.termCount) s t ∧
      (∀ q, t.positionClip.get q = if q = p then ⟨false, false, false, false⟩ else s.positionClip.get q) ∧
      SameExcept [.positionClip, .ports] s t) ∧
    (∀ l : LineId, ∃ t, exec (.levelRead c 1 (byteOf l.val)) s = .next t ∧
      Answered c .ok (flagByte (s.lineClip.get l) :: halfBytes s.termCount) s t ∧
      (∀ q, t.lineClip.get q = if q = l then false else s.lineClip.get q) ∧
      SameExcept [.lineClip, .ports] s t) ∧
    ∀ l : LineId, s.offers = [] → ∃ t, exec (.lineClearMissed c (byteOf l.val)) s = .next t ∧
      Answered c .ok [byteOf (s.line l).missed] s t ∧ t.line l = { s.line l with missed := 0 } ∧
      OtherLines l s t ∧ OnlyLampQueues s t ∧ SameExcept [.lines, .links, .lamps, .ports] s t

/-! ### The Appearance Directory -/

/-- PAGE LOAD puts a content into one buffer slot of its port and latches the page, or refuses another page with
PAGE_MISMATCH; PAGE DISCARD empties the buffer (R138, R139, R140). Held in the model's own form: log entry 4. -/
def Obligations.StagingBuffer : Prop :=
  ∀ (c : Port) (s : State),
    (∀ (pg : Fin 128) (i : Fin 16) (l : LineId) (r b u : Bool),
      ((s.stagingOf c).page = none ∨ (s.stagingOf c).page = some pg) →
      ∃ t n, exec (.pageLoad c (byteOf pg.val) (byteOf i.val) 1 (byteOf l.val) (attributeByte r b u)) s = .next t ∧
        Answered c .ok [byteOf pg.val, byteOf n] s t ∧ n = (t.stagingOf c).loaded ∧
        (t.stagingOf c).page = some pg ∧
        (∀ i', (t.stagingOf c).slots.get i' =
          if i' = i then some (.line l r b u) else (s.stagingOf c).slots.get i') ∧
        (∀ c', c' ≠ c → t.stagingOf c' = s.stagingOf c') ∧ SameExcept [.staging, .ports] s t) ∧
    (∀ (pg pg' : Fin 128) (i : Fin 16) (g : GroupId) (attrs : Byte),
      ((s.stagingOf c).page = none ∨ (s.stagingOf c).page = some pg →
        ∃ t, exec (.pageLoad c (byteOf pg.val) (byteOf i.val) 2 (byteOf g.val) attrs) s = .next t ∧
          (t.stagingOf c).slots.get i = some (.group g) ∧ SameExcept [.staging, .ports] s t) ∧
      ((s.stagingOf c).page = some pg' → pg' ≠ pg →
        ∃ t, exec (.pageLoad c (byteOf pg.val) (byteOf i.val) 2 (byteOf g.val) attrs) s = .next t ∧
          Answered c .pageMismatch [] s t ∧ SameExcept [.ports] s t)) ∧
    ∃ t, exec (.pageDiscard c) s = .next t ∧
      Answered c (if (s.stagingOf c).page.isSome then .ok else .noChange) [] s t ∧
      (t.stagingOf c).page = none ∧ (∀ i, (t.stagingOf c).slots.get i = none) ∧
      (∀ c', c' ≠ c → t.stagingOf c' = s.stagingOf c') ∧ SameExcept [.staging, .ports] s t

/-- PAGE COMMIT is refused for another page or by the guard; otherwise it applies every loaded slot, replacing,
deferring or keeping its entry by its binding, touches no other entry, and empties the buffer (R141, R142). Held in
the model's own form: log entry 4. -/
def Obligations.PageCommitApplies : Prop :=
  ∀ (c : Port) (pg : Fin 128) (s : State), s.offers = [] →
    ((s.stagingOf c).page ≠ some pg →
      ∃ t, exec (.pageCommit c (byteOf pg.val)) s = .next t ∧ Answered c .pageMismatch [] s t ∧
        SameExcept [.ports] s t) ∧
    ((s.stagingOf c).page = some pg →
      (s.guardOf (pagePosition pg) = .sealed ∨
        ∃ o, o ≠ c ∧ (s.guardOf (pagePosition pg) = .owned o ∨ s.guardOf (pagePosition pg) = .ownedPrivate o)) →
      ∃ t, exec (.pageCommit c (byteOf pg.val)) s = .next t ∧ Answered c .guarded [] s t ∧
        SameExcept [.ports] s t) ∧
    ((s.stagingOf c).page = some pg →
      (s.guardOf (pagePosition pg) = .openGuard ∨ s.guardOf (pagePosition pg) = .owned c ∨
        s.guardOf (pagePosition pg) = .ownedPrivate c) →
      ∃ t a b d, exec (.pageCommit c (byteOf pg.val)) s = .next t ∧
        Answered c .ok [byteOf a, byteOf b, byteOf d] s t ∧ a + b + d = (s.stagingOf c).loaded ∧
        (∀ i x, (s.stagingOf c).slots.get i = some x →
          t.entry (pagePosition pg) (pageKey pg i) =
            if s.bound (pagePosition pg) (pageKey pg i) = false then ⟨x, none⟩
            else if (s.entry (pagePosition pg) (pageKey pg i)).content = x then ⟨x, none⟩
            else ⟨(s.entry (pagePosition pg) (pageKey pg i)).content, some x⟩) ∧
        (∀ i, (s.stagingOf c).slots.get i = none →
          t.entry (pagePosition pg) (pageKey pg i) = s.entry (pagePosition pg) (pageKey pg i)) ∧
        (∀ q k, (q ≠ pagePosition pg ∨ ∀ i, k ≠ pageKey pg i) → t.entry q k = s.entry q k) ∧
        (t.stagingOf c).page = none ∧ (∀ i, (t.stagingOf c).slots.get i = none) ∧
        (∀ c', c' ≠ c → t.stagingOf c' = s.stagingOf c') ∧ OnlyRings s t ∧ OnlyLampQueues s t ∧
        SameExcept [.directory, .staging, .positions, .links, .lamps, .ports] s t)

/-- GUARD SET makes exactly the five allowed moves, for the port that may make them, and refuses every other
combination with NOT_PERMITTED and a number or value out of range with BAD_ARG; it leaves every buffer loaded, and a
loaded buffer that the guard forbids is refused with GUARDED (R141, R144, R145). Held in the model's own form: log
entry 4; the owner byte 255 of SEALED is the model's choice: log entry 10. -/
def Obligations.GuardSetMoves : Prop :=
  (∀ (c : Port) (a b : Byte) (s : State), 32 ≤ a.toNat ∨ 4 ≤ b.toNat →
    exec (.guardSet c a b) s = .next (s.answer c .badArg [])) ∧
  (∀ (c : Port) (p : PositionId) (code : Byte) (s : State), code.toNat < 4 →
      ∃ t, exec (.guardSet c (byteOf p.val) code) s = .next t ∧ SameExcept [.guards, .ports] s t ∧
        (∀ q, q ≠ p → t.guardOf q = s.guardOf q) ∧
        (code = 1 → s.guardOf p = .openGuard → t.guardOf p = .owned c ∧ Answered c .ok [1, byteOf c.val] s t) ∧
        (code = 2 → s.guardOf p = .openGuard ∨ s.guardOf p = .owned c →
          t.guardOf p = .ownedPrivate c ∧ Answered c .ok [2, byteOf c.val] s t) ∧
        (code = 3 → s.guardOf p = .owned c ∨ s.guardOf p = .ownedPrivate c →
          t.guardOf p = .sealed ∧ Answered c .ok [3, 255] s t) ∧
        (¬(code = 1 ∧ s.guardOf p = .openGuard) →
          ¬(code = 2 ∧ (s.guardOf p = .openGuard ∨ s.guardOf p = .owned c)) →
          ¬(code = 3 ∧ (s.guardOf p = .owned c ∨ s.guardOf p = .ownedPrivate c)) →
          t.guardOf p = s.guardOf p ∧ Answered c .notPermitted [] s t)) ∧
  (∀ (c : Port) (pg : Fin 128) (s : State), (s.stagingOf c).page = some pg →
      (s.guardOf (pagePosition pg) = .sealed ∨
        ∃ o, o ≠ c ∧ (s.guardOf (pagePosition pg) = .owned o ∨ s.guardOf (pagePosition pg) = .ownedPrivate o)) →
      ∃ t, exec (.pageCommit c (byteOf pg.val)) s = .next t ∧ Answered c .guarded [] s t ∧
        (t.stagingOf c).page = some pg ∧ SameExcept [.ports] s t)

/-- A guard leaves OPEN only through GUARD SET, and returns to OPEN only through power-on reset or a wipe of its position
taken while MNT is asserted (R144). -/
def Obligations.GuardOnlyTightens : Prop :=
  ∀ (i : Instr) (p : PositionId) (s t : State), exec i s = .next t →
    (s.guardOf p = .openGuard → t.guardOf p ≠ .openGuard →
      ∃ c a b, i = .guardSet c a b ∧ a.toNat = p.val) ∧
    (s.guardOf p ≠ .openGuard → t.guardOf p = .openGuard →
      (∃ q m, i = .powerOnReset q m) ∨ ∃ c a, i = .positionWipe c a true ∧ a.toNat = p.val)

/-- POSITION WIPE is judged by MNT and the bindings, whatever the guard; a taken one empties the position's entries
and opens its guard, and its ring queue is empty and its ringer STOPPED (R148, R149). Held in the model's own form: log
entry 4; the level of MNT comes with the command: log entry 20. -/
def Obligations.PositionWiped : Prop :=
  ∀ (c : Port) (p : PositionId) (s : State), s.offers = [] →
    (∃ t, exec (.positionWipe c (byteOf p.val) false) s = .next t ∧ Answered c .notPermitted [] s t ∧
      SameExcept [.mntPin, .ports] s t) ∧
    ((∃ k, s.bound p k = true) →
      ∃ t, exec (.positionWipe c (byteOf p.val) true) s = .next t ∧ Answered c .inUse [] s t ∧
        SameExcept [.mntPin, .ports] s t) ∧
    ((∀ k, s.bound p k = false) →
      ∃ t n, exec (.positionWipe c (byteOf p.val) true) s = .next t ∧ Answered c .ok [byteOf n] s t ∧
        n = ((s.directory.get p).items.filter fun e => decide (e.content ≠ .empty)).length ∧
        (∀ k, t.entry p k = ⟨.empty, none⟩) ∧ (∀ q, q ≠ p → ∀ k, t.entry q k = s.entry q k) ∧
        t.guardOf p = .openGuard ∧ (∀ q, q ≠ p → t.guardOf q = s.guardOf q) ∧
        OtherPositions p s t ∧ OnlyRings s t ∧ OnlyLampQueues s t ∧
        (s.ringsAgree → (t.position p).ringQueue = [] ∧ (t.position p).ringerCondition = .stopped) ∧
        SameExcept [.mntPin, .directory, .guards, .positions, .links, .lamps, .ports] s t)

/-! ### Turret links and the line highway -/

/-- A bad turret frame is silence for its period; a valid one restarts the loss timer, takes a DOWN link to TRAINING,
and on an UP link hands on its samples and its events; on a link that is not UP the events that stand before the first
ANNOUNCE are discarded. A highway frame hands a line whose sampled signals differ from the last one signal change with
the new values; a timeslot without a card reads as RD off, FL off, LF on and silence (R151, R154, R155, R158, R159). Held
in the model's own form: log entries 3, 4. Two clauses are the model's reading: events that the part ignores in every state
are dropped with the frame (log entry 18), and an ANNOUNCE waits as a delivered event (log entry 7). -/
def Obligations.InboundFrames : Prop :=
  (∀ (p : PositionId) (s : State),
      (∃ t, exec (.turretFrame p .bad) s = .next t ∧ t.link p = { s.link p with mics := ⟨0, 0, 0⟩ } ∧
        OtherLinks p s t ∧ SameExcept [.links] s t) ∧
      ∀ (m0 m1 m2 : Sample) (events : List TurretEvent),
        ∃ t, exec (.turretFrame p (.valid m0 m1 m2 events)) s = .next t ∧ OtherLinks p s t ∧
          SameExcept [.links] s t ∧ (t.link p).lossTimer = some (s.clock + 400) ∧
          (t.link p).lampQueue = (s.link p).lampQueue ∧ (t.link p).layout = (s.link p).layout ∧
          ((s.link p).state = .up → (t.link p).state = .up ∧ (t.link p).mics = ⟨m0, m1, m2⟩ ∧
            (t.link p).delivered = (s.link p).delivered ++ events.filterMap deliverable) ∧
          ((s.link p).state ≠ .up → (t.link p).state = .training ∧ (t.link p).mics = ⟨0, 0, 0⟩ ∧
            ((∀ a b, .announce a b ∉ events) → (t.link p).delivered = (s.link p).delivered) ∧
            (∀ before a b behind, events = before ++ .announce a b :: behind → (∀ a' b', .announce a' b' ∉ before) →
              (t.link p).delivered =
                (s.link p).delivered ++ .announce a b :: behind.filterMap deliverable))) ∧
  (∀ (slots : Table 160 Timeslot) (s : State), ∃ t, exec (.highwayFrame slots) s = .next t ∧
      SameExcept [.highway] s t ∧
      ∀ (l : LineId) (now : Signals) (voice : Sample),
        ((slots.get l).equipped = true → now = (slots.get l).signals ∧ voice = (slots.get l).sample) →
        ((slots.get l).equipped = false → now = ⟨false, false, true⟩ ∧ voice = 0) →
        (t.highway.get l).last = now ∧ (t.highway.get l).far = voice ∧
          (t.highway.get l).handed =
            (s.highway.get l).handed ++ if now = (s.highway.get l).last then [] else [now])

/-- An ANNOUNCE in TRAINING: a key count of 1 to 64 brings the link UP with its layout, a full refresh and LINK_UP;
any other raises LINK_REJECT and changes no record. An ANNOUNCE on an UP link is a re-announce: the loss with cause
REANNOUNCE first, with the slots emptied, the hooks ON, the line channels WAITING and LINK_DOWN raised, then the same
judgement in TRAINING; the loss timer runs on and the samples of its frame stay (R55, R56, R67, R102, R151, R152, R153,
R155). Held in the model's own form: log entry 4. -/
def Obligations.AnnounceJudged : Prop :=
  ∀ (p : PositionId) (kc kn : Byte) (s : State), s.offers = [] →
    ((s.link p).state = .training → (s.link p).lampQueue = [] →
      (∀ y : Layout, 1 ≤ kc.toNat → kc.toNat ≤ 64 → y = (if kc.toNat ≤ 32 then .keys32 else .keys64) →
        ∃ t, exec (.announce p kc kn) s = .next t ∧ LinkCameUp p y kn s t ∧ (t.link p).mics = (s.link p).mics ∧
          t.position p = { s.position p with linkUp := true, layout := y } ∧ OtherPositions p s t ∧
          Raised [.linkUp p y (min 2 kn.toNat)] s t ∧ SameExcept [.positions, .links, .lamps, .notices] s t) ∧
      (kc.toNat = 0 ∨ 64 < kc.toNat →
        ∃ t, exec (.announce p kc kn) s = .next t ∧
          t.link p = { s.link p with delivered := (t.link p).delivered } ∧ OtherLinks p s t ∧
          Raised [.linkReject p kc] s t ∧ SameExcept [.links, .notices] s t)) ∧
    ((s.link p).state = .up →
      (∀ y : Layout, 1 ≤ kc.toNat → kc.toNat ≤ 64 → y = (if kc.toNat ≤ 32 then .keys32 else .keys64) →
        ∃ t, exec (.announce p kc kn) s = .next t ∧ LinkCameUp p y kn s t ∧ (t.link p).mics = (s.link p).mics ∧
          PositionCleared p s t ∧ (t.position p).linkUp = true ∧ (t.position p).layout = y ∧
          (s.linesOk → ∃ bs, Raised (bs ++ [.linkDown p .reannounce, .linkUp p y (min 2 kn.toNat)]) s t) ∧
          SameExcept [.lines, .positions, .lamps, .groups, .speakers, .termCount, .directory, .links, .notices] s t) ∧
      (kc.toNat = 0 ∨ 64 < kc.toNat →
        ∃ t, exec (.announce p kc kn) s = .next t ∧ (t.link p).state = .training ∧
          (t.link p).lossTimer = (s.link p).lossTimer ∧ (t.link p).lampQueue = [] ∧
          (t.link p).layout = (s.link p).layout ∧ (t.link p).knobCount = (s.link p).knobCount ∧
          (t.lamps.get p).stale = true ∧ PositionCleared p s t ∧ (t.position p).linkUp = false ∧
          (t.position p).layout = (s.position p).layout ∧
          (s.linesOk → ∃ bs, Raised (bs ++ [.linkDown p .reannounce, .linkReject p kc]) s t) ∧
          SameExcept [.lines, .positions, .lamps, .groups, .speakers, .termCount, .directory, .links, .notices] s t))

/-- The loss of an UP link takes it DOWN, empties its lamp queue and the position's slots, sets its hooks ON, leaves
its line channels WAITING with LINK_DOWN and its groups without it, lowers the term count by the slots' costs and raises
LINK_DOWN last. Every party of the position leaves its line: one with other parties keeps its state, and one without
enters GUARD. From TRAINING the link only goes DOWN (R20, R55, R89, R102, R153, R183). Held in the model's own form: log
entry 3. -/
def Obligations.LinkLost : Prop :=
  ∀ (p : PositionId) (due : Nat) (s : State), s.offers = [] → (s.link p).lossTimer = some due →
    ((s.link p).state = .up →
      ∃ t, exec (.lossTimerExpiry p) s = .next t ∧ t.clock = max s.clock due ∧ (t.link p).state = .down ∧
        (t.link p).lossTimer = none ∧ (t.link p).lampQueue = [] ∧ (t.link p).layout = (s.link p).layout ∧
        (t.link p).knobCount = (s.link p).knobCount ∧ (t.lamps.get p).stale = true ∧
        (t.position p).linkUp = false ∧ PositionCleared p s t ∧ t.selected p = s.selected p ∧
        (s.linesOk → ∃ bs, Raised (bs ++ [.linkDown p .timeout]) s t) ∧
        (s.linesOk → s.slotsAgree → s.attachAgree → (∀ q n, q ≠ p → (s.channel q n).attach ≠ .waiting) →
          ∀ l, (t.line l).parties = (s.line l).parties.filter (fun x => decide (x.position ≠ p)) ∧
            ((t.line l).parties = (s.line l).parties → t.line l = s.line l) ∧
            ((t.line l).parties ≠ (s.line l).parties → (t.line l).parties ≠ [] →
              (t.line l).state = (s.line l).state) ∧
            ((t.line l).parties ≠ (s.line l).parties → (t.line l).parties = [] →
              t.line l = { s.line l with
                state := .guard, parties := [], privacy := false, sz := false, rg := false, unanswered := false
                burstCount := 0, timer := some ⟨.guard, t.clock + s.params.guardTime * 8⟩ })) ∧
        SameExcept [.clock, .lines, .positions, .lamps, .groups, .speakers, .termCount, .directory, .links,
          .notices] s t) ∧
    ((s.link p).state = .training →
      ∃ t, exec (.lossTimerExpiry p) s = .next t ∧ t.clock = max s.clock due ∧ (t.link p).state = .down ∧
        (t.link p).lossTimer = none ∧ OtherLinks p s t ∧ SameExcept [.clock, .links] s t)

/-! ### Controller ports -/

/-- A request frame is passed on by a free port, answered by the port itself when its number or argument count is
wrong, and dropped when the port is not free; every transfer shifts out the status byte, then zeros (R163, R165,
R166). Held in the model's own form: log entry 4. -/
def Obligations.RequestFrameDispatched : Prop :=
  ∀ (c : Port) (tag number : Byte) (args extra : List Byte) (s : State), args.length + 2 < 65536 →
    number.toNat ≠ 25 →
    ∃ t, exec (.requestFrame c (frameBytes tag number.toNat args ++ extra)) s = .next t ∧
      (∀ c', c' ≠ c → t.port c' = s.port c') ∧ SameExcept [.ports] s t ∧
      (t.port c).dataOut = s.statusByte c :: List.replicate (args.length + extra.length + 3) 0 ∧
      (t.port c).malformed = false ∧ (t.port c).discard = (s.port c).discard ∧
      ((s.port c).state = .idle → (s.port c).discard = false →
        (t.port c).dropped = false ∧
        (catalogueArgs number.toNat = some args.length →
          (t.port c).state = .busy ∧ (t.port c).inFlight = some ⟨tag, number, args⟩ ∧
            (t.port c).slot = (s.port c).slot) ∧
        (∀ n, catalogueArgs number.toNat = some n → n ≠ args.length →
          (t.port c).state = .ready ∧ (t.port c).slot = some [0, 2, tag, 17] ∧ (t.port c).readPosition = 0 ∧
            (t.port c).inFlight = (s.port c).inFlight) ∧
        (number.toNat = 0 ∨ 29 < number.toNat →
          (t.port c).state = .ready ∧ (t.port c).slot = some [0, 3, tag, 16, number] ∧
            (t.port c).readPosition = 0 ∧ (t.port c).inFlight = (s.port c).inFlight)) ∧
      ((s.port c).state ≠ .idle ∨ (s.port c).discard = true →
        (t.port c).dropped = true ∧ (t.port c).state = (s.port c).state ∧ (t.port c).slot = (s.port c).slot ∧
          (t.port c).readPosition = (s.port c).readPosition ∧ (t.port c).inFlight = (s.port c).inFlight)

/-- A status poll of one byte shifts out the status byte and clears its two flags, one without a whole byte leaves them; a
malformed frame sets MALFORMED in every port state and reaches no block; the status byte gives RESPONSE_READY, the two
flags, the ATTN level and QUIET in bits 0 to 4 and 0 above (R163, R164, R168). The zeros that a malformed transfer shifts
out after its status byte are the model's reading: log entry 14. -/
def Obligations.StatusShiftedOut : Prop :=
  (∀ (c : Port) (s : State),
      (∃ t, exec (.statusPoll c []) s = .next t ∧ t.port c = { s.port c with dataOut := [] } ∧
        (∀ c', c' ≠ c → t.port c' = s.port c') ∧ SameExcept [.ports] s t) ∧
      (∀ b : Byte, ∃ t, exec (.statusPoll c [b]) s = .next t ∧
        t.port c = { s.port c with dataOut := [s.statusByte c], dropped := false, malformed := false } ∧
        (∀ c', c' ≠ c → t.port c' = s.port c') ∧ SameExcept [.ports] s t) ∧
      ∀ bytes : List Byte, judgeTransfer bytes = .malformed →
        ∃ t, exec (.malformedFrame c bytes) s = .next t ∧
          t.port c = { s.port c with
            dataOut := s.statusByte c :: List.replicate (bytes.length - 1) 0, dropped := false, malformed := true } ∧
          (∀ c', c' ≠ c → t.port c' = s.port c') ∧ SameExcept [.ports] s t) ∧
  (∀ (c : Port) (s : State),
      ((s.statusByte c).getLsbD 0 = true ↔ (s.port c).state = .ready) ∧
      (s.statusByte c).getLsbD 1 = (s.port c).dropped ∧ (s.statusByte c).getLsbD 2 = (s.port c).malformed ∧
      ((s.statusByte c).getLsbD 3 = true ↔
        (s.port c).state = .ready ∨ (s.noticeQueue c).threshold ≤ (s.noticeQueue c).queue.length ∨
          (s.noticeQueue c).ageAttention = true) ∧
      ((s.statusByte c).getLsbD 4 = true ↔ s.quiet ≠ .off) ∧
      ∀ i, 5 ≤ i → (s.statusByte c).getLsbD i = false)

/-- A returned result fills the slot as a response frame and makes the port READY, or is discarded while the discard
mark is on; a pure read then shifts the response out from the read position after the status byte and a zero, empties
the slot once its last byte has gone, and shifts zeros where no response waits (R166, R167). Held in the model's own
form: log entry 4. -/
def Obligations.ResponsesReturned : Prop :=
  (∀ (c : Port) (f : InFlight) (a : Answer) (s : State), (s.port c).inFlight = some f → (s.port c).answer = some a →
      ∃ t, exec (.resultReturn c) s = .next t ∧ (∀ c', c' ≠ c → t.port c' = s.port c') ∧ SameExcept [.ports] s t ∧
        (t.port c).inFlight = none ∧ (t.port c).answer = none ∧ (t.port c).discard = false ∧
        ((s.port c).discard = false →
          (t.port c).state = .ready ∧ (t.port c).readPosition = 0 ∧
          (t.port c).slot = some (byteOf ((a.data.length + 2) / 256) :: byteOf (a.data.length + 2) :: f.tag ::
            byteOf a.result.code :: a.data) ∧ t.attn c = true) ∧
        ((s.port c).discard = true →
          (t.port c).state = (s.port c).state ∧ (t.port c).slot = (s.port c).slot ∧
            (t.port c).readPosition = (s.port c).readPosition)) ∧
  (∀ (c : Port) (extra : List Byte) (s : State),
      (∀ frame : List Byte, (s.port c).state = .ready → (s.port c).slot = some frame →
        ∃ t, exec (.pureRead c (0 :: 0 :: extra)) s = .next t ∧
          (t.port c).dataOut = s.statusByte c :: 0 ::
            ((frame.drop (s.port c).readPosition).take extra.length ++
              List.replicate (extra.length - (frame.length - (s.port c).readPosition)) 0) ∧
          (frame.length - (s.port c).readPosition ≤ extra.length →
            (t.port c).state = .idle ∧ (t.port c).slot = none ∧ (t.port c).readPosition = 0) ∧
          (extra.length < frame.length - (s.port c).readPosition →
            (t.port c).state = .ready ∧ (t.port c).slot = some frame ∧
              (t.port c).readPosition = (s.port c).readPosition + extra.length) ∧
          (t.port c).dropped = false ∧ (t.port c).malformed = false ∧
          (∀ c', c' ≠ c → t.port c' = s.port c') ∧ SameExcept [.ports] s t) ∧
      ((s.port c).state ≠ .ready →
        ∃ t, exec (.pureRead c (0 :: 0 :: extra)) s = .next t ∧
          t.port c = { s.port c with
            dataOut := s.statusByte c :: List.replicate (extra.length + 1) 0, dropped := false, malformed := false } ∧
          (∀ c', c' ≠ c → t.port c' = s.port c') ∧ SameExcept [.ports] s t))

/-- PORT RESET places its own response, turns the discard mark on when the port was BUSY, clears the two flags, and empties
the port's staging buffer and notice queue; the setup is kept. A request frame that carries it is taken so in every port
state; one with arguments is answered with BAD_ARG on an IDLE port and dropped on another (R165, R169, R177). That the
frame performs the reset at once and that the discard mark does not drop a frame with arguments on an IDLE port are the
model's reading: log entry 12. -/
def Obligations.PortResets : Prop :=
  (∀ (c : Port) (tag : Byte) (s : State), ∃ t, exec (.portReset c tag) s = .next t ∧
    t.port c = { s.port c with
      state := .ready, slot := some [0, 2, tag, 0], readPosition := 0, dropped := false, malformed := false
      discard := (s.port c).discard || decide ((s.port c).state = .busy) } ∧ PortEmptied c s t) ∧
  (∀ (c : Port) (tag : Byte) (extra : List Byte) (s : State),
    ∃ t, exec (.requestFrame c (frameBytes tag 25 [] ++ extra)) s = .next t ∧
      t.port c = { s.port c with
        state := .ready, slot := some [0, 2, tag, 0], readPosition := 0, dropped := false, malformed := false
        discard := (s.port c).discard || decide ((s.port c).state = .busy)
        dataOut := s.statusByte c :: List.replicate (extra.length + 3) 0 } ∧ PortEmptied c s t) ∧
  (∀ (c : Port) (tag a : Byte) (args extra : List Byte) (s : State), args.length + 3 < 65536 →
    ∃ t, exec (.requestFrame c (frameBytes tag 25 (a :: args) ++ extra)) s = .next t ∧
      t.port c =
        (if (s.port c).state = .idle then { s.port c with
          state := .ready, slot := some [0, 2, tag, 17], readPosition := 0, dropped := false, malformed := false
          dataOut := s.statusByte c :: List.replicate (args.length + extra.length + 4) 0 }
        else { s.port c with
          dropped := true, malformed := false
          dataOut := s.statusByte c :: List.replicate (args.length + extra.length + 4) 0 }) ∧
      (∀ c', c' ≠ c → t.port c' = s.port c') ∧ SameExcept [.ports] s t)

/-- SET PARAMETER clamps the value to the parameter's range and step and returns the value taken; CLAMPED says that it
differs (R170). Held in the model's own form: log entry 4. -/
def Obligations.ParameterSet : Prop :=
  ∀ (c : Port) (v : Half) (s : State),
    (∀ (n : Nat) (lo hi step taken : Nat) (after : Params),
      (n, lo, hi, step) ∈ [(0, 100, 2000, 100), (1, 200, 5000, 100), (2, 1, 30, 1), (3, 1, 8, 1),
        (4, 10, 600, 10), (5, 10, 600, 10)] →
      (v.toNat < lo → taken = if v.toNat = 0 ∧ (n = 4 ∨ n = 5) then 0 else lo) →
      (hi < v.toNat → taken = hi) →
      (lo ≤ v.toNat → v.toNat ≤ hi → taken ≤ v.toNat ∧ v.toNat < taken + step ∧ taken % step = 0) →
      after = (match n with
        | 0 => { s.params with guardTime := taken }
        | 1 => { s.params with burstTime := taken }
        | 2 => { s.params with answerWait := taken }
        | 3 => { s.params with burstLimit := taken }
        | 4 => { s.params with holdRecall := taken }
        | _ => { s.params with recallLimit := taken }) →
      ∃ t, exec (.setParameter c (byteOf n) v) s = .next t ∧ t.params = after ∧
        Answered c (if taken = v.toNat then .ok else .clamped) (byteOf n :: halfBytes taken) s t ∧
        SameExcept [.params, .ports] s t) ∧
    (v.toNat < 2 →
      ∃ t, exec (.setParameter c 6 v) s = .next t ∧
        t.params = { s.params with quietAutoresume := decide (v.toNat = 1) } ∧
        Answered c .ok (6 :: halfBytes v.toNat) s t ∧ SameExcept [.params, .ports] s t)

/-! ### Notices -/

/-- NOTICE SETUP takes the mask, the threshold and the age limit by the table of R178; NOTICE READ removes the oldest
notices and clears age-attention, a count above 8 is BAD_ARG, and the read that a port has in flight gets its response in
the same event, so that ATTN is asserted right after it (log entry 21); the age timer's expiry sets age-attention (R178,
R181, R182). Held in the model's own form: log entries 3, 4. -/
def Obligations.NoticeRequests : Prop :=
  ∀ (c : Port) (s : State),
    (∀ (m th : Byte) (age : Half), m.toNat < 64 →
      ∃ t, exec (.noticeSetup c m th age) s = .next t ∧
        (t.noticeQueue c).mask.toNat = m.toNat ∧
        (t.noticeQueue c).threshold =
          (if th.toNat < 4 then 1 else if th.toNat < 8 then 4 else if th.toNat < 16 then 8 else 16) ∧
        (t.noticeQueue c).ageLimit =
          (if age.toNat < 10 then 10 else if 2550 < age.toNat then 2550 else age.toNat - age.toNat % 10) ∧
        (t.noticeQueue c).queue = (s.noticeQueue c).queue ∧
        (t.noticeQueue c).lostMark = (s.noticeQueue c).lostMark ∧
        (t.noticeQueue c).ageAttention = (s.noticeQueue c).ageAttention ∧
        (t.noticeQueue c).ageTimer = (s.noticeQueue c).ageTimer ∧
        Answered c
          (if (t.noticeQueue c).threshold = th.toNat ∧ (t.noticeQueue c).ageLimit = age.toNat then .ok
            else .clamped)
          (m :: byteOf (t.noticeQueue c).threshold :: halfBytes (t.noticeQueue c).ageLimit) s t ∧
        (∀ c', c' ≠ c → t.noticeQueue c' = s.noticeQueue c') ∧ SameExcept [.notices, .ports] s t) ∧
    (∀ n : Byte, n.toNat ≤ 8 →
      ∃ t data, exec (.noticeRead c n) s = .next t ∧
        (t.noticeQueue c).queue = (s.noticeQueue c).queue.drop n.toNat ∧
        (t.noticeQueue c).ageAttention = false ∧ (t.noticeQueue c).lostMark = (s.noticeQueue c).lostMark ∧
        (t.noticeQueue c).ageTimer =
          (if (s.noticeQueue c).queue.length ≤ n.toNat then none
            else some (s.clock + (s.noticeQueue c).ageLimit * 8)) ∧
        (t.noticeQueue c).mask = (s.noticeQueue c).mask ∧
        (t.noticeQueue c).threshold = (s.noticeQueue c).threshold ∧
        (t.noticeQueue c).ageLimit = (s.noticeQueue c).ageLimit ∧
        data = byteOf (min n.toNat (s.noticeQueue c).queue.length) ::
          ((s.noticeQueue c).queue.take n.toNat).flatMap Notice.bytes ++
          [byteOf ((s.noticeQueue c).queue.length - n.toNat), flagByte (s.noticeQueue c).lostMark] ∧
        ((∀ f, (s.port c).inFlight = some f → f.number ≠ 29) → Answered c .ok data s t) ∧
        (∀ f, (s.port c).inFlight = some f → f.number = 29 → ReadReturned c f .ok data s t) ∧
        (∀ c', c' ≠ c → t.noticeQueue c' = s.noticeQueue c') ∧ SameExcept [.notices, .ports] s t) ∧
    (∀ n : Byte, 9 ≤ n.toNat →
      ∃ t, exec (.noticeRead c n) s = .next t ∧
        ((∀ f, (s.port c).inFlight = some f → f.number ≠ 29) → Answered c .badArg [] s t) ∧
        (∀ f, (s.port c).inFlight = some f → f.number = 29 → ReadReturned c f .badArg [] s t) ∧
        SameExcept [.ports] s t) ∧
    ∀ due, (s.noticeQueue c).ageTimer = some due →
      ∃ t, exec (.ageTimerExpiry c) s = .next t ∧ t.clock = max s.clock due ∧
        t.noticeQueue c = { s.noticeQueue c with ageTimer := none, ageAttention := true } ∧
        t.attn c = true ∧ (∀ c', c' ≠ c → t.noticeQueue c' = s.noticeQueue c') ∧
        SameExcept [.clock, .notices] s t

/-- A notice offered to a port that subscribes is appended with the lost mark, or on a full queue discarded with the
mark turned on; a port that does not subscribe is not touched (R176, R179). Held in the model's own form: log entry 3.
-/
def Obligations.NoticeIntake : Prop :=
  ∀ (b : NoticeBody) (c : Port) (s : State),
    ((s.noticeQueue c).mask.getLsbD b.cls.code = false → (s.raise b).noticeQueue c = s.noticeQueue c) ∧
    ((s.noticeQueue c).mask.getLsbD b.cls.code = true → (s.noticeQueue c).queue.length < 32 →
      (s.raise b).noticeQueue c = { s.noticeQueue c with
        queue := (s.noticeQueue c).queue ++ [⟨b, (s.noticeQueue c).lostMark⟩], lostMark := false
        ageTimer := if (s.noticeQueue c).ageAttention then (s.noticeQueue c).ageTimer
          else some (s.clock + (s.noticeQueue c).ageLimit * 8) }) ∧
    ((s.noticeQueue c).mask.getLsbD b.cls.code = true → 32 ≤ (s.noticeQueue c).queue.length →
      (s.raise b).noticeQueue c = { s.noticeQueue c with lostMark := true })
end

