-- ==== Sys2Proof/Laws/Tables.lean ====
section
/-! SUPPORT. The laws of `Table`: what a record reads as after a write, a map or a fill, and that a table is the function
of its records. -/

namespace Sys2Proof

variable {n : Nat} {α β : Type}

@[simp] theorem Table.get_set_self (t : Table n α) (i : Fin n) (a : α) : (t.set i a).get i = a := by
  simp [Table.get, Table.set]

@[simp] theorem Table.get_set_ne (t : Table n α) {i j : Fin n} (a : α) (h : j ≠ i) :
    (t.set i a).get j = t.get j := by
  have : ¬ i.val = j.val := fun e => h (Fin.ext e.symm)
  simp [Table.get, Table.set, this]

/-- A write is read where it was made and nowhere else. -/
theorem Table.get_set (t : Table n α) (i j : Fin n) (a : α) :
    (t.set i a).get j = if j = i then a else t.get j := by
  by_cases h : j = i
  · subst h; simp
  · simp [h]

@[simp] theorem Table.get_ofFn (f : Fin n → α) (i : Fin n) : (Table.ofFn f).get i = f i := by
  simp [Table.get, Table.ofFn]

@[simp] theorem Table.get_fill (a : α) (i : Fin n) : (Table.fill n a).get i = a := by
  simp [Table.get, Table.fill]

@[simp] theorem Table.get_map (f : α → β) (t : Table n α) (i : Fin n) : (t.map f).get i = f (t.get i) := by
  simp [Table.get, Table.map]

/-- Two tables with the same records are one. -/
theorem Table.ext_get {s t : Table n α} (h : ∀ i, s.get i = t.get i) : s = t := by
  cases s with
  | mk xs hx =>
    cases t with
    | mk ys hy =>
      have : xs = ys := by
        apply List.ext_getElem (by rw [hx, hy])
        intro i h1 h2
        exact h ⟨i, hx ▸ h1⟩
      subst this
      rfl

/-- Of two writes of one record the later one stands. -/
@[simp] theorem Table.set_set (t : Table n α) (i : Fin n) (a b : α) : (t.set i a).set i b = t.set i b := by
  apply Table.ext_get
  intro j
  by_cases h : j = i
  · subst h; simp
  · simp [h]

/-- Writing back the record that stands there changes nothing. -/
@[simp] theorem Table.set_get (t : Table n α) (i : Fin n) : t.set i (t.get i) = t := by
  apply Table.ext_get
  intro j
  by_cases h : j = i
  · subst h; simp
  · simp [h]

/-- The list of a table is its records in ascending order. -/
theorem Table.items_eq_ofFn (t : Table n α) : t.items = List.ofFn t.get := by
  apply List.ext_getElem (by simp [t.length_eq])
  intro i h1 h2
  simp [Table.get]

theorem Table.mem_items {t : Table n α} {a : α} : a ∈ t.items ↔ ∃ i, t.get i = a := by
  rw [t.items_eq_ofFn]
  simp [List.mem_ofFn]

/-- What the records add up to after a write: the new record's part in place of the old one's. -/
theorem Table.sum_set (t : Table n α) (f : α → Nat) (i : Fin n) (a : α) :
    ((t.set i a).items.map f).sum + f (t.get i) = (t.items.map f).sum + f a := by
  cases t with
  | mk xs hx =>
    have hi : i.val < xs.length := by rw [hx]; exact i.isLt
    have key : ∀ (ys : List α) (k : Nat) (hk : k < ys.length),
        ((ys.set k a).map f).sum + f ys[k] = (ys.map f).sum + f a := by
      intro ys
      induction ys with
      | nil => intro k hk; simp at hk
      | cons y ys ih =>
        intro k hk
        cases k with
        | zero => simp; omega
        | succ k =>
          have := ih k (by simpa using hk)
          simp only [List.set_cons_succ, List.map_cons, List.sum_cons, List.getElem_cons_succ]
          omega
    exact key xs i.val hi

end Sys2Proof
end

