-- ==== Sys2Proof/Laws/State.lean ====
section
/-! SUPPORT. One lemma per field per update of State: what an update leaves as it was. Every one is true by `rfl`. -/

namespace Sys2Proof.Machine

variable (s : State)

/-! ### State.setLine -/

@[simp] theorem State.setLine_pending (l : LineId) (x : Line) : (s.setLine l x).pending = s.pending := rfl
@[simp] theorem State.setLine_clock (l : LineId) (x : Line) : (s.setLine l x).clock = s.clock := rfl
@[simp] theorem State.setLine_offers (l : LineId) (x : Line) : (s.setLine l x).offers = s.offers := rfl
@[simp] theorem State.setLine_positions (l : LineId) (x : Line) : (s.setLine l x).positions = s.positions := rfl
@[simp] theorem State.setLine_lamps (l : LineId) (x : Line) : (s.setLine l x).lamps = s.lamps := rfl
@[simp] theorem State.setLine_groups (l : LineId) (x : Line) : (s.setLine l x).groups = s.groups := rfl
@[simp] theorem State.setLine_speakers (l : LineId) (x : Line) : (s.setLine l x).speakers = s.speakers := rfl
@[simp] theorem State.setLine_quiet (l : LineId) (x : Line) : (s.setLine l x).quiet = s.quiet := rfl
@[simp] theorem State.setLine_quietPin (l : LineId) (x : Line) : (s.setLine l x).quietPin = s.quietPin := rfl
@[simp] theorem State.setLine_mntPin (l : LineId) (x : Line) : (s.setLine l x).mntPin = s.mntPin := rfl
@[simp] theorem State.setLine_termCount (l : LineId) (x : Line) : (s.setLine l x).termCount = s.termCount := rfl
@[simp] theorem State.setLine_lineClip (l : LineId) (x : Line) : (s.setLine l x).lineClip = s.lineClip := rfl
@[simp] theorem State.setLine_positionClip (l : LineId) (x : Line) : (s.setLine l x).positionClip = s.positionClip :=
  rfl
@[simp] theorem State.setLine_directory (l : LineId) (x : Line) : (s.setLine l x).directory = s.directory := rfl
@[simp] theorem State.setLine_guards (l : LineId) (x : Line) : (s.setLine l x).guards = s.guards := rfl
@[simp] theorem State.setLine_staging (l : LineId) (x : Line) : (s.setLine l x).staging = s.staging := rfl
@[simp] theorem State.setLine_links (l : LineId) (x : Line) : (s.setLine l x).links = s.links := rfl
@[simp] theorem State.setLine_turretOut (l : LineId) (x : Line) : (s.setLine l x).turretOut = s.turretOut := rfl
@[simp] theorem State.setLine_highway (l : LineId) (x : Line) : (s.setLine l x).highway = s.highway := rfl
@[simp] theorem State.setLine_highwayOut (l : LineId) (x : Line) : (s.setLine l x).highwayOut = s.highwayOut := rfl
@[simp] theorem State.setLine_ports (l : LineId) (x : Line) : (s.setLine l x).ports = s.ports := rfl
@[simp] theorem State.setLine_params (l : LineId) (x : Line) : (s.setLine l x).params = s.params := rfl
@[simp] theorem State.setLine_notices (l : LineId) (x : Line) : (s.setLine l x).notices = s.notices := rfl

/-! ### State.setPosition -/

@[simp] theorem State.setPosition_pending (p : PositionId) (x : Position) : (s.setPosition p x).pending = s.pending :=
  rfl
@[simp] theorem State.setPosition_clock (p : PositionId) (x : Position) : (s.setPosition p x).clock = s.clock := rfl
@[simp] theorem State.setPosition_offers (p : PositionId) (x : Position) : (s.setPosition p x).offers = s.offers :=
  rfl
@[simp] theorem State.setPosition_lines (p : PositionId) (x : Position) : (s.setPosition p x).lines = s.lines := rfl
@[simp] theorem State.setPosition_lamps (p : PositionId) (x : Position) : (s.setPosition p x).lamps = s.lamps := rfl
@[simp] theorem State.setPosition_groups (p : PositionId) (x : Position) : (s.setPosition p x).groups = s.groups :=
  rfl
@[simp] theorem State.setPosition_speakers (p : PositionId) (x : Position) : (s.setPosition p x).speakers = s.speakers :=
  rfl
@[simp] theorem State.setPosition_quiet (p : PositionId) (x : Position) : (s.setPosition p x).quiet = s.quiet := rfl
@[simp] theorem State.setPosition_quietPin (p : PositionId) (x : Position) : (s.setPosition p x).quietPin = s.quietPin :=
  rfl
@[simp] theorem State.setPosition_mntPin (p : PositionId) (x : Position) : (s.setPosition p x).mntPin = s.mntPin :=
  rfl
@[simp] theorem State.setPosition_termCount (p : PositionId) (x : Position) : (s.setPosition p x).termCount = s.termCount :=
  rfl
@[simp] theorem State.setPosition_lineClip (p : PositionId) (x : Position) : (s.setPosition p x).lineClip = s.lineClip :=
  rfl
@[simp] theorem State.setPosition_positionClip (p : PositionId) (x : Position) : (s.setPosition p x).positionClip = s.positionClip :=
  rfl
@[simp] theorem State.setPosition_directory (p : PositionId) (x : Position) : (s.setPosition p x).directory = s.directory :=
  rfl
@[simp] theorem State.setPosition_guards (p : PositionId) (x : Position) : (s.setPosition p x).guards = s.guards :=
  rfl
@[simp] theorem State.setPosition_staging (p : PositionId) (x : Position) : (s.setPosition p x).staging = s.staging :=
  rfl
@[simp] theorem State.setPosition_links (p : PositionId) (x : Position) : (s.setPosition p x).links = s.links := rfl
@[simp] theorem State.setPosition_turretOut (p : PositionId) (x : Position) : (s.setPosition p x).turretOut = s.turretOut :=
  rfl
@[simp] theorem State.setPosition_highway (p : PositionId) (x : Position) : (s.setPosition p x).highway = s.highway :=
  rfl
@[simp] theorem State.setPosition_highwayOut (p : PositionId) (x : Position) : (s.setPosition p x).highwayOut = s.highwayOut :=
  rfl
@[simp] theorem State.setPosition_ports (p : PositionId) (x : Position) : (s.setPosition p x).ports = s.ports := rfl
@[simp] theorem State.setPosition_params (p : PositionId) (x : Position) : (s.setPosition p x).params = s.params :=
  rfl
@[simp] theorem State.setPosition_notices (p : PositionId) (x : Position) : (s.setPosition p x).notices = s.notices :=
  rfl

/-! ### State.setGroup -/

@[simp] theorem State.setGroup_pending (g : GroupId) (x : Group) : (s.setGroup g x).pending = s.pending := rfl
@[simp] theorem State.setGroup_clock (g : GroupId) (x : Group) : (s.setGroup g x).clock = s.clock := rfl
@[simp] theorem State.setGroup_offers (g : GroupId) (x : Group) : (s.setGroup g x).offers = s.offers := rfl
@[simp] theorem State.setGroup_lines (g : GroupId) (x : Group) : (s.setGroup g x).lines = s.lines := rfl
@[simp] theorem State.setGroup_positions (g : GroupId) (x : Group) : (s.setGroup g x).positions = s.positions := rfl
@[simp] theorem State.setGroup_lamps (g : GroupId) (x : Group) : (s.setGroup g x).lamps = s.lamps := rfl
@[simp] theorem State.setGroup_speakers (g : GroupId) (x : Group) : (s.setGroup g x).speakers = s.speakers := rfl
@[simp] theorem State.setGroup_quiet (g : GroupId) (x : Group) : (s.setGroup g x).quiet = s.quiet := rfl
@[simp] theorem State.setGroup_quietPin (g : GroupId) (x : Group) : (s.setGroup g x).quietPin = s.quietPin := rfl
@[simp] theorem State.setGroup_mntPin (g : GroupId) (x : Group) : (s.setGroup g x).mntPin = s.mntPin := rfl
@[simp] theorem State.setGroup_termCount (g : GroupId) (x : Group) : (s.setGroup g x).termCount = s.termCount := rfl
@[simp] theorem State.setGroup_lineClip (g : GroupId) (x : Group) : (s.setGroup g x).lineClip = s.lineClip := rfl
@[simp] theorem State.setGroup_positionClip (g : GroupId) (x : Group) : (s.setGroup g x).positionClip = s.positionClip :=
  rfl
@[simp] theorem State.setGroup_directory (g : GroupId) (x : Group) : (s.setGroup g x).directory = s.directory := rfl
@[simp] theorem State.setGroup_guards (g : GroupId) (x : Group) : (s.setGroup g x).guards = s.guards := rfl
@[simp] theorem State.setGroup_staging (g : GroupId) (x : Group) : (s.setGroup g x).staging = s.staging := rfl
@[simp] theorem State.setGroup_links (g : GroupId) (x : Group) : (s.setGroup g x).links = s.links := rfl
@[simp] theorem State.setGroup_turretOut (g : GroupId) (x : Group) : (s.setGroup g x).turretOut = s.turretOut := rfl
@[simp] theorem State.setGroup_highway (g : GroupId) (x : Group) : (s.setGroup g x).highway = s.highway := rfl
@[simp] theorem State.setGroup_highwayOut (g : GroupId) (x : Group) : (s.setGroup g x).highwayOut = s.highwayOut :=
  rfl
@[simp] theorem State.setGroup_ports (g : GroupId) (x : Group) : (s.setGroup g x).ports = s.ports := rfl
@[simp] theorem State.setGroup_params (g : GroupId) (x : Group) : (s.setGroup g x).params = s.params := rfl
@[simp] theorem State.setGroup_notices (g : GroupId) (x : Group) : (s.setGroup g x).notices = s.notices := rfl

/-! ### State.setSpeaker -/

@[simp] theorem State.setSpeaker_pending (p : PositionId) (x : Speaker) : (s.setSpeaker p x).pending = s.pending :=
  rfl
@[simp] theorem State.setSpeaker_clock (p : PositionId) (x : Speaker) : (s.setSpeaker p x).clock = s.clock := rfl
@[simp] theorem State.setSpeaker_offers (p : PositionId) (x : Speaker) : (s.setSpeaker p x).offers = s.offers := rfl
@[simp] theorem State.setSpeaker_lines (p : PositionId) (x : Speaker) : (s.setSpeaker p x).lines = s.lines := rfl
@[simp] theorem State.setSpeaker_positions (p : PositionId) (x : Speaker) : (s.setSpeaker p x).positions = s.positions :=
  rfl
@[simp] theorem State.setSpeaker_lamps (p : PositionId) (x : Speaker) : (s.setSpeaker p x).lamps = s.lamps := rfl
@[simp] theorem State.setSpeaker_groups (p : PositionId) (x : Speaker) : (s.setSpeaker p x).groups = s.groups := rfl
@[simp] theorem State.setSpeaker_quiet (p : PositionId) (x : Speaker) : (s.setSpeaker p x).quiet = s.quiet := rfl
@[simp] theorem State.setSpeaker_quietPin (p : PositionId) (x : Speaker) : (s.setSpeaker p x).quietPin = s.quietPin :=
  rfl
@[simp] theorem State.setSpeaker_mntPin (p : PositionId) (x : Speaker) : (s.setSpeaker p x).mntPin = s.mntPin := rfl
@[simp] theorem State.setSpeaker_termCount (p : PositionId) (x : Speaker) : (s.setSpeaker p x).termCount = s.termCount :=
  rfl
@[simp] theorem State.setSpeaker_lineClip (p : PositionId) (x : Speaker) : (s.setSpeaker p x).lineClip = s.lineClip :=
  rfl
@[simp] theorem State.setSpeaker_positionClip (p : PositionId) (x : Speaker) : (s.setSpeaker p x).positionClip = s.positionClip :=
  rfl
@[simp] theorem State.setSpeaker_directory (p : PositionId) (x : Speaker) : (s.setSpeaker p x).directory = s.directory :=
  rfl
@[simp] theorem State.setSpeaker_guards (p : PositionId) (x : Speaker) : (s.setSpeaker p x).guards = s.guards := rfl
@[simp] theorem State.setSpeaker_staging (p : PositionId) (x : Speaker) : (s.setSpeaker p x).staging = s.staging :=
  rfl
@[simp] theorem State.setSpeaker_links (p : PositionId) (x : Speaker) : (s.setSpeaker p x).links = s.links := rfl
@[simp] theorem State.setSpeaker_turretOut (p : PositionId) (x : Speaker) : (s.setSpeaker p x).turretOut = s.turretOut :=
  rfl
@[simp] theorem State.setSpeaker_highway (p : PositionId) (x : Speaker) : (s.setSpeaker p x).highway = s.highway :=
  rfl
@[simp] theorem State.setSpeaker_highwayOut (p : PositionId) (x : Speaker) : (s.setSpeaker p x).highwayOut = s.highwayOut :=
  rfl
@[simp] theorem State.setSpeaker_ports (p : PositionId) (x : Speaker) : (s.setSpeaker p x).ports = s.ports := rfl
@[simp] theorem State.setSpeaker_params (p : PositionId) (x : Speaker) : (s.setSpeaker p x).params = s.params := rfl
@[simp] theorem State.setSpeaker_notices (p : PositionId) (x : Speaker) : (s.setSpeaker p x).notices = s.notices :=
  rfl

/-! ### State.setChannel -/

@[simp] theorem State.setChannel_pending (p : PositionId) (n : ChannelId) (x : Channel) : (s.setChannel p n x).pending = s.pending :=
  rfl
@[simp] theorem State.setChannel_clock (p : PositionId) (n : ChannelId) (x : Channel) : (s.setChannel p n x).clock = s.clock :=
  rfl
@[simp] theorem State.setChannel_offers (p : PositionId) (n : ChannelId) (x : Channel) : (s.setChannel p n x).offers = s.offers :=
  rfl
@[simp] theorem State.setChannel_lines (p : PositionId) (n : ChannelId) (x : Channel) : (s.setChannel p n x).lines = s.lines :=
  rfl
@[simp] theorem State.setChannel_positions (p : PositionId) (n : ChannelId) (x : Channel) : (s.setChannel p n x).positions = s.positions :=
  rfl
@[simp] theorem State.setChannel_lamps (p : PositionId) (n : ChannelId) (x : Channel) : (s.setChannel p n x).lamps = s.lamps :=
  rfl
@[simp] theorem State.setChannel_groups (p : PositionId) (n : ChannelId) (x : Channel) : (s.setChannel p n x).groups = s.groups :=
  rfl
@[simp] theorem State.setChannel_quiet (p : PositionId) (n : ChannelId) (x : Channel) : (s.setChannel p n x).quiet = s.quiet :=
  rfl
@[simp] theorem State.setChannel_quietPin (p : PositionId) (n : ChannelId) (x : Channel) : (s.setChannel p n x).quietPin = s.quietPin :=
  rfl
@[simp] theorem State.setChannel_mntPin (p : PositionId) (n : ChannelId) (x : Channel) : (s.setChannel p n x).mntPin = s.mntPin :=
  rfl
@[simp] theorem State.setChannel_termCount (p : PositionId) (n : ChannelId) (x : Channel) : (s.setChannel p n x).termCount = s.termCount :=
  rfl
@[simp] theorem State.setChannel_lineClip (p : PositionId) (n : ChannelId) (x : Channel) : (s.setChannel p n x).lineClip = s.lineClip :=
  rfl
@[simp] theorem State.setChannel_positionClip (p : PositionId) (n : ChannelId) (x : Channel) : (s.setChannel p n x).positionClip = s.positionClip :=
  rfl
@[simp] theorem State.setChannel_directory (p : PositionId) (n : ChannelId) (x : Channel) : (s.setChannel p n x).directory = s.directory :=
  rfl
@[simp] theorem State.setChannel_guards (p : PositionId) (n : ChannelId) (x : Channel) : (s.setChannel p n x).guards = s.guards :=
  rfl
@[simp] theorem State.setChannel_staging (p : PositionId) (n : ChannelId) (x : Channel) : (s.setChannel p n x).staging = s.staging :=
  rfl
@[simp] theorem State.setChannel_links (p : PositionId) (n : ChannelId) (x : Channel) : (s.setChannel p n x).links = s.links :=
  rfl
@[simp] theorem State.setChannel_turretOut (p : PositionId) (n : ChannelId) (x : Channel) : (s.setChannel p n x).turretOut = s.turretOut :=
  rfl
@[simp] theorem State.setChannel_highway (p : PositionId) (n : ChannelId) (x : Channel) : (s.setChannel p n x).highway = s.highway :=
  rfl
@[simp] theorem State.setChannel_highwayOut (p : PositionId) (n : ChannelId) (x : Channel) : (s.setChannel p n x).highwayOut = s.highwayOut :=
  rfl
@[simp] theorem State.setChannel_ports (p : PositionId) (n : ChannelId) (x : Channel) : (s.setChannel p n x).ports = s.ports :=
  rfl
@[simp] theorem State.setChannel_params (p : PositionId) (n : ChannelId) (x : Channel) : (s.setChannel p n x).params = s.params :=
  rfl
@[simp] theorem State.setChannel_notices (p : PositionId) (n : ChannelId) (x : Channel) : (s.setChannel p n x).notices = s.notices :=
  rfl

/-! ### State.setEntry -/

@[simp] theorem State.setEntry_pending (p : PositionId) (k : Key) (x : Entry) : (s.setEntry p k x).pending = s.pending :=
  rfl
@[simp] theorem State.setEntry_clock (p : PositionId) (k : Key) (x : Entry) : (s.setEntry p k x).clock = s.clock :=
  rfl
@[simp] theorem State.setEntry_offers (p : PositionId) (k : Key) (x : Entry) : (s.setEntry p k x).offers = s.offers :=
  rfl
@[simp] theorem State.setEntry_lines (p : PositionId) (k : Key) (x : Entry) : (s.setEntry p k x).lines = s.lines :=
  rfl
@[simp] theorem State.setEntry_positions (p : PositionId) (k : Key) (x : Entry) : (s.setEntry p k x).positions = s.positions :=
  rfl
@[simp] theorem State.setEntry_lamps (p : PositionId) (k : Key) (x : Entry) : (s.setEntry p k x).lamps = s.lamps :=
  rfl
@[simp] theorem State.setEntry_groups (p : PositionId) (k : Key) (x : Entry) : (s.setEntry p k x).groups = s.groups :=
  rfl
@[simp] theorem State.setEntry_speakers (p : PositionId) (k : Key) (x : Entry) : (s.setEntry p k x).speakers = s.speakers :=
  rfl
@[simp] theorem State.setEntry_quiet (p : PositionId) (k : Key) (x : Entry) : (s.setEntry p k x).quiet = s.quiet :=
  rfl
@[simp] theorem State.setEntry_quietPin (p : PositionId) (k : Key) (x : Entry) : (s.setEntry p k x).quietPin = s.quietPin :=
  rfl
@[simp] theorem State.setEntry_mntPin (p : PositionId) (k : Key) (x : Entry) : (s.setEntry p k x).mntPin = s.mntPin :=
  rfl
@[simp] theorem State.setEntry_termCount (p : PositionId) (k : Key) (x : Entry) : (s.setEntry p k x).termCount = s.termCount :=
  rfl
@[simp] theorem State.setEntry_lineClip (p : PositionId) (k : Key) (x : Entry) : (s.setEntry p k x).lineClip = s.lineClip :=
  rfl
@[simp] theorem State.setEntry_positionClip (p : PositionId) (k : Key) (x : Entry) : (s.setEntry p k x).positionClip = s.positionClip :=
  rfl
@[simp] theorem State.setEntry_guards (p : PositionId) (k : Key) (x : Entry) : (s.setEntry p k x).guards = s.guards :=
  rfl
@[simp] theorem State.setEntry_staging (p : PositionId) (k : Key) (x : Entry) : (s.setEntry p k x).staging = s.staging :=
  rfl
@[simp] theorem State.setEntry_links (p : PositionId) (k : Key) (x : Entry) : (s.setEntry p k x).links = s.links :=
  rfl
@[simp] theorem State.setEntry_turretOut (p : PositionId) (k : Key) (x : Entry) : (s.setEntry p k x).turretOut = s.turretOut :=
  rfl
@[simp] theorem State.setEntry_highway (p : PositionId) (k : Key) (x : Entry) : (s.setEntry p k x).highway = s.highway :=
  rfl
@[simp] theorem State.setEntry_highwayOut (p : PositionId) (k : Key) (x : Entry) : (s.setEntry p k x).highwayOut = s.highwayOut :=
  rfl
@[simp] theorem State.setEntry_ports (p : PositionId) (k : Key) (x : Entry) : (s.setEntry p k x).ports = s.ports :=
  rfl
@[simp] theorem State.setEntry_params (p : PositionId) (k : Key) (x : Entry) : (s.setEntry p k x).params = s.params :=
  rfl
@[simp] theorem State.setEntry_notices (p : PositionId) (k : Key) (x : Entry) : (s.setEntry p k x).notices = s.notices :=
  rfl

/-! ### State.setGuard -/

@[simp] theorem State.setGuard_pending (p : PositionId) (x : Guard) : (s.setGuard p x).pending = s.pending := rfl
@[simp] theorem State.setGuard_clock (p : PositionId) (x : Guard) : (s.setGuard p x).clock = s.clock := rfl
@[simp] theorem State.setGuard_offers (p : PositionId) (x : Guard) : (s.setGuard p x).offers = s.offers := rfl
@[simp] theorem State.setGuard_lines (p : PositionId) (x : Guard) : (s.setGuard p x).lines = s.lines := rfl
@[simp] theorem State.setGuard_positions (p : PositionId) (x : Guard) : (s.setGuard p x).positions = s.positions :=
  rfl
@[simp] theorem State.setGuard_lamps (p : PositionId) (x : Guard) : (s.setGuard p x).lamps = s.lamps := rfl
@[simp] theorem State.setGuard_groups (p : PositionId) (x : Guard) : (s.setGuard p x).groups = s.groups := rfl
@[simp] theorem State.setGuard_speakers (p : PositionId) (x : Guard) : (s.setGuard p x).speakers = s.speakers := rfl
@[simp] theorem State.setGuard_quiet (p : PositionId) (x : Guard) : (s.setGuard p x).quiet = s.quiet := rfl
@[simp] theorem State.setGuard_quietPin (p : PositionId) (x : Guard) : (s.setGuard p x).quietPin = s.quietPin := rfl
@[simp] theorem State.setGuard_mntPin (p : PositionId) (x : Guard) : (s.setGuard p x).mntPin = s.mntPin := rfl
@[simp] theorem State.setGuard_termCount (p : PositionId) (x : Guard) : (s.setGuard p x).termCount = s.termCount :=
  rfl
@[simp] theorem State.setGuard_lineClip (p : PositionId) (x : Guard) : (s.setGuard p x).lineClip = s.lineClip := rfl
@[simp] theorem State.setGuard_positionClip (p : PositionId) (x : Guard) : (s.setGuard p x).positionClip = s.positionClip :=
  rfl
@[simp] theorem State.setGuard_directory (p : PositionId) (x : Guard) : (s.setGuard p x).directory = s.directory :=
  rfl
@[simp] theorem State.setGuard_staging (p : PositionId) (x : Guard) : (s.setGuard p x).staging = s.staging := rfl
@[simp] theorem State.setGuard_links (p : PositionId) (x : Guard) : (s.setGuard p x).links = s.links := rfl
@[simp] theorem State.setGuard_turretOut (p : PositionId) (x : Guard) : (s.setGuard p x).turretOut = s.turretOut :=
  rfl
@[simp] theorem State.setGuard_highway (p : PositionId) (x : Guard) : (s.setGuard p x).highway = s.highway := rfl
@[simp] theorem State.setGuard_highwayOut (p : PositionId) (x : Guard) : (s.setGuard p x).highwayOut = s.highwayOut :=
  rfl
@[simp] theorem State.setGuard_ports (p : PositionId) (x : Guard) : (s.setGuard p x).ports = s.ports := rfl
@[simp] theorem State.setGuard_params (p : PositionId) (x : Guard) : (s.setGuard p x).params = s.params := rfl
@[simp] theorem State.setGuard_notices (p : PositionId) (x : Guard) : (s.setGuard p x).notices = s.notices := rfl

/-! ### State.setLink -/

@[simp] theorem State.setLink_pending (p : PositionId) (x : Link) : (s.setLink p x).pending = s.pending := rfl
@[simp] theorem State.setLink_clock (p : PositionId) (x : Link) : (s.setLink p x).clock = s.clock := rfl
@[simp] theorem State.setLink_offers (p : PositionId) (x : Link) : (s.setLink p x).offers = s.offers := rfl
@[simp] theorem State.setLink_lines (p : PositionId) (x : Link) : (s.setLink p x).lines = s.lines := rfl
@[simp] theorem State.setLink_positions (p : PositionId) (x : Link) : (s.setLink p x).positions = s.positions := rfl
@[simp] theorem State.setLink_lamps (p : PositionId) (x : Link) : (s.setLink p x).lamps = s.lamps := rfl
@[simp] theorem State.setLink_groups (p : PositionId) (x : Link) : (s.setLink p x).groups = s.groups := rfl
@[simp] theorem State.setLink_speakers (p : PositionId) (x : Link) : (s.setLink p x).speakers = s.speakers := rfl
@[simp] theorem State.setLink_quiet (p : PositionId) (x : Link) : (s.setLink p x).quiet = s.quiet := rfl
@[simp] theorem State.setLink_quietPin (p : PositionId) (x : Link) : (s.setLink p x).quietPin = s.quietPin := rfl
@[simp] theorem State.setLink_mntPin (p : PositionId) (x : Link) : (s.setLink p x).mntPin = s.mntPin := rfl
@[simp] theorem State.setLink_termCount (p : PositionId) (x : Link) : (s.setLink p x).termCount = s.termCount := rfl
@[simp] theorem State.setLink_lineClip (p : PositionId) (x : Link) : (s.setLink p x).lineClip = s.lineClip := rfl
@[simp] theorem State.setLink_positionClip (p : PositionId) (x : Link) : (s.setLink p x).positionClip = s.positionClip :=
  rfl
@[simp] theorem State.setLink_directory (p : PositionId) (x : Link) : (s.setLink p x).directory = s.directory := rfl
@[simp] theorem State.setLink_guards (p : PositionId) (x : Link) : (s.setLink p x).guards = s.guards := rfl
@[simp] theorem State.setLink_staging (p : PositionId) (x : Link) : (s.setLink p x).staging = s.staging := rfl
@[simp] theorem State.setLink_turretOut (p : PositionId) (x : Link) : (s.setLink p x).turretOut = s.turretOut := rfl
@[simp] theorem State.setLink_highway (p : PositionId) (x : Link) : (s.setLink p x).highway = s.highway := rfl
@[simp] theorem State.setLink_highwayOut (p : PositionId) (x : Link) : (s.setLink p x).highwayOut = s.highwayOut :=
  rfl
@[simp] theorem State.setLink_ports (p : PositionId) (x : Link) : (s.setLink p x).ports = s.ports := rfl
@[simp] theorem State.setLink_params (p : PositionId) (x : Link) : (s.setLink p x).params = s.params := rfl
@[simp] theorem State.setLink_notices (p : PositionId) (x : Link) : (s.setLink p x).notices = s.notices := rfl

/-! ### State.setPort -/

@[simp] theorem State.setPort_pending (c : Port) (x : PortRecord) : (s.setPort c x).pending = s.pending := rfl
@[simp] theorem State.setPort_clock (c : Port) (x : PortRecord) : (s.setPort c x).clock = s.clock := rfl
@[simp] theorem State.setPort_offers (c : Port) (x : PortRecord) : (s.setPort c x).offers = s.offers := rfl
@[simp] theorem State.setPort_lines (c : Port) (x : PortRecord) : (s.setPort c x).lines = s.lines := rfl
@[simp] theorem State.setPort_positions (c : Port) (x : PortRecord) : (s.setPort c x).positions = s.positions := rfl
@[simp] theorem State.setPort_lamps (c : Port) (x : PortRecord) : (s.setPort c x).lamps = s.lamps := rfl
@[simp] theorem State.setPort_groups (c : Port) (x : PortRecord) : (s.setPort c x).groups = s.groups := rfl
@[simp] theorem State.setPort_speakers (c : Port) (x : PortRecord) : (s.setPort c x).speakers = s.speakers := rfl
@[simp] theorem State.setPort_quiet (c : Port) (x : PortRecord) : (s.setPort c x).quiet = s.quiet := rfl
@[simp] theorem State.setPort_quietPin (c : Port) (x : PortRecord) : (s.setPort c x).quietPin = s.quietPin := rfl
@[simp] theorem State.setPort_mntPin (c : Port) (x : PortRecord) : (s.setPort c x).mntPin = s.mntPin := rfl
@[simp] theorem State.setPort_termCount (c : Port) (x : PortRecord) : (s.setPort c x).termCount = s.termCount := rfl
@[simp] theorem State.setPort_lineClip (c : Port) (x : PortRecord) : (s.setPort c x).lineClip = s.lineClip := rfl
@[simp] theorem State.setPort_positionClip (c : Port) (x : PortRecord) : (s.setPort c x).positionClip = s.positionClip :=
  rfl
@[simp] theorem State.setPort_directory (c : Port) (x : PortRecord) : (s.setPort c x).directory = s.directory := rfl
@[simp] theorem State.setPort_guards (c : Port) (x : PortRecord) : (s.setPort c x).guards = s.guards := rfl
@[simp] theorem State.setPort_staging (c : Port) (x : PortRecord) : (s.setPort c x).staging = s.staging := rfl
@[simp] theorem State.setPort_links (c : Port) (x : PortRecord) : (s.setPort c x).links = s.links := rfl
@[simp] theorem State.setPort_turretOut (c : Port) (x : PortRecord) : (s.setPort c x).turretOut = s.turretOut := rfl
@[simp] theorem State.setPort_highway (c : Port) (x : PortRecord) : (s.setPort c x).highway = s.highway := rfl
@[simp] theorem State.setPort_highwayOut (c : Port) (x : PortRecord) : (s.setPort c x).highwayOut = s.highwayOut :=
  rfl
@[simp] theorem State.setPort_params (c : Port) (x : PortRecord) : (s.setPort c x).params = s.params := rfl
@[simp] theorem State.setPort_notices (c : Port) (x : PortRecord) : (s.setPort c x).notices = s.notices := rfl

/-! ### State.setNoticeQueue -/

@[simp] theorem State.setNoticeQueue_pending (c : Port) (x : NoticeQueue) : (s.setNoticeQueue c x).pending = s.pending :=
  rfl
@[simp] theorem State.setNoticeQueue_clock (c : Port) (x : NoticeQueue) : (s.setNoticeQueue c x).clock = s.clock :=
  rfl
@[simp] theorem State.setNoticeQueue_offers (c : Port) (x : NoticeQueue) : (s.setNoticeQueue c x).offers = s.offers :=
  rfl
@[simp] theorem State.setNoticeQueue_lines (c : Port) (x : NoticeQueue) : (s.setNoticeQueue c x).lines = s.lines :=
  rfl
@[simp] theorem State.setNoticeQueue_positions (c : Port) (x : NoticeQueue) : (s.setNoticeQueue c x).positions = s.positions :=
  rfl
@[simp] theorem State.setNoticeQueue_lamps (c : Port) (x : NoticeQueue) : (s.setNoticeQueue c x).lamps = s.lamps :=
  rfl
@[simp] theorem State.setNoticeQueue_groups (c : Port) (x : NoticeQueue) : (s.setNoticeQueue c x).groups = s.groups :=
  rfl
@[simp] theorem State.setNoticeQueue_speakers (c : Port) (x : NoticeQueue) : (s.setNoticeQueue c x).speakers = s.speakers :=
  rfl
@[simp] theorem State.setNoticeQueue_quiet (c : Port) (x : NoticeQueue) : (s.setNoticeQueue c x).quiet = s.quiet :=
  rfl
@[simp] theorem State.setNoticeQueue_quietPin (c : Port) (x : NoticeQueue) : (s.setNoticeQueue c x).quietPin = s.quietPin :=
  rfl
@[simp] theorem State.setNoticeQueue_mntPin (c : Port) (x : NoticeQueue) : (s.setNoticeQueue c x).mntPin = s.mntPin :=
  rfl
@[simp] theorem State.setNoticeQueue_termCount (c : Port) (x : NoticeQueue) : (s.setNoticeQueue c x).termCount = s.termCount :=
  rfl
@[simp] theorem State.setNoticeQueue_lineClip (c : Port) (x : NoticeQueue) : (s.setNoticeQueue c x).lineClip = s.lineClip :=
  rfl
@[simp] theorem State.setNoticeQueue_positionClip (c : Port) (x : NoticeQueue) : (s.setNoticeQueue c x).positionClip = s.positionClip :=
  rfl
@[simp] theorem State.setNoticeQueue_directory (c : Port) (x : NoticeQueue) : (s.setNoticeQueue c x).directory = s.directory :=
  rfl
@[simp] theorem State.setNoticeQueue_guards (c : Port) (x : NoticeQueue) : (s.setNoticeQueue c x).guards = s.guards :=
  rfl
@[simp] theorem State.setNoticeQueue_staging (c : Port) (x : NoticeQueue) : (s.setNoticeQueue c x).staging = s.staging :=
  rfl
@[simp] theorem State.setNoticeQueue_links (c : Port) (x : NoticeQueue) : (s.setNoticeQueue c x).links = s.links :=
  rfl
@[simp] theorem State.setNoticeQueue_turretOut (c : Port) (x : NoticeQueue) : (s.setNoticeQueue c x).turretOut = s.turretOut :=
  rfl
@[simp] theorem State.setNoticeQueue_highway (c : Port) (x : NoticeQueue) : (s.setNoticeQueue c x).highway = s.highway :=
  rfl
@[simp] theorem State.setNoticeQueue_highwayOut (c : Port) (x : NoticeQueue) : (s.setNoticeQueue c x).highwayOut = s.highwayOut :=
  rfl
@[simp] theorem State.setNoticeQueue_ports (c : Port) (x : NoticeQueue) : (s.setNoticeQueue c x).ports = s.ports :=
  rfl
@[simp] theorem State.setNoticeQueue_params (c : Port) (x : NoticeQueue) : (s.setNoticeQueue c x).params = s.params :=
  rfl

/-! ### State.setStaging -/

@[simp] theorem State.setStaging_pending (c : Port) (x : Staging) : (s.setStaging c x).pending = s.pending := rfl
@[simp] theorem State.setStaging_clock (c : Port) (x : Staging) : (s.setStaging c x).clock = s.clock := rfl
@[simp] theorem State.setStaging_offers (c : Port) (x : Staging) : (s.setStaging c x).offers = s.offers := rfl
@[simp] theorem State.setStaging_lines (c : Port) (x : Staging) : (s.setStaging c x).lines = s.lines := rfl
@[simp] theorem State.setStaging_positions (c : Port) (x : Staging) : (s.setStaging c x).positions = s.positions :=
  rfl
@[simp] theorem State.setStaging_lamps (c : Port) (x : Staging) : (s.setStaging c x).lamps = s.lamps := rfl
@[simp] theorem State.setStaging_groups (c : Port) (x : Staging) : (s.setStaging c x).groups = s.groups := rfl
@[simp] theorem State.setStaging_speakers (c : Port) (x : Staging) : (s.setStaging c x).speakers = s.speakers := rfl
@[simp] theorem State.setStaging_quiet (c : Port) (x : Staging) : (s.setStaging c x).quiet = s.quiet := rfl
@[simp] theorem State.setStaging_quietPin (c : Port) (x : Staging) : (s.setStaging c x).quietPin = s.quietPin := rfl
@[simp] theorem State.setStaging_mntPin (c : Port) (x : Staging) : (s.setStaging c x).mntPin = s.mntPin := rfl
@[simp] theorem State.setStaging_termCount (c : Port) (x : Staging) : (s.setStaging c x).termCount = s.termCount :=
  rfl
@[simp] theorem State.setStaging_lineClip (c : Port) (x : Staging) : (s.setStaging c x).lineClip = s.lineClip := rfl
@[simp] theorem State.setStaging_positionClip (c : Port) (x : Staging) : (s.setStaging c x).positionClip = s.positionClip :=
  rfl
@[simp] theorem State.setStaging_directory (c : Port) (x : Staging) : (s.setStaging c x).directory = s.directory :=
  rfl
@[simp] theorem State.setStaging_guards (c : Port) (x : Staging) : (s.setStaging c x).guards = s.guards := rfl
@[simp] theorem State.setStaging_links (c : Port) (x : Staging) : (s.setStaging c x).links = s.links := rfl
@[simp] theorem State.setStaging_turretOut (c : Port) (x : Staging) : (s.setStaging c x).turretOut = s.turretOut :=
  rfl
@[simp] theorem State.setStaging_highway (c : Port) (x : Staging) : (s.setStaging c x).highway = s.highway := rfl
@[simp] theorem State.setStaging_highwayOut (c : Port) (x : Staging) : (s.setStaging c x).highwayOut = s.highwayOut :=
  rfl
@[simp] theorem State.setStaging_ports (c : Port) (x : Staging) : (s.setStaging c x).ports = s.ports := rfl
@[simp] theorem State.setStaging_params (c : Port) (x : Staging) : (s.setStaging c x).params = s.params := rfl
@[simp] theorem State.setStaging_notices (c : Port) (x : Staging) : (s.setStaging c x).notices = s.notices := rfl

/-! ### State.setSlot -/

@[simp] theorem State.setSlot_pending (p : PositionId) (h : Handset) (x : Option Held) : (s.setSlot p h x).pending = s.pending :=
  rfl
@[simp] theorem State.setSlot_clock (p : PositionId) (h : Handset) (x : Option Held) : (s.setSlot p h x).clock = s.clock :=
  rfl
@[simp] theorem State.setSlot_offers (p : PositionId) (h : Handset) (x : Option Held) : (s.setSlot p h x).offers = s.offers :=
  rfl
@[simp] theorem State.setSlot_lines (p : PositionId) (h : Handset) (x : Option Held) : (s.setSlot p h x).lines = s.lines :=
  rfl
@[simp] theorem State.setSlot_lamps (p : PositionId) (h : Handset) (x : Option Held) : (s.setSlot p h x).lamps = s.lamps :=
  rfl
@[simp] theorem State.setSlot_groups (p : PositionId) (h : Handset) (x : Option Held) : (s.setSlot p h x).groups = s.groups :=
  rfl
@[simp] theorem State.setSlot_speakers (p : PositionId) (h : Handset) (x : Option Held) : (s.setSlot p h x).speakers = s.speakers :=
  rfl
@[simp] theorem State.setSlot_quiet (p : PositionId) (h : Handset) (x : Option Held) : (s.setSlot p h x).quiet = s.quiet :=
  rfl
@[simp] theorem State.setSlot_quietPin (p : PositionId) (h : Handset) (x : Option Held) : (s.setSlot p h x).quietPin = s.quietPin :=
  rfl
@[simp] theorem State.setSlot_mntPin (p : PositionId) (h : Handset) (x : Option Held) : (s.setSlot p h x).mntPin = s.mntPin :=
  rfl
@[simp] theorem State.setSlot_lineClip (p : PositionId) (h : Handset) (x : Option Held) : (s.setSlot p h x).lineClip = s.lineClip :=
  rfl
@[simp] theorem State.setSlot_positionClip (p : PositionId) (h : Handset) (x : Option Held) : (s.setSlot p h x).positionClip = s.positionClip :=
  rfl
@[simp] theorem State.setSlot_directory (p : PositionId) (h : Handset) (x : Option Held) : (s.setSlot p h x).directory = s.directory :=
  rfl
@[simp] theorem State.setSlot_guards (p : PositionId) (h : Handset) (x : Option Held) : (s.setSlot p h x).guards = s.guards :=
  rfl
@[simp] theorem State.setSlot_staging (p : PositionId) (h : Handset) (x : Option Held) : (s.setSlot p h x).staging = s.staging :=
  rfl
@[simp] theorem State.setSlot_links (p : PositionId) (h : Handset) (x : Option Held) : (s.setSlot p h x).links = s.links :=
  rfl
@[simp] theorem State.setSlot_turretOut (p : PositionId) (h : Handset) (x : Option Held) : (s.setSlot p h x).turretOut = s.turretOut :=
  rfl
@[simp] theorem State.setSlot_highway (p : PositionId) (h : Handset) (x : Option Held) : (s.setSlot p h x).highway = s.highway :=
  rfl
@[simp] theorem State.setSlot_highwayOut (p : PositionId) (h : Handset) (x : Option Held) : (s.setSlot p h x).highwayOut = s.highwayOut :=
  rfl
@[simp] theorem State.setSlot_ports (p : PositionId) (h : Handset) (x : Option Held) : (s.setSlot p h x).ports = s.ports :=
  rfl
@[simp] theorem State.setSlot_params (p : PositionId) (h : Handset) (x : Option Held) : (s.setSlot p h x).params = s.params :=
  rfl
@[simp] theorem State.setSlot_notices (p : PositionId) (h : Handset) (x : Option Held) : (s.setSlot p h x).notices = s.notices :=
  rfl

/-! ### State.reach -/

@[simp] theorem State.reach_pending (due : Nat) : (s.reach due).pending = s.pending := rfl
@[simp] theorem State.reach_offers (due : Nat) : (s.reach due).offers = s.offers := rfl
@[simp] theorem State.reach_lines (due : Nat) : (s.reach due).lines = s.lines := rfl
@[simp] theorem State.reach_positions (due : Nat) : (s.reach due).positions = s.positions := rfl
@[simp] theorem State.reach_lamps (due : Nat) : (s.reach due).lamps = s.lamps := rfl
@[simp] theorem State.reach_groups (due : Nat) : (s.reach due).groups = s.groups := rfl
@[simp] theorem State.reach_speakers (due : Nat) : (s.reach due).speakers = s.speakers := rfl
@[simp] theorem State.reach_quiet (due : Nat) : (s.reach due).quiet = s.quiet := rfl
@[simp] theorem State.reach_quietPin (due : Nat) : (s.reach due).quietPin = s.quietPin := rfl
@[simp] theorem State.reach_mntPin (due : Nat) : (s.reach due).mntPin = s.mntPin := rfl
@[simp] theorem State.reach_termCount (due : Nat) : (s.reach due).termCount = s.termCount := rfl
@[simp] theorem State.reach_lineClip (due : Nat) : (s.reach due).lineClip = s.lineClip := rfl
@[simp] theorem State.reach_positionClip (due : Nat) : (s.reach due).positionClip = s.positionClip := rfl
@[simp] theorem State.reach_directory (due : Nat) : (s.reach due).directory = s.directory := rfl
@[simp] theorem State.reach_guards (due : Nat) : (s.reach due).guards = s.guards := rfl
@[simp] theorem State.reach_staging (due : Nat) : (s.reach due).staging = s.staging := rfl
@[simp] theorem State.reach_links (due : Nat) : (s.reach due).links = s.links := rfl
@[simp] theorem State.reach_turretOut (due : Nat) : (s.reach due).turretOut = s.turretOut := rfl
@[simp] theorem State.reach_highway (due : Nat) : (s.reach due).highway = s.highway := rfl
@[simp] theorem State.reach_highwayOut (due : Nat) : (s.reach due).highwayOut = s.highwayOut := rfl
@[simp] theorem State.reach_ports (due : Nat) : (s.reach due).ports = s.ports := rfl
@[simp] theorem State.reach_params (due : Nat) : (s.reach due).params = s.params := rfl
@[simp] theorem State.reach_notices (due : Nat) : (s.reach due).notices = s.notices := rfl

/-! ### State.offer -/

@[simp] theorem State.offer_pending (l : LineId) : (s.offer l).pending = s.pending := rfl
@[simp] theorem State.offer_clock (l : LineId) : (s.offer l).clock = s.clock := rfl
@[simp] theorem State.offer_lines (l : LineId) : (s.offer l).lines = s.lines := rfl
@[simp] theorem State.offer_positions (l : LineId) : (s.offer l).positions = s.positions := rfl
@[simp] theorem State.offer_lamps (l : LineId) : (s.offer l).lamps = s.lamps := rfl
@[simp] theorem State.offer_groups (l : LineId) : (s.offer l).groups = s.groups := rfl
@[simp] theorem State.offer_speakers (l : LineId) : (s.offer l).speakers = s.speakers := rfl
@[simp] theorem State.offer_quiet (l : LineId) : (s.offer l).quiet = s.quiet := rfl
@[simp] theorem State.offer_quietPin (l : LineId) : (s.offer l).quietPin = s.quietPin := rfl
@[simp] theorem State.offer_mntPin (l : LineId) : (s.offer l).mntPin = s.mntPin := rfl
@[simp] theorem State.offer_termCount (l : LineId) : (s.offer l).termCount = s.termCount := rfl
@[simp] theorem State.offer_lineClip (l : LineId) : (s.offer l).lineClip = s.lineClip := rfl
@[simp] theorem State.offer_positionClip (l : LineId) : (s.offer l).positionClip = s.positionClip := rfl
@[simp] theorem State.offer_directory (l : LineId) : (s.offer l).directory = s.directory := rfl
@[simp] theorem State.offer_guards (l : LineId) : (s.offer l).guards = s.guards := rfl
@[simp] theorem State.offer_staging (l : LineId) : (s.offer l).staging = s.staging := rfl
@[simp] theorem State.offer_links (l : LineId) : (s.offer l).links = s.links := rfl
@[simp] theorem State.offer_turretOut (l : LineId) : (s.offer l).turretOut = s.turretOut := rfl
@[simp] theorem State.offer_highway (l : LineId) : (s.offer l).highway = s.highway := rfl
@[simp] theorem State.offer_highwayOut (l : LineId) : (s.offer l).highwayOut = s.highwayOut := rfl
@[simp] theorem State.offer_ports (l : LineId) : (s.offer l).ports = s.ports := rfl
@[simp] theorem State.offer_params (l : LineId) : (s.offer l).params = s.params := rfl
@[simp] theorem State.offer_notices (l : LineId) : (s.offer l).notices = s.notices := rfl

/-! ### State.raise -/

@[simp] theorem State.raise_pending (b : NoticeBody) : (s.raise b).pending = s.pending := rfl
@[simp] theorem State.raise_clock (b : NoticeBody) : (s.raise b).clock = s.clock := rfl
@[simp] theorem State.raise_offers (b : NoticeBody) : (s.raise b).offers = s.offers := rfl
@[simp] theorem State.raise_lines (b : NoticeBody) : (s.raise b).lines = s.lines := rfl
@[simp] theorem State.raise_positions (b : NoticeBody) : (s.raise b).positions = s.positions := rfl
@[simp] theorem State.raise_lamps (b : NoticeBody) : (s.raise b).lamps = s.lamps := rfl
@[simp] theorem State.raise_groups (b : NoticeBody) : (s.raise b).groups = s.groups := rfl
@[simp] theorem State.raise_speakers (b : NoticeBody) : (s.raise b).speakers = s.speakers := rfl
@[simp] theorem State.raise_quiet (b : NoticeBody) : (s.raise b).quiet = s.quiet := rfl
@[simp] theorem State.raise_quietPin (b : NoticeBody) : (s.raise b).quietPin = s.quietPin := rfl
@[simp] theorem State.raise_mntPin (b : NoticeBody) : (s.raise b).mntPin = s.mntPin := rfl
@[simp] theorem State.raise_termCount (b : NoticeBody) : (s.raise b).termCount = s.termCount := rfl
@[simp] theorem State.raise_lineClip (b : NoticeBody) : (s.raise b).lineClip = s.lineClip := rfl
@[simp] theorem State.raise_positionClip (b : NoticeBody) : (s.raise b).positionClip = s.positionClip := rfl
@[simp] theorem State.raise_directory (b : NoticeBody) : (s.raise b).directory = s.directory := rfl
@[simp] theorem State.raise_guards (b : NoticeBody) : (s.raise b).guards = s.guards := rfl
@[simp] theorem State.raise_staging (b : NoticeBody) : (s.raise b).staging = s.staging := rfl
@[simp] theorem State.raise_links (b : NoticeBody) : (s.raise b).links = s.links := rfl
@[simp] theorem State.raise_turretOut (b : NoticeBody) : (s.raise b).turretOut = s.turretOut := rfl
@[simp] theorem State.raise_highway (b : NoticeBody) : (s.raise b).highway = s.highway := rfl
@[simp] theorem State.raise_highwayOut (b : NoticeBody) : (s.raise b).highwayOut = s.highwayOut := rfl
@[simp] theorem State.raise_ports (b : NoticeBody) : (s.raise b).ports = s.ports := rfl
@[simp] theorem State.raise_params (b : NoticeBody) : (s.raise b).params = s.params := rfl

/-! ### State.answer -/

@[simp] theorem State.answer_pending (c : Port) (r : ResultCode) (d : List Byte) : (s.answer c r d).pending = s.pending :=
  rfl
@[simp] theorem State.answer_clock (c : Port) (r : ResultCode) (d : List Byte) : (s.answer c r d).clock = s.clock :=
  rfl
@[simp] theorem State.answer_offers (c : Port) (r : ResultCode) (d : List Byte) : (s.answer c r d).offers = s.offers :=
  rfl
@[simp] theorem State.answer_lines (c : Port) (r : ResultCode) (d : List Byte) : (s.answer c r d).lines = s.lines :=
  rfl
@[simp] theorem State.answer_positions (c : Port) (r : ResultCode) (d : List Byte) : (s.answer c r d).positions = s.positions :=
  rfl
@[simp] theorem State.answer_lamps (c : Port) (r : ResultCode) (d : List Byte) : (s.answer c r d).lamps = s.lamps :=
  rfl
@[simp] theorem State.answer_groups (c : Port) (r : ResultCode) (d : List Byte) : (s.answer c r d).groups = s.groups :=
  rfl
@[simp] theorem State.answer_speakers (c : Port) (r : ResultCode) (d : List Byte) : (s.answer c r d).speakers = s.speakers :=
  rfl
@[simp] theorem State.answer_quiet (c : Port) (r : ResultCode) (d : List Byte) : (s.answer c r d).quiet = s.quiet :=
  rfl
@[simp] theorem State.answer_quietPin (c : Port) (r : ResultCode) (d : List Byte) : (s.answer c r d).quietPin = s.quietPin :=
  rfl
@[simp] theorem State.answer_mntPin (c : Port) (r : ResultCode) (d : List Byte) : (s.answer c r d).mntPin = s.mntPin :=
  rfl
@[simp] theorem State.answer_termCount (c : Port) (r : ResultCode) (d : List Byte) : (s.answer c r d).termCount = s.termCount :=
  rfl
@[simp] theorem State.answer_lineClip (c : Port) (r : ResultCode) (d : List Byte) : (s.answer c r d).lineClip = s.lineClip :=
  rfl
@[simp] theorem State.answer_positionClip (c : Port) (r : ResultCode) (d : List Byte) : (s.answer c r d).positionClip = s.positionClip :=
  rfl
@[simp] theorem State.answer_directory (c : Port) (r : ResultCode) (d : List Byte) : (s.answer c r d).directory = s.directory :=
  rfl
@[simp] theorem State.answer_guards (c : Port) (r : ResultCode) (d : List Byte) : (s.answer c r d).guards = s.guards :=
  rfl
@[simp] theorem State.answer_staging (c : Port) (r : ResultCode) (d : List Byte) : (s.answer c r d).staging = s.staging :=
  rfl
@[simp] theorem State.answer_links (c : Port) (r : ResultCode) (d : List Byte) : (s.answer c r d).links = s.links :=
  rfl
@[simp] theorem State.answer_turretOut (c : Port) (r : ResultCode) (d : List Byte) : (s.answer c r d).turretOut = s.turretOut :=
  rfl
@[simp] theorem State.answer_highway (c : Port) (r : ResultCode) (d : List Byte) : (s.answer c r d).highway = s.highway :=
  rfl
@[simp] theorem State.answer_highwayOut (c : Port) (r : ResultCode) (d : List Byte) : (s.answer c r d).highwayOut = s.highwayOut :=
  rfl
@[simp] theorem State.answer_params (c : Port) (r : ResultCode) (d : List Byte) : (s.answer c r d).params = s.params :=
  rfl
@[simp] theorem State.answer_notices (c : Port) (r : ResultCode) (d : List Byte) : (s.answer c r d).notices = s.notices :=
  rfl

/-! ### State.startDeny -/

@[simp] theorem State.startDeny_pending (p : PositionId) (x : LampId) : (s.startDeny p x).pending = s.pending := rfl
@[simp] theorem State.startDeny_clock (p : PositionId) (x : LampId) : (s.startDeny p x).clock = s.clock := rfl
@[simp] theorem State.startDeny_offers (p : PositionId) (x : LampId) : (s.startDeny p x).offers = s.offers := rfl
@[simp] theorem State.startDeny_lines (p : PositionId) (x : LampId) : (s.startDeny p x).lines = s.lines := rfl
@[simp] theorem State.startDeny_lamps (p : PositionId) (x : LampId) : (s.startDeny p x).lamps = s.lamps := rfl
@[simp] theorem State.startDeny_groups (p : PositionId) (x : LampId) : (s.startDeny p x).groups = s.groups := rfl
@[simp] theorem State.startDeny_speakers (p : PositionId) (x : LampId) : (s.startDeny p x).speakers = s.speakers :=
  rfl
@[simp] theorem State.startDeny_quiet (p : PositionId) (x : LampId) : (s.startDeny p x).quiet = s.quiet := rfl
@[simp] theorem State.startDeny_quietPin (p : PositionId) (x : LampId) : (s.startDeny p x).quietPin = s.quietPin :=
  rfl
@[simp] theorem State.startDeny_mntPin (p : PositionId) (x : LampId) : (s.startDeny p x).mntPin = s.mntPin := rfl
@[simp] theorem State.startDeny_termCount (p : PositionId) (x : LampId) : (s.startDeny p x).termCount = s.termCount :=
  rfl
@[simp] theorem State.startDeny_lineClip (p : PositionId) (x : LampId) : (s.startDeny p x).lineClip = s.lineClip :=
  rfl
@[simp] theorem State.startDeny_positionClip (p : PositionId) (x : LampId) : (s.startDeny p x).positionClip = s.positionClip :=
  rfl
@[simp] theorem State.startDeny_directory (p : PositionId) (x : LampId) : (s.startDeny p x).directory = s.directory :=
  rfl
@[simp] theorem State.startDeny_guards (p : PositionId) (x : LampId) : (s.startDeny p x).guards = s.guards := rfl
@[simp] theorem State.startDeny_staging (p : PositionId) (x : LampId) : (s.startDeny p x).staging = s.staging := rfl
@[simp] theorem State.startDeny_links (p : PositionId) (x : LampId) : (s.startDeny p x).links = s.links := rfl
@[simp] theorem State.startDeny_turretOut (p : PositionId) (x : LampId) : (s.startDeny p x).turretOut = s.turretOut :=
  rfl
@[simp] theorem State.startDeny_highway (p : PositionId) (x : LampId) : (s.startDeny p x).highway = s.highway := rfl
@[simp] theorem State.startDeny_highwayOut (p : PositionId) (x : LampId) : (s.startDeny p x).highwayOut = s.highwayOut :=
  rfl
@[simp] theorem State.startDeny_ports (p : PositionId) (x : LampId) : (s.startDeny p x).ports = s.ports := rfl
@[simp] theorem State.startDeny_params (p : PositionId) (x : LampId) : (s.startDeny p x).params = s.params := rfl
@[simp] theorem State.startDeny_notices (p : PositionId) (x : LampId) : (s.startDeny p x).notices = s.notices := rfl

/-! ### State.updateTalking -/

@[simp] theorem State.updateTalking_pending (l : LineId) (p : PositionId) (x : Path) (v : Bool) : (s.updateTalking l p x v).pending = s.pending :=
  rfl
@[simp] theorem State.updateTalking_clock (l : LineId) (p : PositionId) (x : Path) (v : Bool) : (s.updateTalking l p x v).clock = s.clock :=
  rfl
@[simp] theorem State.updateTalking_offers (l : LineId) (p : PositionId) (x : Path) (v : Bool) : (s.updateTalking l p x v).offers = s.offers :=
  rfl
@[simp] theorem State.updateTalking_positions (l : LineId) (p : PositionId) (x : Path) (v : Bool) : (s.updateTalking l p x v).positions = s.positions :=
  rfl
@[simp] theorem State.updateTalking_lamps (l : LineId) (p : PositionId) (x : Path) (v : Bool) : (s.updateTalking l p x v).lamps = s.lamps :=
  rfl
@[simp] theorem State.updateTalking_groups (l : LineId) (p : PositionId) (x : Path) (v : Bool) : (s.updateTalking l p x v).groups = s.groups :=
  rfl
@[simp] theorem State.updateTalking_speakers (l : LineId) (p : PositionId) (x : Path) (v : Bool) : (s.updateTalking l p x v).speakers = s.speakers :=
  rfl
@[simp] theorem State.updateTalking_quiet (l : LineId) (p : PositionId) (x : Path) (v : Bool) : (s.updateTalking l p x v).quiet = s.quiet :=
  rfl
@[simp] theorem State.updateTalking_quietPin (l : LineId) (p : PositionId) (x : Path) (v : Bool) : (s.updateTalking l p x v).quietPin = s.quietPin :=
  rfl
@[simp] theorem State.updateTalking_mntPin (l : LineId) (p : PositionId) (x : Path) (v : Bool) : (s.updateTalking l p x v).mntPin = s.mntPin :=
  rfl
@[simp] theorem State.updateTalking_termCount (l : LineId) (p : PositionId) (x : Path) (v : Bool) : (s.updateTalking l p x v).termCount = s.termCount :=
  rfl
@[simp] theorem State.updateTalking_lineClip (l : LineId) (p : PositionId) (x : Path) (v : Bool) : (s.updateTalking l p x v).lineClip = s.lineClip :=
  rfl
@[simp] theorem State.updateTalking_positionClip (l : LineId) (p : PositionId) (x : Path) (v : Bool) : (s.updateTalking l p x v).positionClip = s.positionClip :=
  rfl
@[simp] theorem State.updateTalking_directory (l : LineId) (p : PositionId) (x : Path) (v : Bool) : (s.updateTalking l p x v).directory = s.directory :=
  rfl
@[simp] theorem State.updateTalking_guards (l : LineId) (p : PositionId) (x : Path) (v : Bool) : (s.updateTalking l p x v).guards = s.guards :=
  rfl
@[simp] theorem State.updateTalking_staging (l : LineId) (p : PositionId) (x : Path) (v : Bool) : (s.updateTalking l p x v).staging = s.staging :=
  rfl
@[simp] theorem State.updateTalking_links (l : LineId) (p : PositionId) (x : Path) (v : Bool) : (s.updateTalking l p x v).links = s.links :=
  rfl
@[simp] theorem State.updateTalking_turretOut (l : LineId) (p : PositionId) (x : Path) (v : Bool) : (s.updateTalking l p x v).turretOut = s.turretOut :=
  rfl
@[simp] theorem State.updateTalking_highway (l : LineId) (p : PositionId) (x : Path) (v : Bool) : (s.updateTalking l p x v).highway = s.highway :=
  rfl
@[simp] theorem State.updateTalking_highwayOut (l : LineId) (p : PositionId) (x : Path) (v : Bool) : (s.updateTalking l p x v).highwayOut = s.highwayOut :=
  rfl
@[simp] theorem State.updateTalking_ports (l : LineId) (p : PositionId) (x : Path) (v : Bool) : (s.updateTalking l p x v).ports = s.ports :=
  rfl
@[simp] theorem State.updateTalking_params (l : LineId) (p : PositionId) (x : Path) (v : Bool) : (s.updateTalking l p x v).params = s.params :=
  rfl
@[simp] theorem State.updateTalking_notices (l : LineId) (p : PositionId) (x : Path) (v : Bool) : (s.updateTalking l p x v).notices = s.notices :=
  rfl

/-! ### State.updateTalkCapable -/

@[simp] theorem State.updateTalkCapable_pending (l : LineId) (p : PositionId) (x : Path) (v : Bool) : (s.updateTalkCapable l p x v).pending = s.pending :=
  rfl
@[simp] theorem State.updateTalkCapable_clock (l : LineId) (p : PositionId) (x : Path) (v : Bool) : (s.updateTalkCapable l p x v).clock = s.clock :=
  rfl
@[simp] theorem State.updateTalkCapable_offers (l : LineId) (p : PositionId) (x : Path) (v : Bool) : (s.updateTalkCapable l p x v).offers = s.offers :=
  rfl
@[simp] theorem State.updateTalkCapable_positions (l : LineId) (p : PositionId) (x : Path) (v : Bool) : (s.updateTalkCapable l p x v).positions = s.positions :=
  rfl
@[simp] theorem State.updateTalkCapable_lamps (l : LineId) (p : PositionId) (x : Path) (v : Bool) : (s.updateTalkCapable l p x v).lamps = s.lamps :=
  rfl
@[simp] theorem State.updateTalkCapable_groups (l : LineId) (p : PositionId) (x : Path) (v : Bool) : (s.updateTalkCapable l p x v).groups = s.groups :=
  rfl
@[simp] theorem State.updateTalkCapable_speakers (l : LineId) (p : PositionId) (x : Path) (v : Bool) : (s.updateTalkCapable l p x v).speakers = s.speakers :=
  rfl
@[simp] theorem State.updateTalkCapable_quiet (l : LineId) (p : PositionId) (x : Path) (v : Bool) : (s.updateTalkCapable l p x v).quiet = s.quiet :=
  rfl
@[simp] theorem State.updateTalkCapable_quietPin (l : LineId) (p : PositionId) (x : Path) (v : Bool) : (s.updateTalkCapable l p x v).quietPin = s.quietPin :=
  rfl
@[simp] theorem State.updateTalkCapable_mntPin (l : LineId) (p : PositionId) (x : Path) (v : Bool) : (s.updateTalkCapable l p x v).mntPin = s.mntPin :=
  rfl
@[simp] theorem State.updateTalkCapable_termCount (l : LineId) (p : PositionId) (x : Path) (v : Bool) : (s.updateTalkCapable l p x v).termCount = s.termCount :=
  rfl
@[simp] theorem State.updateTalkCapable_lineClip (l : LineId) (p : PositionId) (x : Path) (v : Bool) : (s.updateTalkCapable l p x v).lineClip = s.lineClip :=
  rfl
@[simp] theorem State.updateTalkCapable_positionClip (l : LineId) (p : PositionId) (x : Path) (v : Bool) : (s.updateTalkCapable l p x v).positionClip = s.positionClip :=
  rfl
@[simp] theorem State.updateTalkCapable_directory (l : LineId) (p : PositionId) (x : Path) (v : Bool) : (s.updateTalkCapable l p x v).directory = s.directory :=
  rfl
@[simp] theorem State.updateTalkCapable_guards (l : LineId) (p : PositionId) (x : Path) (v : Bool) : (s.updateTalkCapable l p x v).guards = s.guards :=
  rfl
@[simp] theorem State.updateTalkCapable_staging (l : LineId) (p : PositionId) (x : Path) (v : Bool) : (s.updateTalkCapable l p x v).staging = s.staging :=
  rfl
@[simp] theorem State.updateTalkCapable_links (l : LineId) (p : PositionId) (x : Path) (v : Bool) : (s.updateTalkCapable l p x v).links = s.links :=
  rfl
@[simp] theorem State.updateTalkCapable_turretOut (l : LineId) (p : PositionId) (x : Path) (v : Bool) : (s.updateTalkCapable l p x v).turretOut = s.turretOut :=
  rfl
@[simp] theorem State.updateTalkCapable_highway (l : LineId) (p : PositionId) (x : Path) (v : Bool) : (s.updateTalkCapable l p x v).highway = s.highway :=
  rfl
@[simp] theorem State.updateTalkCapable_highwayOut (l : LineId) (p : PositionId) (x : Path) (v : Bool) : (s.updateTalkCapable l p x v).highwayOut = s.highwayOut :=
  rfl
@[simp] theorem State.updateTalkCapable_ports (l : LineId) (p : PositionId) (x : Path) (v : Bool) : (s.updateTalkCapable l p x v).ports = s.ports :=
  rfl
@[simp] theorem State.updateTalkCapable_params (l : LineId) (p : PositionId) (x : Path) (v : Bool) : (s.updateTalkCapable l p x v).params = s.params :=
  rfl
@[simp] theorem State.updateTalkCapable_notices (l : LineId) (p : PositionId) (x : Path) (v : Bool) : (s.updateTalkCapable l p x v).notices = s.notices :=
  rfl

/-! ### State.sendLamps -/

@[simp] theorem State.sendLamps_pending : s.sendLamps.pending = s.pending := rfl
@[simp] theorem State.sendLamps_clock : s.sendLamps.clock = s.clock := rfl
@[simp] theorem State.sendLamps_offers : s.sendLamps.offers = s.offers := rfl
@[simp] theorem State.sendLamps_lines : s.sendLamps.lines = s.lines := rfl
@[simp] theorem State.sendLamps_positions : s.sendLamps.positions = s.positions := rfl
@[simp] theorem State.sendLamps_groups : s.sendLamps.groups = s.groups := rfl
@[simp] theorem State.sendLamps_speakers : s.sendLamps.speakers = s.speakers := rfl
@[simp] theorem State.sendLamps_quiet : s.sendLamps.quiet = s.quiet := rfl
@[simp] theorem State.sendLamps_quietPin : s.sendLamps.quietPin = s.quietPin := rfl
@[simp] theorem State.sendLamps_mntPin : s.sendLamps.mntPin = s.mntPin := rfl
@[simp] theorem State.sendLamps_termCount : s.sendLamps.termCount = s.termCount := rfl
@[simp] theorem State.sendLamps_lineClip : s.sendLamps.lineClip = s.lineClip := rfl
@[simp] theorem State.sendLamps_positionClip : s.sendLamps.positionClip = s.positionClip := rfl
@[simp] theorem State.sendLamps_directory : s.sendLamps.directory = s.directory := rfl
@[simp] theorem State.sendLamps_guards : s.sendLamps.guards = s.guards := rfl
@[simp] theorem State.sendLamps_staging : s.sendLamps.staging = s.staging := rfl
@[simp] theorem State.sendLamps_turretOut : s.sendLamps.turretOut = s.turretOut := rfl
@[simp] theorem State.sendLamps_highway : s.sendLamps.highway = s.highway := rfl
@[simp] theorem State.sendLamps_highwayOut : s.sendLamps.highwayOut = s.highwayOut := rfl
@[simp] theorem State.sendLamps_ports : s.sendLamps.ports = s.ports := rfl
@[simp] theorem State.sendLamps_params : s.sendLamps.params = s.params := rfl
@[simp] theorem State.sendLamps_notices : s.sendLamps.notices = s.notices := rfl

/-! ### Reading the record that was written -/

@[simp] theorem State.setLine_line (i : LineId) (x : Line) : (s.setLine i x).line i = x := by
  simp [State.setLine, State.line]

@[simp] theorem State.setLine_line_ne {i j : LineId} (x : Line) (h : j ≠ i) : (s.setLine i x).line j = s.line j := by
  simp [State.setLine, State.line, h]

@[simp] theorem State.setLine_line_self (i : LineId) : s.setLine i (s.line i) = s := by
  simp [State.setLine, State.line]

@[simp] theorem State.setPosition_position (i : PositionId) (x : Position) : (s.setPosition i x).position i = x := by
  simp [State.setPosition, State.position]

@[simp] theorem State.setPosition_position_ne {i j : PositionId} (x : Position) (h : j ≠ i) : (s.setPosition i x).position j = s.position j := by
  simp [State.setPosition, State.position, h]

@[simp] theorem State.setPosition_position_self (i : PositionId) : s.setPosition i (s.position i) = s := by
  simp [State.setPosition, State.position]

@[simp] theorem State.setGroup_group (i : GroupId) (x : Group) : (s.setGroup i x).group i = x := by
  simp [State.setGroup, State.group]

@[simp] theorem State.setGroup_group_ne {i j : GroupId} (x : Group) (h : j ≠ i) : (s.setGroup i x).group j = s.group j := by
  simp [State.setGroup, State.group, h]

@[simp] theorem State.setGroup_group_self (i : GroupId) : s.setGroup i (s.group i) = s := by
  simp [State.setGroup, State.group]

@[simp] theorem State.setGroup_setGroup (i : GroupId) (x y : Group) : (s.setGroup i x).setGroup i y = s.setGroup i y := by
  simp [State.setGroup]

@[simp] theorem State.setSpeaker_speaker (i : PositionId) (x : Speaker) : (s.setSpeaker i x).speaker i = x := by
  simp [State.setSpeaker, State.speaker]

@[simp] theorem State.setSpeaker_speaker_ne {i j : PositionId} (x : Speaker) (h : j ≠ i) : (s.setSpeaker i x).speaker j = s.speaker j := by
  simp [State.setSpeaker, State.speaker, h]

@[simp] theorem State.setSpeaker_speaker_self (i : PositionId) : s.setSpeaker i (s.speaker i) = s := by
  simp [State.setSpeaker, State.speaker]

@[simp] theorem State.setGuard_guardOf (i : PositionId) (x : Guard) : (s.setGuard i x).guardOf i = x := by
  simp [State.setGuard, State.guardOf]

@[simp] theorem State.setGuard_guardOf_ne {i j : PositionId} (x : Guard) (h : j ≠ i) : (s.setGuard i x).guardOf j = s.guardOf j := by
  simp [State.setGuard, State.guardOf, h]

@[simp] theorem State.setGuard_guardOf_self (i : PositionId) : s.setGuard i (s.guardOf i) = s := by
  simp [State.setGuard, State.guardOf]

@[simp] theorem State.setLink_link (i : PositionId) (x : Link) : (s.setLink i x).link i = x := by
  simp [State.setLink, State.link]

@[simp] theorem State.setLink_link_ne {i j : PositionId} (x : Link) (h : j ≠ i) : (s.setLink i x).link j = s.link j := by
  simp [State.setLink, State.link, h]

@[simp] theorem State.setLink_link_self (i : PositionId) : s.setLink i (s.link i) = s := by
  simp [State.setLink, State.link]

@[simp] theorem State.setPort_port (i : Port) (x : PortRecord) : (s.setPort i x).port i = x := by
  simp [State.setPort, State.port]

@[simp] theorem State.setPort_port_ne {i j : Port} (x : PortRecord) (h : j ≠ i) : (s.setPort i x).port j = s.port j := by
  simp [State.setPort, State.port, h]

@[simp] theorem State.setPort_port_self (i : Port) : s.setPort i (s.port i) = s := by
  simp [State.setPort, State.port]

@[simp] theorem State.setNoticeQueue_noticeQueue (i : Port) (x : NoticeQueue) : (s.setNoticeQueue i x).noticeQueue i = x := by
  simp [State.setNoticeQueue, State.noticeQueue]

@[simp] theorem State.setNoticeQueue_noticeQueue_ne {i j : Port} (x : NoticeQueue) (h : j ≠ i) : (s.setNoticeQueue i x).noticeQueue j = s.noticeQueue j := by
  simp [State.setNoticeQueue, State.noticeQueue, h]

@[simp] theorem State.setNoticeQueue_noticeQueue_self (i : Port) : s.setNoticeQueue i (s.noticeQueue i) = s := by
  simp [State.setNoticeQueue, State.noticeQueue]

@[simp] theorem State.setStaging_stagingOf (i : Port) (x : Staging) : (s.setStaging i x).stagingOf i = x := by
  simp [State.setStaging, State.stagingOf]

@[simp] theorem State.setStaging_stagingOf_ne {i j : Port} (x : Staging) (h : j ≠ i) : (s.setStaging i x).stagingOf j = s.stagingOf j := by
  simp [State.setStaging, State.stagingOf, h]

@[simp] theorem State.setStaging_stagingOf_self (i : Port) : s.setStaging i (s.stagingOf i) = s := by
  simp [State.setStaging, State.stagingOf]

/-! ### Reading another part than the one written -/

@[simp] theorem State.setLine_position_same (l : LineId) (x : Line) (i : PositionId) :
    (s.setLine l x).position i = s.position i := rfl
@[simp] theorem State.setLine_group_same (l : LineId) (x : Line) (i : GroupId) :
    (s.setLine l x).group i = s.group i := rfl
@[simp] theorem State.setLine_speaker_same (l : LineId) (x : Line) (i : PositionId) :
    (s.setLine l x).speaker i = s.speaker i := rfl
@[simp] theorem State.setLine_channel_same (l : LineId) (x : Line) (i : PositionId) (j : ChannelId) :
    (s.setLine l x).channel i j = s.channel i j := rfl
@[simp] theorem State.setLine_entry_same (l : LineId) (x : Line) (i : PositionId) (j : Key) :
    (s.setLine l x).entry i j = s.entry i j := rfl
@[simp] theorem State.setLine_guardOf_same (l : LineId) (x : Line) (i : PositionId) :
    (s.setLine l x).guardOf i = s.guardOf i := rfl
@[simp] theorem State.setLine_link_same (l : LineId) (x : Line) (i : PositionId) :
    (s.setLine l x).link i = s.link i := rfl
@[simp] theorem State.setLine_port_same (l : LineId) (x : Line) (i : Port) :
    (s.setLine l x).port i = s.port i := rfl
@[simp] theorem State.setLine_noticeQueue_same (l : LineId) (x : Line) (i : Port) :
    (s.setLine l x).noticeQueue i = s.noticeQueue i := rfl
@[simp] theorem State.setLine_stagingOf_same (l : LineId) (x : Line) (i : Port) :
    (s.setLine l x).stagingOf i = s.stagingOf i := rfl
@[simp] theorem State.setLine_slot_same (l : LineId) (x : Line) (i : PositionId) (j : Handset) :
    (s.setLine l x).slot i j = s.slot i j := rfl
@[simp] theorem State.setLine_hook_same (l : LineId) (x : Line) (i : PositionId) (j : Handset) :
    (s.setLine l x).hook i j = s.hook i j := rfl
@[simp] theorem State.setLine_selected_same (l : LineId) (x : Line) (i : PositionId) :
    (s.setLine l x).selected i = s.selected i := rfl

@[simp] theorem State.setPosition_line_same (p : PositionId) (x : Position) (i : LineId) :
    (s.setPosition p x).line i = s.line i := rfl
@[simp] theorem State.setPosition_group_same (p : PositionId) (x : Position) (i : GroupId) :
    (s.setPosition p x).group i = s.group i := rfl
@[simp] theorem State.setPosition_speaker_same (p : PositionId) (x : Position) (i : PositionId) :
    (s.setPosition p x).speaker i = s.speaker i := rfl
@[simp] theorem State.setPosition_channel_same (p : PositionId) (x : Position) (i : PositionId) (j : ChannelId) :
    (s.setPosition p x).channel i j = s.channel i j := rfl
@[simp] theorem State.setPosition_entry_same (p : PositionId) (x : Position) (i : PositionId) (j : Key) :
    (s.setPosition p x).entry i j = s.entry i j := rfl
@[simp] theorem State.setPosition_guardOf_same (p : PositionId) (x : Position) (i : PositionId) :
    (s.setPosition p x).guardOf i = s.guardOf i := rfl
@[simp] theorem State.setPosition_link_same (p : PositionId) (x : Position) (i : PositionId) :
    (s.setPosition p x).link i = s.link i := rfl
@[simp] theorem State.setPosition_port_same (p : PositionId) (x : Position) (i : Port) :
    (s.setPosition p x).port i = s.port i := rfl
@[simp] theorem State.setPosition_noticeQueue_same (p : PositionId) (x : Position) (i : Port) :
    (s.setPosition p x).noticeQueue i = s.noticeQueue i := rfl
@[simp] theorem State.setPosition_stagingOf_same (p : PositionId) (x : Position) (i : Port) :
    (s.setPosition p x).stagingOf i = s.stagingOf i := rfl

@[simp] theorem State.setGroup_line_same (g : GroupId) (x : Group) (i : LineId) :
    (s.setGroup g x).line i = s.line i := rfl
@[simp] theorem State.setGroup_position_same (g : GroupId) (x : Group) (i : PositionId) :
    (s.setGroup g x).position i = s.position i := rfl
@[simp] theorem State.setGroup_speaker_same (g : GroupId) (x : Group) (i : PositionId) :
    (s.setGroup g x).speaker i = s.speaker i := rfl
@[simp] theorem State.setGroup_channel_same (g : GroupId) (x : Group) (i : PositionId) (j : ChannelId) :
    (s.setGroup g x).channel i j = s.channel i j := rfl
@[simp] theorem State.setGroup_entry_same (g : GroupId) (x : Group) (i : PositionId) (j : Key) :
    (s.setGroup g x).entry i j = s.entry i j := rfl
@[simp] theorem State.setGroup_guardOf_same (g : GroupId) (x : Group) (i : PositionId) :
    (s.setGroup g x).guardOf i = s.guardOf i := rfl
@[simp] theorem State.setGroup_link_same (g : GroupId) (x : Group) (i : PositionId) :
    (s.setGroup g x).link i = s.link i := rfl
@[simp] theorem State.setGroup_port_same (g : GroupId) (x : Group) (i : Port) :
    (s.setGroup g x).port i = s.port i := rfl
@[simp] theorem State.setGroup_noticeQueue_same (g : GroupId) (x : Group) (i : Port) :
    (s.setGroup g x).noticeQueue i = s.noticeQueue i := rfl
@[simp] theorem State.setGroup_stagingOf_same (g : GroupId) (x : Group) (i : Port) :
    (s.setGroup g x).stagingOf i = s.stagingOf i := rfl
@[simp] theorem State.setGroup_slot_same (g : GroupId) (x : Group) (i : PositionId) (j : Handset) :
    (s.setGroup g x).slot i j = s.slot i j := rfl
@[simp] theorem State.setGroup_hook_same (g : GroupId) (x : Group) (i : PositionId) (j : Handset) :
    (s.setGroup g x).hook i j = s.hook i j := rfl
@[simp] theorem State.setGroup_selected_same (g : GroupId) (x : Group) (i : PositionId) :
    (s.setGroup g x).selected i = s.selected i := rfl

@[simp] theorem State.setSpeaker_line_same (p : PositionId) (x : Speaker) (i : LineId) :
    (s.setSpeaker p x).line i = s.line i := rfl
@[simp] theorem State.setSpeaker_position_same (p : PositionId) (x : Speaker) (i : PositionId) :
    (s.setSpeaker p x).position i = s.position i := rfl
@[simp] theorem State.setSpeaker_group_same (p : PositionId) (x : Speaker) (i : GroupId) :
    (s.setSpeaker p x).group i = s.group i := rfl
@[simp] theorem State.setSpeaker_entry_same (p : PositionId) (x : Speaker) (i : PositionId) (j : Key) :
    (s.setSpeaker p x).entry i j = s.entry i j := rfl
@[simp] theorem State.setSpeaker_guardOf_same (p : PositionId) (x : Speaker) (i : PositionId) :
    (s.setSpeaker p x).guardOf i = s.guardOf i := rfl
@[simp] theorem State.setSpeaker_link_same (p : PositionId) (x : Speaker) (i : PositionId) :
    (s.setSpeaker p x).link i = s.link i := rfl
@[simp] theorem State.setSpeaker_port_same (p : PositionId) (x : Speaker) (i : Port) :
    (s.setSpeaker p x).port i = s.port i := rfl
@[simp] theorem State.setSpeaker_noticeQueue_same (p : PositionId) (x : Speaker) (i : Port) :
    (s.setSpeaker p x).noticeQueue i = s.noticeQueue i := rfl
@[simp] theorem State.setSpeaker_stagingOf_same (p : PositionId) (x : Speaker) (i : Port) :
    (s.setSpeaker p x).stagingOf i = s.stagingOf i := rfl
@[simp] theorem State.setSpeaker_slot_same (p : PositionId) (x : Speaker) (i : PositionId) (j : Handset) :
    (s.setSpeaker p x).slot i j = s.slot i j := rfl
@[simp] theorem State.setSpeaker_hook_same (p : PositionId) (x : Speaker) (i : PositionId) (j : Handset) :
    (s.setSpeaker p x).hook i j = s.hook i j := rfl
@[simp] theorem State.setSpeaker_selected_same (p : PositionId) (x : Speaker) (i : PositionId) :
    (s.setSpeaker p x).selected i = s.selected i := rfl

@[simp] theorem State.setChannel_line_same (p : PositionId) (n : ChannelId) (x : Channel) (i : LineId) :
    (s.setChannel p n x).line i = s.line i := rfl
@[simp] theorem State.setChannel_position_same (p : PositionId) (n : ChannelId) (x : Channel) (i : PositionId) :
    (s.setChannel p n x).position i = s.position i := rfl
@[simp] theorem State.setChannel_group_same (p : PositionId) (n : ChannelId) (x : Channel) (i : GroupId) :
    (s.setChannel p n x).group i = s.group i := rfl
@[simp] theorem State.setChannel_entry_same (p : PositionId) (n : ChannelId) (x : Channel) (i : PositionId) (j : Key) :
    (s.setChannel p n x).entry i j = s.entry i j := rfl
@[simp] theorem State.setChannel_guardOf_same (p : PositionId) (n : ChannelId) (x : Channel) (i : PositionId) :
    (s.setChannel p n x).guardOf i = s.guardOf i := rfl
@[simp] theorem State.setChannel_link_same (p : PositionId) (n : ChannelId) (x : Channel) (i : PositionId) :
    (s.setChannel p n x).link i = s.link i := rfl
@[simp] theorem State.setChannel_port_same (p : PositionId) (n : ChannelId) (x : Channel) (i : Port) :
    (s.setChannel p n x).port i = s.port i := rfl
@[simp] theorem State.setChannel_noticeQueue_same (p : PositionId) (n : ChannelId) (x : Channel) (i : Port) :
    (s.setChannel p n x).noticeQueue i = s.noticeQueue i := rfl
@[simp] theorem State.setChannel_stagingOf_same (p : PositionId) (n : ChannelId) (x : Channel) (i : Port) :
    (s.setChannel p n x).stagingOf i = s.stagingOf i := rfl
@[simp] theorem State.setChannel_slot_same (p : PositionId) (n : ChannelId) (x : Channel) (i : PositionId) (j : Handset) :
    (s.setChannel p n x).slot i j = s.slot i j := rfl
@[simp] theorem State.setChannel_hook_same (p : PositionId) (n : ChannelId) (x : Channel) (i : PositionId) (j : Handset) :
    (s.setChannel p n x).hook i j = s.hook i j := rfl
@[simp] theorem State.setChannel_selected_same (p : PositionId) (n : ChannelId) (x : Channel) (i : PositionId) :
    (s.setChannel p n x).selected i = s.selected i := rfl

@[simp] theorem State.setEntry_line_same (p : PositionId) (k : Key) (x : Entry) (i : LineId) :
    (s.setEntry p k x).line i = s.line i := rfl
@[simp] theorem State.setEntry_position_same (p : PositionId) (k : Key) (x : Entry) (i : PositionId) :
    (s.setEntry p k x).position i = s.position i := rfl
@[simp] theorem State.setEntry_group_same (p : PositionId) (k : Key) (x : Entry) (i : GroupId) :
    (s.setEntry p k x).group i = s.group i := rfl
@[simp] theorem State.setEntry_speaker_same (p : PositionId) (k : Key) (x : Entry) (i : PositionId) :
    (s.setEntry p k x).speaker i = s.speaker i := rfl
@[simp] theorem State.setEntry_channel_same (p : PositionId) (k : Key) (x : Entry) (i : PositionId) (j : ChannelId) :
    (s.setEntry p k x).channel i j = s.channel i j := rfl
@[simp] theorem State.setEntry_guardOf_same (p : PositionId) (k : Key) (x : Entry) (i : PositionId) :
    (s.setEntry p k x).guardOf i = s.guardOf i := rfl
@[simp] theorem State.setEntry_link_same (p : PositionId) (k : Key) (x : Entry) (i : PositionId) :
    (s.setEntry p k x).link i = s.link i := rfl
@[simp] theorem State.setEntry_port_same (p : PositionId) (k : Key) (x : Entry) (i : Port) :
    (s.setEntry p k x).port i = s.port i := rfl
@[simp] theorem State.setEntry_noticeQueue_same (p : PositionId) (k : Key) (x : Entry) (i : Port) :
    (s.setEntry p k x).noticeQueue i = s.noticeQueue i := rfl
@[simp] theorem State.setEntry_stagingOf_same (p : PositionId) (k : Key) (x : Entry) (i : Port) :
    (s.setEntry p k x).stagingOf i = s.stagingOf i := rfl
@[simp] theorem State.setEntry_slot_same (p : PositionId) (k : Key) (x : Entry) (i : PositionId) (j : Handset) :
    (s.setEntry p k x).slot i j = s.slot i j := rfl
@[simp] theorem State.setEntry_hook_same (p : PositionId) (k : Key) (x : Entry) (i : PositionId) (j : Handset) :
    (s.setEntry p k x).hook i j = s.hook i j := rfl
@[simp] theorem State.setEntry_selected_same (p : PositionId) (k : Key) (x : Entry) (i : PositionId) :
    (s.setEntry p k x).selected i = s.selected i := rfl

@[simp] theorem State.setLink_line_same (p : PositionId) (x : Link) (i : LineId) :
    (s.setLink p x).line i = s.line i := rfl
@[simp] theorem State.setLink_position_same (p : PositionId) (x : Link) (i : PositionId) :
    (s.setLink p x).position i = s.position i := rfl
@[simp] theorem State.setLink_group_same (p : PositionId) (x : Link) (i : GroupId) :
    (s.setLink p x).group i = s.group i := rfl
@[simp] theorem State.setLink_speaker_same (p : PositionId) (x : Link) (i : PositionId) :
    (s.setLink p x).speaker i = s.speaker i := rfl
@[simp] theorem State.setLink_channel_same (p : PositionId) (x : Link) (i : PositionId) (j : ChannelId) :
    (s.setLink p x).channel i j = s.channel i j := rfl
@[simp] theorem State.setLink_entry_same (p : PositionId) (x : Link) (i : PositionId) (j : Key) :
    (s.setLink p x).entry i j = s.entry i j := rfl
@[simp] theorem State.setLink_guardOf_same (p : PositionId) (x : Link) (i : PositionId) :
    (s.setLink p x).guardOf i = s.guardOf i := rfl
@[simp] theorem State.setLink_port_same (p : PositionId) (x : Link) (i : Port) :
    (s.setLink p x).port i = s.port i := rfl
@[simp] theorem State.setLink_noticeQueue_same (p : PositionId) (x : Link) (i : Port) :
    (s.setLink p x).noticeQueue i = s.noticeQueue i := rfl
@[simp] theorem State.setLink_stagingOf_same (p : PositionId) (x : Link) (i : Port) :
    (s.setLink p x).stagingOf i = s.stagingOf i := rfl
@[simp] theorem State.setLink_slot_same (p : PositionId) (x : Link) (i : PositionId) (j : Handset) :
    (s.setLink p x).slot i j = s.slot i j := rfl
@[simp] theorem State.setLink_hook_same (p : PositionId) (x : Link) (i : PositionId) (j : Handset) :
    (s.setLink p x).hook i j = s.hook i j := rfl
@[simp] theorem State.setLink_selected_same (p : PositionId) (x : Link) (i : PositionId) :
    (s.setLink p x).selected i = s.selected i := rfl

@[simp] theorem State.setPort_line_same (c : Port) (x : PortRecord) (i : LineId) :
    (s.setPort c x).line i = s.line i := rfl
@[simp] theorem State.setPort_position_same (c : Port) (x : PortRecord) (i : PositionId) :
    (s.setPort c x).position i = s.position i := rfl
@[simp] theorem State.setPort_group_same (c : Port) (x : PortRecord) (i : GroupId) :
    (s.setPort c x).group i = s.group i := rfl
@[simp] theorem State.setPort_speaker_same (c : Port) (x : PortRecord) (i : PositionId) :
    (s.setPort c x).speaker i = s.speaker i := rfl
@[simp] theorem State.setPort_channel_same (c : Port) (x : PortRecord) (i : PositionId) (j : ChannelId) :
    (s.setPort c x).channel i j = s.channel i j := rfl
@[simp] theorem State.setPort_entry_same (c : Port) (x : PortRecord) (i : PositionId) (j : Key) :
    (s.setPort c x).entry i j = s.entry i j := rfl
@[simp] theorem State.setPort_guardOf_same (c : Port) (x : PortRecord) (i : PositionId) :
    (s.setPort c x).guardOf i = s.guardOf i := rfl
@[simp] theorem State.setPort_link_same (c : Port) (x : PortRecord) (i : PositionId) :
    (s.setPort c x).link i = s.link i := rfl
@[simp] theorem State.setPort_noticeQueue_same (c : Port) (x : PortRecord) (i : Port) :
    (s.setPort c x).noticeQueue i = s.noticeQueue i := rfl
@[simp] theorem State.setPort_stagingOf_same (c : Port) (x : PortRecord) (i : Port) :
    (s.setPort c x).stagingOf i = s.stagingOf i := rfl
@[simp] theorem State.setPort_slot_same (c : Port) (x : PortRecord) (i : PositionId) (j : Handset) :
    (s.setPort c x).slot i j = s.slot i j := rfl
@[simp] theorem State.setPort_hook_same (c : Port) (x : PortRecord) (i : PositionId) (j : Handset) :
    (s.setPort c x).hook i j = s.hook i j := rfl
@[simp] theorem State.setPort_selected_same (c : Port) (x : PortRecord) (i : PositionId) :
    (s.setPort c x).selected i = s.selected i := rfl

@[simp] theorem State.setNoticeQueue_line_same (c : Port) (x : NoticeQueue) (i : LineId) :
    (s.setNoticeQueue c x).line i = s.line i := rfl
@[simp] theorem State.setNoticeQueue_position_same (c : Port) (x : NoticeQueue) (i : PositionId) :
    (s.setNoticeQueue c x).position i = s.position i := rfl
@[simp] theorem State.setNoticeQueue_group_same (c : Port) (x : NoticeQueue) (i : GroupId) :
    (s.setNoticeQueue c x).group i = s.group i := rfl
@[simp] theorem State.setNoticeQueue_speaker_same (c : Port) (x : NoticeQueue) (i : PositionId) :
    (s.setNoticeQueue c x).speaker i = s.speaker i := rfl
@[simp] theorem State.setNoticeQueue_channel_same (c : Port) (x : NoticeQueue) (i : PositionId) (j : ChannelId) :
    (s.setNoticeQueue c x).channel i j = s.channel i j := rfl
@[simp] theorem State.setNoticeQueue_entry_same (c : Port) (x : NoticeQueue) (i : PositionId) (j : Key) :
    (s.setNoticeQueue c x).entry i j = s.entry i j := rfl
@[simp] theorem State.setNoticeQueue_guardOf_same (c : Port) (x : NoticeQueue) (i : PositionId) :
    (s.setNoticeQueue c x).guardOf i = s.guardOf i := rfl
@[simp] theorem State.setNoticeQueue_link_same (c : Port) (x : NoticeQueue) (i : PositionId) :
    (s.setNoticeQueue c x).link i = s.link i := rfl
@[simp] theorem State.setNoticeQueue_port_same (c : Port) (x : NoticeQueue) (i : Port) :
    (s.setNoticeQueue c x).port i = s.port i := rfl
@[simp] theorem State.setNoticeQueue_stagingOf_same (c : Port) (x : NoticeQueue) (i : Port) :
    (s.setNoticeQueue c x).stagingOf i = s.stagingOf i := rfl
@[simp] theorem State.setNoticeQueue_slot_same (c : Port) (x : NoticeQueue) (i : PositionId) (j : Handset) :
    (s.setNoticeQueue c x).slot i j = s.slot i j := rfl
@[simp] theorem State.setNoticeQueue_hook_same (c : Port) (x : NoticeQueue) (i : PositionId) (j : Handset) :
    (s.setNoticeQueue c x).hook i j = s.hook i j := rfl
@[simp] theorem State.setNoticeQueue_selected_same (c : Port) (x : NoticeQueue) (i : PositionId) :
    (s.setNoticeQueue c x).selected i = s.selected i := rfl

@[simp] theorem State.setSlot_line_same (p : PositionId) (h : Handset) (x : Option Held) (i : LineId) :
    (s.setSlot p h x).line i = s.line i := rfl
@[simp] theorem State.setSlot_group_same (p : PositionId) (h : Handset) (x : Option Held) (i : GroupId) :
    (s.setSlot p h x).group i = s.group i := rfl
@[simp] theorem State.setSlot_speaker_same (p : PositionId) (h : Handset) (x : Option Held) (i : PositionId) :
    (s.setSlot p h x).speaker i = s.speaker i := rfl
@[simp] theorem State.setSlot_channel_same (p : PositionId) (h : Handset) (x : Option Held) (i : PositionId) (j : ChannelId) :
    (s.setSlot p h x).channel i j = s.channel i j := rfl
@[simp] theorem State.setSlot_entry_same (p : PositionId) (h : Handset) (x : Option Held) (i : PositionId) (j : Key) :
    (s.setSlot p h x).entry i j = s.entry i j := rfl
@[simp] theorem State.setSlot_guardOf_same (p : PositionId) (h : Handset) (x : Option Held) (i : PositionId) :
    (s.setSlot p h x).guardOf i = s.guardOf i := rfl
@[simp] theorem State.setSlot_link_same (p : PositionId) (h : Handset) (x : Option Held) (i : PositionId) :
    (s.setSlot p h x).link i = s.link i := rfl
@[simp] theorem State.setSlot_port_same (p : PositionId) (h : Handset) (x : Option Held) (i : Port) :
    (s.setSlot p h x).port i = s.port i := rfl
@[simp] theorem State.setSlot_noticeQueue_same (p : PositionId) (h : Handset) (x : Option Held) (i : Port) :
    (s.setSlot p h x).noticeQueue i = s.noticeQueue i := rfl
@[simp] theorem State.setSlot_stagingOf_same (p : PositionId) (h : Handset) (x : Option Held) (i : Port) :
    (s.setSlot p h x).stagingOf i = s.stagingOf i := rfl

@[simp] theorem State.reach_line_same (due : Nat) (i : LineId) :
    (s.reach due).line i = s.line i := rfl
@[simp] theorem State.reach_position_same (due : Nat) (i : PositionId) :
    (s.reach due).position i = s.position i := rfl
@[simp] theorem State.reach_group_same (due : Nat) (i : GroupId) :
    (s.reach due).group i = s.group i := rfl
@[simp] theorem State.reach_speaker_same (due : Nat) (i : PositionId) :
    (s.reach due).speaker i = s.speaker i := rfl
@[simp] theorem State.reach_channel_same (due : Nat) (i : PositionId) (j : ChannelId) :
    (s.reach due).channel i j = s.channel i j := rfl
@[simp] theorem State.reach_entry_same (due : Nat) (i : PositionId) (j : Key) :
    (s.reach due).entry i j = s.entry i j := rfl
@[simp] theorem State.reach_guardOf_same (due : Nat) (i : PositionId) :
    (s.reach due).guardOf i = s.guardOf i := rfl
@[simp] theorem State.reach_link_same (due : Nat) (i : PositionId) :
    (s.reach due).link i = s.link i := rfl
@[simp] theorem State.reach_port_same (due : Nat) (i : Port) :
    (s.reach due).port i = s.port i := rfl
@[simp] theorem State.reach_noticeQueue_same (due : Nat) (i : Port) :
    (s.reach due).noticeQueue i = s.noticeQueue i := rfl
@[simp] theorem State.reach_stagingOf_same (due : Nat) (i : Port) :
    (s.reach due).stagingOf i = s.stagingOf i := rfl
@[simp] theorem State.reach_slot_same (due : Nat) (i : PositionId) (j : Handset) :
    (s.reach due).slot i j = s.slot i j := rfl
@[simp] theorem State.reach_hook_same (due : Nat) (i : PositionId) (j : Handset) :
    (s.reach due).hook i j = s.hook i j := rfl
@[simp] theorem State.reach_selected_same (due : Nat) (i : PositionId) :
    (s.reach due).selected i = s.selected i := rfl

@[simp] theorem State.offer_line_same (l : LineId) (i : LineId) :
    (s.offer l).line i = s.line i := rfl
@[simp] theorem State.offer_position_same (l : LineId) (i : PositionId) :
    (s.offer l).position i = s.position i := rfl
@[simp] theorem State.offer_group_same (l : LineId) (i : GroupId) :
    (s.offer l).group i = s.group i := rfl
@[simp] theorem State.offer_speaker_same (l : LineId) (i : PositionId) :
    (s.offer l).speaker i = s.speaker i := rfl
@[simp] theorem State.offer_channel_same (l : LineId) (i : PositionId) (j : ChannelId) :
    (s.offer l).channel i j = s.channel i j := rfl
@[simp] theorem State.offer_entry_same (l : LineId) (i : PositionId) (j : Key) :
    (s.offer l).entry i j = s.entry i j := rfl
@[simp] theorem State.offer_guardOf_same (l : LineId) (i : PositionId) :
    (s.offer l).guardOf i = s.guardOf i := rfl
@[simp] theorem State.offer_link_same (l : LineId) (i : PositionId) :
    (s.offer l).link i = s.link i := rfl
@[simp] theorem State.offer_port_same (l : LineId) (i : Port) :
    (s.offer l).port i = s.port i := rfl
@[simp] theorem State.offer_noticeQueue_same (l : LineId) (i : Port) :
    (s.offer l).noticeQueue i = s.noticeQueue i := rfl
@[simp] theorem State.offer_stagingOf_same (l : LineId) (i : Port) :
    (s.offer l).stagingOf i = s.stagingOf i := rfl
@[simp] theorem State.offer_slot_same (l : LineId) (i : PositionId) (j : Handset) :
    (s.offer l).slot i j = s.slot i j := rfl
@[simp] theorem State.offer_hook_same (l : LineId) (i : PositionId) (j : Handset) :
    (s.offer l).hook i j = s.hook i j := rfl
@[simp] theorem State.offer_selected_same (l : LineId) (i : PositionId) :
    (s.offer l).selected i = s.selected i := rfl

@[simp] theorem State.raise_line_same (b : NoticeBody) (i : LineId) :
    (s.raise b).line i = s.line i := rfl
@[simp] theorem State.raise_position_same (b : NoticeBody) (i : PositionId) :
    (s.raise b).position i = s.position i := rfl
@[simp] theorem State.raise_group_same (b : NoticeBody) (i : GroupId) :
    (s.raise b).group i = s.group i := rfl
@[simp] theorem State.raise_speaker_same (b : NoticeBody) (i : PositionId) :
    (s.raise b).speaker i = s.speaker i := rfl
@[simp] theorem State.raise_channel_same (b : NoticeBody) (i : PositionId) (j : ChannelId) :
    (s.raise b).channel i j = s.channel i j := rfl
@[simp] theorem State.raise_entry_same (b : NoticeBody) (i : PositionId) (j : Key) :
    (s.raise b).entry i j = s.entry i j := rfl
@[simp] theorem State.raise_guardOf_same (b : NoticeBody) (i : PositionId) :
    (s.raise b).guardOf i = s.guardOf i := rfl
@[simp] theorem State.raise_link_same (b : NoticeBody) (i : PositionId) :
    (s.raise b).link i = s.link i := rfl
@[simp] theorem State.raise_port_same (b : NoticeBody) (i : Port) :
    (s.raise b).port i = s.port i := rfl
@[simp] theorem State.raise_stagingOf_same (b : NoticeBody) (i : Port) :
    (s.raise b).stagingOf i = s.stagingOf i := rfl
@[simp] theorem State.raise_slot_same (b : NoticeBody) (i : PositionId) (j : Handset) :
    (s.raise b).slot i j = s.slot i j := rfl
@[simp] theorem State.raise_hook_same (b : NoticeBody) (i : PositionId) (j : Handset) :
    (s.raise b).hook i j = s.hook i j := rfl
@[simp] theorem State.raise_selected_same (b : NoticeBody) (i : PositionId) :
    (s.raise b).selected i = s.selected i := rfl

@[simp] theorem State.answer_line_same (c : Port) (r : ResultCode) (d : List Byte) (i : LineId) :
    (s.answer c r d).line i = s.line i := rfl
@[simp] theorem State.answer_position_same (c : Port) (r : ResultCode) (d : List Byte) (i : PositionId) :
    (s.answer c r d).position i = s.position i := rfl
@[simp] theorem State.answer_group_same (c : Port) (r : ResultCode) (d : List Byte) (i : GroupId) :
    (s.answer c r d).group i = s.group i := rfl
@[simp] theorem State.answer_speaker_same (c : Port) (r : ResultCode) (d : List Byte) (i : PositionId) :
    (s.answer c r d).speaker i = s.speaker i := rfl
@[simp] theorem State.answer_channel_same (c : Port) (r : ResultCode) (d : List Byte) (i : PositionId) (j : ChannelId) :
    (s.answer c r d).channel i j = s.channel i j := rfl
@[simp] theorem State.answer_entry_same (c : Port) (r : ResultCode) (d : List Byte) (i : PositionId) (j : Key) :
    (s.answer c r d).entry i j = s.entry i j := rfl
@[simp] theorem State.answer_guardOf_same (c : Port) (r : ResultCode) (d : List Byte) (i : PositionId) :
    (s.answer c r d).guardOf i = s.guardOf i := rfl
@[simp] theorem State.answer_link_same (c : Port) (r : ResultCode) (d : List Byte) (i : PositionId) :
    (s.answer c r d).link i = s.link i := rfl
@[simp] theorem State.answer_noticeQueue_same (c : Port) (r : ResultCode) (d : List Byte) (i : Port) :
    (s.answer c r d).noticeQueue i = s.noticeQueue i := rfl
@[simp] theorem State.answer_stagingOf_same (c : Port) (r : ResultCode) (d : List Byte) (i : Port) :
    (s.answer c r d).stagingOf i = s.stagingOf i := rfl
@[simp] theorem State.answer_slot_same (c : Port) (r : ResultCode) (d : List Byte) (i : PositionId) (j : Handset) :
    (s.answer c r d).slot i j = s.slot i j := rfl
@[simp] theorem State.answer_hook_same (c : Port) (r : ResultCode) (d : List Byte) (i : PositionId) (j : Handset) :
    (s.answer c r d).hook i j = s.hook i j := rfl
@[simp] theorem State.answer_selected_same (c : Port) (r : ResultCode) (d : List Byte) (i : PositionId) :
    (s.answer c r d).selected i = s.selected i := rfl

@[simp] theorem State.startDeny_line_same (p : PositionId) (x : LampId) (i : LineId) :
    (s.startDeny p x).line i = s.line i := rfl
@[simp] theorem State.startDeny_group_same (p : PositionId) (x : LampId) (i : GroupId) :
    (s.startDeny p x).group i = s.group i := rfl
@[simp] theorem State.startDeny_speaker_same (p : PositionId) (x : LampId) (i : PositionId) :
    (s.startDeny p x).speaker i = s.speaker i := rfl
@[simp] theorem State.startDeny_channel_same (p : PositionId) (x : LampId) (i : PositionId) (j : ChannelId) :
    (s.startDeny p x).channel i j = s.channel i j := rfl
@[simp] theorem State.startDeny_entry_same (p : PositionId) (x : LampId) (i : PositionId) (j : Key) :
    (s.startDeny p x).entry i j = s.entry i j := rfl
@[simp] theorem State.startDeny_guardOf_same (p : PositionId) (x : LampId) (i : PositionId) :
    (s.startDeny p x).guardOf i = s.guardOf i := rfl
@[simp] theorem State.startDeny_link_same (p : PositionId) (x : LampId) (i : PositionId) :
    (s.startDeny p x).link i = s.link i := rfl
@[simp] theorem State.startDeny_port_same (p : PositionId) (x : LampId) (i : Port) :
    (s.startDeny p x).port i = s.port i := rfl
@[simp] theorem State.startDeny_noticeQueue_same (p : PositionId) (x : LampId) (i : Port) :
    (s.startDeny p x).noticeQueue i = s.noticeQueue i := rfl
@[simp] theorem State.startDeny_stagingOf_same (p : PositionId) (x : LampId) (i : Port) :
    (s.startDeny p x).stagingOf i = s.stagingOf i := rfl

@[simp] theorem State.updateTalking_position_same (l : LineId) (p : PositionId) (x : Path) (v : Bool) (i : PositionId) :
    (s.updateTalking l p x v).position i = s.position i := rfl
@[simp] theorem State.updateTalking_group_same (l : LineId) (p : PositionId) (x : Path) (v : Bool) (i : GroupId) :
    (s.updateTalking l p x v).group i = s.group i := rfl
@[simp] theorem State.updateTalking_speaker_same (l : LineId) (p : PositionId) (x : Path) (v : Bool) (i : PositionId) :
    (s.updateTalking l p x v).speaker i = s.speaker i := rfl
@[simp] theorem State.updateTalking_channel_same (l : LineId) (p : PositionId) (x : Path) (v : Bool) (i : PositionId) (j : ChannelId) :
    (s.updateTalking l p x v).channel i j = s.channel i j := rfl
@[simp] theorem State.updateTalking_entry_same (l : LineId) (p : PositionId) (x : Path) (v : Bool) (i : PositionId) (j : Key) :
    (s.updateTalking l p x v).entry i j = s.entry i j := rfl
@[simp] theorem State.updateTalking_guardOf_same (l : LineId) (p : PositionId) (x : Path) (v : Bool) (i : PositionId) :
    (s.updateTalking l p x v).guardOf i = s.guardOf i := rfl
@[simp] theorem State.updateTalking_link_same (l : LineId) (p : PositionId) (x : Path) (v : Bool) (i : PositionId) :
    (s.updateTalking l p x v).link i = s.link i := rfl
@[simp] theorem State.updateTalking_port_same (l : LineId) (p : PositionId) (x : Path) (v : Bool) (i : Port) :
    (s.updateTalking l p x v).port i = s.port i := rfl
@[simp] theorem State.updateTalking_noticeQueue_same (l : LineId) (p : PositionId) (x : Path) (v : Bool) (i : Port) :
    (s.updateTalking l p x v).noticeQueue i = s.noticeQueue i := rfl
@[simp] theorem State.updateTalking_stagingOf_same (l : LineId) (p : PositionId) (x : Path) (v : Bool) (i : Port) :
    (s.updateTalking l p x v).stagingOf i = s.stagingOf i := rfl
@[simp] theorem State.updateTalking_slot_same (l : LineId) (p : PositionId) (x : Path) (v : Bool) (i : PositionId) (j : Handset) :
    (s.updateTalking l p x v).slot i j = s.slot i j := rfl
@[simp] theorem State.updateTalking_hook_same (l : LineId) (p : PositionId) (x : Path) (v : Bool) (i : PositionId) (j : Handset) :
    (s.updateTalking l p x v).hook i j = s.hook i j := rfl
@[simp] theorem State.updateTalking_selected_same (l : LineId) (p : PositionId) (x : Path) (v : Bool) (i : PositionId) :
    (s.updateTalking l p x v).selected i = s.selected i := rfl

@[simp] theorem State.updateTalkCapable_position_same (l : LineId) (p : PositionId) (x : Path) (v : Bool) (i : PositionId) :
    (s.updateTalkCapable l p x v).position i = s.position i := rfl
@[simp] theorem State.updateTalkCapable_group_same (l : LineId) (p : PositionId) (x : Path) (v : Bool) (i : GroupId) :
    (s.updateTalkCapable l p x v).group i = s.group i := rfl
@[simp] theorem State.updateTalkCapable_speaker_same (l : LineId) (p : PositionId) (x : Path) (v : Bool) (i : PositionId) :
    (s.updateTalkCapable l p x v).speaker i = s.speaker i := rfl
@[simp] theorem State.updateTalkCapable_channel_same (l : LineId) (p : PositionId) (x : Path) (v : Bool) (i : PositionId) (j : ChannelId) :
    (s.updateTalkCapable l p x v).channel i j = s.channel i j := rfl
@[simp] theorem State.updateTalkCapable_entry_same (l : LineId) (p : PositionId) (x : Path) (v : Bool) (i : PositionId) (j : Key) :
    (s.updateTalkCapable l p x v).entry i j = s.entry i j := rfl
@[simp] theorem State.updateTalkCapable_guardOf_same (l : LineId) (p : PositionId) (x : Path) (v : Bool) (i : PositionId) :
    (s.updateTalkCapable l p x v).guardOf i = s.guardOf i := rfl
@[simp] theorem State.updateTalkCapable_link_same (l : LineId) (p : PositionId) (x : Path) (v : Bool) (i : PositionId) :
    (s.updateTalkCapable l p x v).link i = s.link i := rfl
@[simp] theorem State.updateTalkCapable_port_same (l : LineId) (p : PositionId) (x : Path) (v : Bool) (i : Port) :
    (s.updateTalkCapable l p x v).port i = s.port i := rfl
@[simp] theorem State.updateTalkCapable_noticeQueue_same (l : LineId) (p : PositionId) (x : Path) (v : Bool) (i : Port) :
    (s.updateTalkCapable l p x v).noticeQueue i = s.noticeQueue i := rfl
@[simp] theorem State.updateTalkCapable_stagingOf_same (l : LineId) (p : PositionId) (x : Path) (v : Bool) (i : Port) :
    (s.updateTalkCapable l p x v).stagingOf i = s.stagingOf i := rfl
@[simp] theorem State.updateTalkCapable_slot_same (l : LineId) (p : PositionId) (x : Path) (v : Bool) (i : PositionId) (j : Handset) :
    (s.updateTalkCapable l p x v).slot i j = s.slot i j := rfl
@[simp] theorem State.updateTalkCapable_hook_same (l : LineId) (p : PositionId) (x : Path) (v : Bool) (i : PositionId) (j : Handset) :
    (s.updateTalkCapable l p x v).hook i j = s.hook i j := rfl
@[simp] theorem State.updateTalkCapable_selected_same (l : LineId) (p : PositionId) (x : Path) (v : Bool) (i : PositionId) :
    (s.updateTalkCapable l p x v).selected i = s.selected i := rfl

@[simp] theorem State.sendLamps_line_same (i : LineId) :
    s.sendLamps.line i = s.line i := rfl
@[simp] theorem State.sendLamps_position_same (i : PositionId) :
    s.sendLamps.position i = s.position i := rfl
@[simp] theorem State.sendLamps_group_same (i : GroupId) :
    s.sendLamps.group i = s.group i := rfl
@[simp] theorem State.sendLamps_speaker_same (i : PositionId) :
    s.sendLamps.speaker i = s.speaker i := rfl
@[simp] theorem State.sendLamps_channel_same (i : PositionId) (j : ChannelId) :
    s.sendLamps.channel i j = s.channel i j := rfl
@[simp] theorem State.sendLamps_entry_same (i : PositionId) (j : Key) :
    s.sendLamps.entry i j = s.entry i j := rfl
@[simp] theorem State.sendLamps_guardOf_same (i : PositionId) :
    s.sendLamps.guardOf i = s.guardOf i := rfl
@[simp] theorem State.sendLamps_port_same (i : Port) :
    s.sendLamps.port i = s.port i := rfl
@[simp] theorem State.sendLamps_noticeQueue_same (i : Port) :
    s.sendLamps.noticeQueue i = s.noticeQueue i := rfl
@[simp] theorem State.sendLamps_stagingOf_same (i : Port) :
    s.sendLamps.stagingOf i = s.stagingOf i := rfl
@[simp] theorem State.sendLamps_slot_same (i : PositionId) (j : Handset) :
    s.sendLamps.slot i j = s.slot i j := rfl
@[simp] theorem State.sendLamps_hook_same (i : PositionId) (j : Handset) :
    s.sendLamps.hook i j = s.hook i j := rfl
@[simp] theorem State.sendLamps_selected_same (i : PositionId) :
    s.sendLamps.selected i = s.selected i := rfl

end Sys2Proof.Machine
end

