-- ==== Sys2Proof/Laws/Frames.lean ====
section
/-! SUPPORT. For each shared operation, the parts of State that it can change: everything else is as it was. -/

namespace Sys2Proof.Machine

-- One theorem after another: elaborated side by side, they hold some forty threads and the memory of their stacks.
set_option Elab.async false

/-! ### The frame relation -/

theorem SameExcept.refl (ch : List Part) (s : State) : SameExcept ch s s := by
  intro q _
  cases q <;> rfl

theorem Part.same_trans {q : Part} {s t u : State} (h1 : q.same s t) (h2 : q.same t u) : q.same s u := by
  cases q <;> exact h2.trans h1

theorem SameExcept.trans {ch : List Part} {s t u : State} (h1 : SameExcept ch s t) (h2 : SameExcept ch t u) :
    SameExcept ch s u := fun q hq => Part.same_trans (h1 q hq) (h2 q hq)

theorem SameExcept.mono {ch ch' : List Part} {s t : State} (h : SameExcept ch s t)
    (hs : ∀ q ∈ ch, q ∈ ch' := by decide) : SameExcept ch' s t := fun q hq => h q fun hc => hq (hs q hc)

/-- Two changes in a row change at most what either may. -/
theorem SameExcept.step {ch ch1 ch2 : List Part} {s t u : State} (h1 : SameExcept ch1 s t)
    (h2 : SameExcept ch2 t u) (hs1 : ∀ q ∈ ch1, q ∈ ch := by decide) (hs2 : ∀ q ∈ ch2, q ∈ ch := by decide) :
    SameExcept ch s u := (h1.mono hs1).trans (h2.mono hs2)

theorem SameExcept.foldl {α : Type} {ch : List Part} {f : State → α → State}
    (h : ∀ s a, SameExcept ch s (f s a)) (xs : List α) (s : State) : SameExcept ch s (xs.foldl f s) := by
  induction xs generalizing s with
  | nil => exact SameExcept.refl ch s
  | cons x xs ih => exact (h s x).trans (ih (f s x))

/-- A frame shown part by part: every part but the listed ones by `rfl`. -/
theorem SameExcept.of {ch : List Part} {s t : State} (h : ∀ q : Part, q ∈ ch ∨ q.same s t) : SameExcept ch s t :=
  fun q hq => (h q).resolve_left hq

variable (s : State)

/-! ### Records, notices and rings -/

theorem setLine_frame (l : LineId) (x : Line) : SameExcept [.lines] s (s.setLine l x) := by
  intro q hq; cases q <;> first | rfl | simp at hq

theorem setPosition_frame (p : PositionId) (x : Position) : SameExcept [.positions] s (s.setPosition p x) := by
  intro q hq; cases q <;> first | rfl | simp at hq

theorem setGroup_frame (g : GroupId) (x : Group) : SameExcept [.groups] s (s.setGroup g x) := by
  intro q hq; cases q <;> first | rfl | simp at hq

theorem setSpeaker_frame (p : PositionId) (x : Speaker) : SameExcept [.speakers] s (s.setSpeaker p x) := by
  intro q hq; cases q <;> first | rfl | simp at hq

theorem setChannel_frame (p : PositionId) (n : ChannelId) (x : Channel) :
    SameExcept [.speakers] s (s.setChannel p n x) := by
  intro q hq; cases q <;> first | rfl | simp at hq

theorem setEntry_frame (p : PositionId) (k : Key) (x : Entry) : SameExcept [.directory] s (s.setEntry p k x) := by
  intro q hq; cases q <;> first | rfl | simp at hq

theorem setGuard_frame (p : PositionId) (x : Guard) : SameExcept [.guards] s (s.setGuard p x) := by
  intro q hq; cases q <;> first | rfl | simp at hq

theorem setStaging_frame (c : Port) (x : Staging) : SameExcept [.staging] s (s.setStaging c x) := by
  intro q hq; cases q <;> first | rfl | simp at hq

theorem setLink_frame (p : PositionId) (x : Link) : SameExcept [.links] s (s.setLink p x) := by
  intro q hq; cases q <;> first | rfl | simp at hq

theorem setPort_frame (c : Port) (x : PortRecord) : SameExcept [.ports] s (s.setPort c x) := by
  intro q hq; cases q <;> first | rfl | simp at hq

theorem answer_frame (c : Port) (r : ResultCode) (d : List Byte) : SameExcept [.ports] s (s.answer c r d) := by
  intro q hq; cases q <;> first | rfl | simp at hq

theorem reach_frame (due : Nat) : SameExcept [.clock] s (s.reach due) := by
  intro q hq; cases q <;> first | rfl | simp at hq

theorem offer_frame (l : LineId) : SameExcept [.offers] s (s.offer l) := by
  intro q hq; cases q <;> first | rfl | simp at hq

theorem raise_frame (b : NoticeBody) : SameExcept [.notices] s (s.raise b) := by
  intro q hq; cases q <;> first | rfl | simp at hq

theorem setSlot_frame (p : PositionId) (h : Handset) (x : Option Held) :
    SameExcept [.positions, .termCount] s (s.setSlot p h x) := by
  intro q hq; cases q <;> first | rfl | simp at hq

theorem updateTalking_frame (l : LineId) (p : PositionId) (x : Path) (v : Bool) :
    SameExcept [.lines] s (s.updateTalking l p x v) := setLine_frame s _ _

theorem updateTalkCapable_frame (l : LineId) (p : PositionId) (x : Path) (v : Bool) :
    SameExcept [.lines] s (s.updateTalkCapable l p x v) := setLine_frame s _ _

theorem addRing_frame (l : LineId) : SameExcept [.positions] s (s.addRing l) := by
  intro q hq; cases q <;> first | rfl | simp at hq

theorem removeRing_frame (kind : RingKind) (l : LineId) : SameExcept [.positions] s (s.removeRing kind l) := by
  intro q hq; cases q <;> first | rfl | simp at hq

theorem addRecall_frame (l : LineId) : SameExcept [.positions] s (s.addRecall l) := by
  unfold State.addRecall
  split
  · exact setPosition_frame s _ _
  · exact SameExcept.refl _ s

theorem refileRing_frame (l : LineId) : SameExcept [.positions] s (s.refileRing l) := by
  intro q hq; cases q <;> first | rfl | simp at hq

theorem updateRing_frame (p : PositionId) (old : Table 64 Entry) (l : LineId) :
    SameExcept [.positions] s (s.updateRing p old l) := by
  unfold State.updateRing
  repeat' split
  all_goals first | exact SameExcept.refl _ s | exact setPosition_frame s _ _

theorem directoryChanged_frame (p : PositionId) (old : Table 64 Entry) :
    SameExcept [.positions] s (s.directoryChanged p old) := by
  unfold State.directoryChanged
  exact SameExcept.foldl (fun s l => updateRing_frame s p old l) _ s

/-! ### The directory -/

theorem install_frame (p : PositionId) (k : Key) (c : Content) :
    SameExcept [.directory, .positions, .notices] s (s.install p k c) :=
  SameExcept.step (SameExcept.step (ch := [.directory, .positions]) (setEntry_frame s _ _ _)
    (directoryChanged_frame _ _ _)) (raise_frame _ _)

theorem reportEnd_frame (p : PositionId) (k : Key) :
    SameExcept [.directory, .positions, .notices] s (s.reportEnd p k) := by
  unfold State.reportEnd
  split
  · exact SameExcept.refl _ s
  · split
    · exact install_frame s _ _ _
    · exact SameExcept.refl _ s

theorem reportSlot_frame (p : PositionId) (old : Option Held) :
    SameExcept [.directory, .positions, .notices] s (s.reportSlot p old) := by
  unfold State.reportSlot
  split
  · exact reportEnd_frame s _ _
  · exact SameExcept.refl _ s

theorem reportOwner_frame (o : Option KeyRef) :
    SameExcept [.directory, .positions, .notices] s (s.reportOwner o) := by
  unfold State.reportOwner
  split
  · exact reportEnd_frame s _ _
  · exact SameExcept.refl _ s

/-! ### Lines -/

theorem leaveRings_frame (l : LineId) (a b : LineState) : SameExcept [.positions] s (s.leaveRings l a b) := by
  unfold State.leaveRings
  repeat' split
  all_goals first | exact SameExcept.refl _ s | exact removeRing_frame s _ _

theorem joinRings_frame (l : LineId) (a b : LineState) : SameExcept [.positions] s (s.joinRings l a b) := by
  unfold State.joinRings
  repeat' split
  all_goals first | exact SameExcept.refl _ s | exact addRing_frame s _ | exact addRecall_frame s _

theorem raiseLineState_frame (l : LineId) (a b : LineState) :
    SameExcept [.notices] s (s.raiseLineState l a b) := by
  unfold State.raiseLineState
  split
  · exact SameExcept.refl _ s
  · exact raise_frame s _

/-- The parts that a move of a line record can change. -/
abbrev lineParts : List Part := [.lines, .positions, .notices, .offers]

theorem moveLine_frame (l : LineId) (x : Line) : SameExcept lineParts s (s.moveLine l x) := by
  unfold State.moveLine
  have h1 : SameExcept [.lines, .positions] s ((s.setLine l x).leaveRings l (s.line l).state x.state) :=
    SameExcept.step (setLine_frame s _ _) (leaveRings_frame _ _ _ _)
  have h2 : SameExcept [.lines, .positions, .notices] s
      (((s.setLine l x).leaveRings l (s.line l).state x.state).raiseLineState l (s.line l).state x.state) :=
    SameExcept.step h1 (raiseLineState_frame _ _ _ _)
  have h3 : SameExcept [.lines, .positions, .notices] s
      ((((s.setLine l x).leaveRings l (s.line l).state x.state).raiseLineState l (s.line l).state
        x.state).joinRings l (s.line l).state x.state) :=
    SameExcept.step h2 (joinRings_frame _ _ _ _)
  dsimp only
  split
  · exact SameExcept.step h3 (offer_frame _ _)
  · exact h3.mono

theorem take_frame (l : LineId) (t : Take) : SameExcept lineParts s (s.take l t).1 := by
  unfold State.take
  split
  · exact moveLine_frame s _ _
  · exact SameExcept.refl _ s

theorem leave_frame (l : LineId) (p : PositionId) (x : Path) : SameExcept lineParts s (s.leave l p x).1 := by
  unfold State.leave
  split
  · exact SameExcept.refl _ s
  · exact moveLine_frame s _ _

theorem hold_frame (l : LineId) (p : PositionId) (h : Handset) : SameExcept lineParts s (s.hold l p h).1 := by
  unfold State.hold
  repeat' split
  · exact SameExcept.refl _ s
  · exact moveLine_frame s _ _
  · exact leave_frame s _ _ _

theorem privacyRequest_frame (l : LineId) (p : PositionId) (h : Handset) :
    SameExcept lineParts s (s.privacyRequest l p h).1 := by
  unfold State.privacyRequest
  repeat' split
  all_goals first | exact SameExcept.refl _ s | exact moveLine_frame s _ _

theorem reRing_frame (l : LineId) (p : PositionId) (h : Handset) : SameExcept lineParts s (s.reRing l p h).1 := by
  unfold State.reRing
  repeat' split
  all_goals first | exact SameExcept.refl _ s | exact moveLine_frame s _ _

theorem abandon_frame (l : LineId) :
    SameExcept [.lines, .positions, .notices, .offers, .directory] s (s.abandon l) := by
  unfold State.abandon
  exact SameExcept.step
    (SameExcept.step (ch := [.lines, .positions, .notices, .offers, .directory])
      (SameExcept.step (ch := [.lines, .positions, .notices, .directory]) (setLine_frame s _ _)
        (reportOwner_frame _ _))
      (moveLine_frame _ _ _))
    (raise_frame _ _)

theorem partyRemoved_frame (r : ResultCode) (x : Party) :
    SameExcept [.positions, .termCount, .directory, .notices, .speakers] s (State.partyRemoved r s x) := by
  unfold State.partyRemoved
  split
  · exact SameExcept.step (setSlot_frame s _ _ _) (reportSlot_frame _ _ _)
  · exact (setChannel_frame s _ _ _).mono

theorem clearLine_frame (l : LineId) (e : LineState) (r : ResultCode) :
    SameExcept [.lines, .positions, .termCount, .directory, .notices, .speakers, .offers] s (s.clearLine l e r) := by
  unfold State.clearLine
  refine SameExcept.step (ch1 := [.lines, .positions, .termCount, .directory, .notices, .speakers]) ?_
    (moveLine_frame _ _ _)
  refine SameExcept.step (ch1 := [.lines, .positions, .termCount, .directory, .notices, .speakers]) ?_
    (reportOwner_frame _ _)
  refine SameExcept.step (ch1 := [.lines, .positions, .termCount, .directory, .notices, .speakers]) ?_
    (setLine_frame _ _ _)
  exact SameExcept.step (setLine_frame s _ _)
    (SameExcept.foldl (fun s x => partyRemoved_frame s r x) _ _)

/-! ### Groups -/

/-- The parts that a change of a group's floor can change. -/
abbrev floorParts : List Part := [.groups, .notices]

theorem grant_frame (g : GroupId) (p : PositionId) (x : Path) (b : Bool) :
    SameExcept floorParts s (s.grant g p x b) :=
  SameExcept.step (setGroup_frame s _ _) (raise_frame _ _)

theorem grantHead_frame (g : GroupId) : SameExcept floorParts s (s.grantHead g) := by
  unfold State.grantHead
  split
  · exact SameExcept.refl _ s
  · exact SameExcept.step (setGroup_frame s _ _) (grant_frame _ _ _ _ _)

theorem endTalker_frame (g : GroupId) (p : PositionId) : SameExcept floorParts s (s.endTalker g p) :=
  SameExcept.step (setGroup_frame s _ _) (grantHead_frame _ _)

theorem withdraw_frame (g : GroupId) (p : PositionId) : SameExcept floorParts s (s.withdraw g p) :=
  (setGroup_frame s _ _).mono

theorem talkRequest_frame (g : GroupId) (p : PositionId) (x : Path) :
    SameExcept floorParts s (s.talkRequest g p x).1 := by
  unfold State.talkRequest
  dsimp only
  repeat' split
  all_goals first
    | exact SameExcept.refl _ s | exact grant_frame s _ _ _ _ | exact (setGroup_frame s _ _).mono

theorem talkRelease_frame (g : GroupId) (p : PositionId) (x : Path) :
    SameExcept floorParts s (s.talkRelease g p x).1 := by
  unfold State.talkRelease
  repeat' split
  all_goals first | exact SameExcept.refl _ s | exact withdraw_frame s _ _ | exact endTalker_frame s _ _

theorem removeEntries_frame (p : PositionId) (g : GroupId) : SameExcept floorParts s (State.removeEntries p s g) := by
  unfold State.removeEntries
  dsimp only
  repeat' split
  all_goals first
    | exact SameExcept.refl _ s | exact withdraw_frame s _ _ | exact endTalker_frame s _ _
    | exact (withdraw_frame s _ _).trans (endTalker_frame _ _ _)

theorem intercomLinkLoss_frame (p : PositionId) : SameExcept floorParts s (s.intercomLinkLoss p) :=
  SameExcept.foldl (fun s g => removeEntries_frame s p g) _ s

/-! ### The Speaker Field -/

/-- The parts that a speaker take can change. -/
abbrev attachParts : List Part := [.lines, .positions, .notices, .offers, .speakers]

theorem sendTake_frame (p : PositionId) (n : ChannelId) : SameExcept attachParts s (State.sendTake p s n) := by
  unfold State.sendTake
  dsimp only
  split
  · split
    · rename_i l _ _
      have h := take_frame s l (speakerTake p n (s.channel p n).talkback)
      split
      · rename_i s1 heq
        rw [heq] at h
        exact SameExcept.step h (setChannel_frame _ _ _ _)
      · exact (setChannel_frame s _ _ _).mono
    · exact SameExcept.refl _ s
  · exact SameExcept.refl _ s
  · exact SameExcept.refl _ s

theorem attachOne_frame (l : LineId) (p : PositionId) (n : ChannelId) :
    SameExcept attachParts s (State.attachOne l p s n) := by
  unfold State.attachOne
  split
  · exact sendTake_frame s _ _
  · exact SameExcept.refl _ s

theorem attachOpportunity_frame (l : LineId) : SameExcept attachParts s (s.attachOpportunity l) :=
  SameExcept.foldl (fun s p => SameExcept.foldl (fun s n => attachOne_frame s l p n) _ s) _ s

theorem takeOffers_frame : SameExcept attachParts s s.takeOffers := by
  have h0 : ∀ x : State, SameExcept [.offers] x { x with offers := [] } := by
    intro x q hq; cases q <;> first | rfl | simp at hq
  unfold State.takeOffers
  exact SameExcept.step
    (SameExcept.step (ch := attachParts) (h0 s) (SameExcept.foldl (fun s l => attachOpportunity_frame s l) _ _))
    (h0 _)

theorem linkUpTakes_frame (p : PositionId) : SameExcept attachParts s (s.linkUpTakes p) := by
  unfold State.linkUpTakes
  split
  · exact SameExcept.foldl (fun s n => sendTake_frame s p n) _ s
  · exact SameExcept.refl _ s

/-- The parts that the installation of a plan can change before the term count follows. -/
abbrev planParts : List Part := [.lines, .positions, .notices, .offers, .groups, .speakers]

theorem takeDown_frame (p : PositionId) (n : ChannelId) : SameExcept planParts s (s.takeDown p n) := by
  unfold State.takeDown
  dsimp only
  repeat' split
  all_goals first
    | exact SameExcept.refl _ s | exact (leave_frame s _ _ _).mono | exact (talkRelease_frame s _ _ _).mono

theorem talkbackUpdate_frame (p : PositionId) (n : ChannelId) (v : Bool) :
    SameExcept [.lines] s (s.talkbackUpdate p n v) := by
  unfold State.talkbackUpdate
  dsimp only
  repeat' split
  all_goals first | exact SameExcept.refl _ s | exact updateTalkCapable_frame s _ _ _ _

theorem planChannel_frame (p : PositionId) (n : ChannelId) : SameExcept planParts s (State.planChannel p s n) := by
  unfold State.planChannel
  dsimp only
  split
  · exact SameExcept.step (talkbackUpdate_frame s _ _ _) (setChannel_frame _ _ _ _)
  · exact SameExcept.step (takeDown_frame s _ _) (setChannel_frame _ _ _ _)

theorem attachPhase_frame (p : PositionId) (n : ChannelId) : SameExcept planParts s (State.attachPhase p s n) := by
  unfold State.attachPhase
  dsimp only
  repeat' split
  all_goals first
    | exact SameExcept.refl _ s
    | exact (setChannel_frame s _ _ _).mono
    | exact SameExcept.step (setChannel_frame s _ _ _) (sendTake_frame _ _ _)

theorem installPlan_frame (p : PositionId) (old new : Nat) :
    SameExcept [.lines, .positions, .notices, .offers, .groups, .speakers, .termCount] s (s.installPlan p old new) := by
  have h0 : ∀ (x : State) (n : Nat), SameExcept [.termCount] x { x with termCount := n } := by
    intro x n q hq; cases q <;> first | rfl | simp at hq
  unfold State.installPlan
  refine SameExcept.step (ch1 := [.lines, .positions, .notices, .offers, .groups, .speakers, .termCount]) ?_
    (setSpeaker_frame _ _ _)
  refine SameExcept.step (ch1 := planParts) ?_ (h0 _ _)
  exact (SameExcept.foldl (fun s n => planChannel_frame s p n) _ s).trans
    (SameExcept.foldl (fun s n => attachPhase_frame s p n) _ _)

theorem channelLinkLoss_frame (p : PositionId) (n : ChannelId) :
    SameExcept planParts s (State.channelLinkLoss p s n) := by
  unfold State.channelLinkLoss
  dsimp only
  repeat' split
  all_goals first
    | exact (setChannel_frame s _ _ _).mono
    | exact SameExcept.step (leave_frame s _ _ _) (setChannel_frame _ _ _ _)
    | exact SameExcept.step (talkRelease_frame s _ _ _) (setChannel_frame _ _ _ _)

theorem speakerLinkLoss_frame (p : PositionId) : SameExcept planParts s (s.speakerLinkLoss p) :=
  SameExcept.foldl (fun s n => channelLinkLoss_frame s p n) _ s

theorem muteKey_frame (p : PositionId) (n : ChannelId) : SameExcept [.speakers] s (s.muteKey p n).1 := by
  unfold State.muteKey
  dsimp only
  split
  · exact SameExcept.refl _ s
  · exact setChannel_frame s _ _ _

/-- The parts that a push-to-talk key can change. -/
abbrev pttParts : List Part := [.lines, .groups, .notices, .speakers]

theorem talkKeyDown_frame (p : PositionId) (n : ChannelId) : SameExcept pttParts s (s.talkKeyDown p n).1 := by
  unfold State.talkKeyDown
  dsimp only
  split
  · exact SameExcept.refl _ s
  · split
    · exact SameExcept.refl _ s
    · split
      · exact SameExcept.step (updateTalking_frame s _ _ _ _) (setChannel_frame _ _ _ _)
      · exact SameExcept.refl _ s
    · rename_i g _
      have h := talkRequest_frame s g p (.channel n)
      split <;> rename_i heq <;> rw [heq] at h
      · exact SameExcept.step h (setChannel_frame _ _ _ _)
      · exact SameExcept.step h (setChannel_frame _ _ _ _)
      · exact SameExcept.step h (setChannel_frame _ _ _ _)
      · exact h.mono

theorem talkKeyUp_frame (p : PositionId) (n : ChannelId) : SameExcept pttParts s (s.talkKeyUp p n).1 := by
  unfold State.talkKeyUp
  dsimp only
  repeat' split
  all_goals first
    | exact SameExcept.refl _ s
    | exact (setChannel_frame s _ _ _).mono
    | exact SameExcept.step (setChannel_frame s _ _ _) (talkRelease_frame _ _ _ _)
    | exact SameExcept.step (setChannel_frame s _ _ _) (updateTalking_frame _ _ _ _ _)

/-- The parts that a knob can change. -/
abbrev knobParts : List Part := [.positions, .speakers, .notices]

theorem knobStep_frame (p : PositionId) (ls : Loudspeaker) (v : Step) :
    SameExcept knobParts s (s.knobStep p ls v) := by
  unfold State.knobStep
  split
  · exact SameExcept.refl _ s
  · exact SameExcept.step (setSpeaker_frame s _ _) (raise_frame _ _)

theorem knobResidue_frame (p : PositionId) (j : KnobId) (a b : Bool) (r : Int) :
    SameExcept knobParts s (s.knobResidue p j a b r) := by
  unfold State.knobResidue
  dsimp only
  repeat' split
  · exact SameExcept.step (setPosition_frame s _ _) (knobStep_frame _ _ _ _)
  · exact SameExcept.step (setPosition_frame s _ _) (knobStep_frame _ _ _ _)
  · exact (setPosition_frame s _ _).mono

theorem knobEvent_frame (p : PositionId) (j : KnobId) (a b : Bool) :
    SameExcept knobParts s (s.knobEvent p j a b) := by
  unfold State.knobEvent
  dsimp only
  split
  · exact knobResidue_frame s _ _ _ _ _
  · exact knobResidue_frame s _ _ _ _ _
  · exact knobResidue_frame s _ _ _ _ _
  · exact SameExcept.refl _ s

/-! ### Positions -/

theorem startDeny_frame (p : PositionId) (x : LampId) : SameExcept [.positions] s (s.startDeny p x) :=
  setPosition_frame s _ _

theorem denyKey_frame (p : PositionId) (x : Option LampId) (r : ResultCode) (o : Origin) :
    SameExcept [.positions, .notices] s (s.denyKey p x r o) := by
  unfold State.denyKey
  dsimp only
  split
  · exact SameExcept.step (raise_frame s _) (startDeny_frame _ _ _)
  · exact (raise_frame s _).mono

/-- The parts that a change of a slot can change. -/
abbrev slotParts : List Part := [.lines, .positions, .notices, .offers, .groups, .termCount, .directory]

theorem switchAway_frame (p : PositionId) (h : Handset) (old : Option Held) :
    SameExcept slotParts s (s.switchAway p h old) := by
  unfold State.switchAway
  repeat' split
  · exact SameExcept.refl _ s
  · exact (talkRelease_frame s _ _ _).mono
  · exact (hold_frame s _ _ _).mono
  · exact (leave_frame s _ _ _).mono

theorem releaseSlot_frame (p : PositionId) (h : Handset) : SameExcept slotParts s (s.releaseSlot p h).1 := by
  unfold State.releaseSlot
  split
  · exact SameExcept.refl _ s
  · exact SameExcept.step
      (SameExcept.step (ch := slotParts) (leave_frame s _ _ _) (setSlot_frame _ _ _ _)) (reportEnd_frame _ _ _)
  · exact SameExcept.step
      (SameExcept.step (ch := slotParts) (talkRelease_frame s _ _ _) (setSlot_frame _ _ _ _))
      (reportEnd_frame _ _ _)

theorem replaceSlot_frame (p : PositionId) (h : Handset) (old : Option Held) (new : Held) :
    SameExcept slotParts s (s.replaceSlot p h old new) :=
  SameExcept.step (SameExcept.step (ch := slotParts) (switchAway_frame s _ _ _) (setSlot_frame _ _ _ _))
    (reportSlot_frame _ _ _)

theorem takeIntoSlot_frame (p : PositionId) (h : Handset) (l : LineId) (k : Key) (o : Origin) :
    SameExcept slotParts s (s.takeIntoSlot p h l k o).1 := by
  unfold State.takeIntoSlot
  dsimp only
  split
  · exact (denyKey_frame s _ _ _ _).mono
  · have h1 := take_frame s l (s.handsetTake p h k o)
    split <;> rename_i heq
    · rw [heq] at h1
      exact SameExcept.step (SameExcept.step (ch := slotParts) h1 (replaceSlot_frame _ _ _ _ _))
        (reportOwner_frame _ _)
    · exact (denyKey_frame s _ _ _ _).mono

theorem groupKey_frame (p : PositionId) (h : Handset) (g : GroupId) (k : Key) (o : Origin) :
    SameExcept slotParts s (s.groupKey p h g k o).1 := by
  unfold State.groupKey
  dsimp only
  split
  · exact SameExcept.refl _ s
  · split
    · exact (denyKey_frame s _ _ _ _).mono
    · split
      · exact (denyKey_frame s _ _ _ _).mono
      · split
        · exact (denyKey_frame s _ _ _ _).mono
        · have h1 := replaceSlot_frame s p h (s.slot p h) ⟨.group g, k⟩
          have h2 := talkRequest_frame (s.replaceSlot p h (s.slot p h) ⟨.group g, k⟩) g p (.handset h)
          split <;> rename_i heq <;> rw [heq] at h2
          · exact SameExcept.step (SameExcept.step (ch := slotParts) h1 h2) (denyKey_frame _ _ _ _ _)
          · exact SameExcept.step h1 h2

theorem pressKey_frame (p : PositionId) (k : Key) (o : Origin) : SameExcept slotParts s (s.pressKey p k o).1 := by
  unfold State.pressKey
  dsimp only
  split
  · exact (denyKey_frame s _ _ _ _).mono
  · split
    · exact (reRing_frame s _ _ _).mono
    · exact takeIntoSlot_frame s _ _ _ _ _
  · exact groupKey_frame s _ _ _ _ _

theorem holdKey_frame (p : PositionId) (o : Origin) : SameExcept slotParts s (s.holdKey p o).1 := by
  unfold State.holdKey
  dsimp only
  split
  · exact (denyKey_frame s _ _ _ _).mono
  · exact SameExcept.step
      (SameExcept.step (ch := slotParts) (hold_frame s _ _ _) (setSlot_frame _ _ _ _)) (reportEnd_frame _ _ _)
  · exact releaseSlot_frame s _ _

theorem answerHead_frame (p : PositionId) (h : Handset) (o : Origin) :
    SameExcept slotParts s (s.answerHead p h o).1 := by
  unfold State.answerHead
  split
  · exact (denyKey_frame s _ _ _ _).mono
  · exact takeIntoSlot_frame s _ _ _ _ _

theorem privacyKey_frame (p : PositionId) (o : Origin) : SameExcept slotParts s (s.privacyKey p o).1 := by
  unfold State.privacyKey
  dsimp only
  split
  · exact (denyKey_frame s _ _ _ _).mono
  · exact (denyKey_frame s _ _ _ _).mono
  · rename_i l _ _
    have h1 := privacyRequest_frame s l p (s.selected p)
    split <;> rename_i heq
    · rw [heq] at h1
      exact h1.mono
    · exact (denyKey_frame s _ _ _ _).mono

theorem hookOnEvent_frame (p : PositionId) (h : Handset) : SameExcept slotParts s (s.hookOnEvent p h) := by
  unfold State.hookOnEvent
  split
  · exact SameExcept.refl _ s
  · exact SameExcept.step (setPosition_frame s _ _) (releaseSlot_frame _ _ _)

theorem hookOffEvent_frame (p : PositionId) (h : Handset) : SameExcept slotParts s (s.hookOffEvent p h) := by
  unfold State.hookOffEvent
  dsimp only
  repeat' split
  all_goals first
    | exact SameExcept.refl _ s
    | exact (setPosition_frame s _ _).mono
    | exact SameExcept.step (setPosition_frame s _ _) (updateTalking_frame _ _ _ _ _)
    | exact SameExcept.step (setPosition_frame s _ _) (answerHead_frame _ _ _ _)

theorem channelResult_frame {ch : List Part} (p : PositionId) (n : ChannelId) (o : Origin) (x : State × ResultCode)
    (h : SameExcept ch s x.1) (h1 : Part.positions ∈ ch := by decide) (h2 : Part.notices ∈ ch := by decide) :
    SameExcept ch s (State.channelResult p n o x).1 := by
  have hd : ∀ (t : State) (r : ResultCode), SameExcept ch t (t.denyKey p (some (channelLamp n)) r o) := by
    intro t r
    refine (denyKey_frame t _ _ _ _).mono ?_
    intro q hq
    simp at hq
    rcases hq with rfl | rfl
    · exact h1
    · exact h2
  obtain ⟨t, r⟩ := x
  cases r <;> first | exact h | exact h.trans (hd t _)

/-! ### Results -/

theorem returnResult_frame (c : Port) (f : InFlight) (a : Answer) : SameExcept [.ports] s (s.returnResult c f a) := by
  unfold State.returnResult
  simp only []
  split <;> exact setPort_frame s _ _

theorem returnRead_frame (c : Port) : SameExcept [.ports] s (s.returnRead c) := by
  unfold State.returnRead
  split
  · split
    · exact returnResult_frame s _ _ _
    · exact SameExcept.refl _ s
  all_goals exact SameExcept.refl _ s

/-- A request in flight of another number than NOTICE READ is left to its RESULT_RETURN (R166). -/
theorem returnRead_other (c : Port) (h : ∀ f, (s.port c).inFlight = some f → f.number.toNat ≠ noticeReadNumber) :
    s.returnRead c = s := by
  unfold State.returnRead
  split
  · next f a hf ha => simp [h f hf]
  all_goals rfl

/-- A NOTICE READ in flight returns with the answer that its event gave it (R182, log entry 21). -/
theorem returnRead_answered (c : Port) (f : InFlight) (r : ResultCode) (d : List Byte)
    (h : (s.port c).inFlight = some f) (n : f.number.toNat = noticeReadNumber) :
    (s.answer c r d).returnRead c = (s.answer c r d).returnResult c f ⟨r, d⟩ := by
  have fly : ((s.answer c r d).port c).inFlight = some f := by simp [State.answer, State.setPort, State.port] at h ⊢; exact h
  have said : ((s.answer c r d).port c).answer = some ⟨r, d⟩ := by simp [State.answer, State.setPort, State.port]
  simp [State.returnRead, fly, said, n]

/-! ### The end of an event -/

theorem sendLamps_frame : SameExcept [.links, .lamps] s s.sendLamps := by
  intro q hq; cases q <;> first | rfl | simp at hq

theorem fullRefresh_frame (p : PositionId) : SameExcept [.links, .lamps] s (s.fullRefresh p) := by
  intro q hq; cases q <;> first | rfl | simp at hq

theorem finish_frame : SameExcept [.lines, .positions, .notices, .offers, .speakers, .links, .lamps] s s.finish :=
  SameExcept.step (takeOffers_frame s) (sendLamps_frame _)

end Sys2Proof.Machine
end

