-- ==== Sys2Proof/Laws/Lines.lean ====
section
/-! SUPPORT. What one move of a line record does to the lines and to the position records, and what a take, a report
and a change of slot answer: once for each shared operation. -/

namespace Sys2Proof.Machine

/-! ### Position records of which only the ring queue and the ringer change -/

theorem OnlyRings.refl (s : State) : OnlyRings s s := fun _ => rfl

theorem OnlyRings.of_positions {s t : State} (h : t.positions = s.positions) : OnlyRings s t := by
  intro p
  have : t.position p = s.position p := by simp [State.position, h]
  rw [this]

theorem OnlyRings.trans {s t u : State} (h1 : OnlyRings s t) (h2 : OnlyRings t u) : OnlyRings s u := by
  intro p
  rw [h2 p, h1 p]

theorem OnlyRings.foldl {α : Type} {f : State → α → State} (h : ∀ s a, OnlyRings s (f s a)) (xs : List α)
    (s : State) : OnlyRings s (xs.foldl f s) := by
  induction xs generalizing s with
  | nil => exact OnlyRings.refl s
  | cons x xs ih => exact (h s x).trans (ih (f s x))

theorem OnlyRings.handset {s t : State} (h : OnlyRings s t) (p : PositionId) (x : Handset) :
    (t.position p).handset x = (s.position p).handset x := by
  rw [h p]; cases x <;> rfl

theorem OnlyRings.slot {s t : State} (h : OnlyRings s t) (p : PositionId) (x : Handset) : t.slot p x = s.slot p x := by
  simp [State.slot, h.handset]

theorem OnlyRings.hook {s t : State} (h : OnlyRings s t) (p : PositionId) (x : Handset) : t.hook p x = s.hook p x := by
  simp [State.hook, h.handset]

theorem OnlyRings.selected {s t : State} (h : OnlyRings s t) (p : PositionId) : t.selected p = s.selected p := by
  simp only [State.selected]; rw [h p]

theorem OnlyRings.linkUp {s t : State} (h : OnlyRings s t) (p : PositionId) :
    (t.position p).linkUp = (s.position p).linkUp := by
  rw [h p]

/-- A change of a ring queue leaves the rest of the position record as it was. -/
theorem requeue_rest (clock : Nat) (joined : Bool) (q : List RingEntry) (x : Position) :
    x.requeue clock joined q =
      { x with
        ringQueue := (x.requeue clock joined q).ringQueue, ringer := (x.requeue clock joined q).ringer } := by
  unfold Position.requeue
  split <;> rfl

theorem joinRing_rest (clock : Nat) (e : RingEntry) (x : Position) :
    x.joinRing clock e =
      { x with ringQueue := (x.joinRing clock e).ringQueue, ringer := (x.joinRing clock e).ringer } :=
  requeue_rest _ _ _ _

theorem dropRing_rest (clock : Nat) (kind : RingKind) (l : LineId) (x : Position) :
    x.dropRing clock kind l =
      { x with ringQueue := (x.dropRing clock kind l).ringQueue, ringer := (x.dropRing clock kind l).ringer } :=
  requeue_rest _ _ _ _

theorem rekeyRing_rest (clock : Nat) (l : LineId) (k : Key) (x : Position) :
    x.rekeyRing clock l k =
      { x with ringQueue := (x.rekeyRing clock l k).ringQueue, ringer := (x.rekeyRing clock l k).ringer } :=
  requeue_rest _ _ _ _

theorem refile_rest (clock : Nat) (l : LineId) (k : LineClass) (x : Position) :
    x.refile clock l k =
      { x with ringQueue := (x.refile clock l k).ringQueue, ringer := (x.refile clock l k).ringer } := by
  unfold Position.refile
  split
  · exact requeue_rest _ _ _ _
  · rfl

variable (s : State)

theorem setPosition_rings {p : PositionId} {x : Position}
    (h : x = { s.position p with ringQueue := x.ringQueue, ringer := x.ringer }) :
    OnlyRings s (s.setPosition p x) := by
  intro q
  by_cases hq : q = p
  · subst hq
    rw [State.setPosition_position]
    exact h
  · simp [hq]

theorem addRing_rings (l : LineId) : OnlyRings s (s.addRing l) := by
  intro p
  simp only [State.addRing, State.position, Table.get_ofFn]
  split
  · exact joinRing_rest _ _ _
  · rfl

theorem removeRing_rings (kind : RingKind) (l : LineId) : OnlyRings s (s.removeRing kind l) := by
  intro p
  simp only [State.removeRing, State.position, Table.get_map]
  exact dropRing_rest _ _ _ _

theorem addRecall_rings (l : LineId) : OnlyRings s (s.addRecall l) := by
  unfold State.addRecall
  split
  · exact setPosition_rings s (joinRing_rest _ _ _)
  · exact OnlyRings.refl s

theorem refileRing_rings (l : LineId) : OnlyRings s (s.refileRing l) := by
  intro p
  simp only [State.refileRing, State.position, Table.get_map]
  exact refile_rest _ _ _ _

theorem updateRing_rings (p : PositionId) (old : Table 64 Entry) (l : LineId) :
    OnlyRings s (s.updateRing p old l) := by
  unfold State.updateRing
  split
  · split
    · exact setPosition_rings s (joinRing_rest _ _ _)
    · exact setPosition_rings s (dropRing_rest _ _ _ _)
    · split
      · exact OnlyRings.refl s
      · exact setPosition_rings s (rekeyRing_rest _ _ _ _)
    · exact OnlyRings.refl s
  · exact OnlyRings.refl s

theorem directoryChanged_rings (p : PositionId) (old : Table 64 Entry) :
    OnlyRings s (s.directoryChanged p old) := by
  unfold State.directoryChanged
  exact OnlyRings.foldl (fun s l => updateRing_rings s p old l) _ s

theorem install_rings (p : PositionId) (k : Key) (c : Content) : OnlyRings s (s.install p k c) := by
  unfold State.install
  have h : OnlyRings s (s.setEntry p k ⟨c, none⟩) := OnlyRings.of_positions rfl
  exact (h.trans (directoryChanged_rings _ _ _)).trans
    (OnlyRings.of_positions (raise_frame _ _ .positions (by decide)))

theorem reportEnd_rings (p : PositionId) (k : Key) : OnlyRings s (s.reportEnd p k) := by
  unfold State.reportEnd
  split
  · exact OnlyRings.refl s
  · split
    · exact install_rings s _ _ _
    · exact OnlyRings.refl s

theorem reportSlot_rings (p : PositionId) (old : Option Held) : OnlyRings s (s.reportSlot p old) := by
  unfold State.reportSlot
  split
  · exact reportEnd_rings s _ _
  · exact OnlyRings.refl s

theorem reportOwner_rings (o : Option KeyRef) : OnlyRings s (s.reportOwner o) := by
  unfold State.reportOwner
  split
  · exact reportEnd_rings s _ _
  · exact OnlyRings.refl s

theorem leaveRings_rings (l : LineId) (a b : LineState) : OnlyRings s (s.leaveRings l a b) := by
  unfold State.leaveRings
  split
  · exact OnlyRings.refl s
  · split <;> first | exact removeRing_rings s _ _ | exact OnlyRings.refl s

theorem joinRings_rings (l : LineId) (a b : LineState) : OnlyRings s (s.joinRings l a b) := by
  unfold State.joinRings
  split
  · exact OnlyRings.refl s
  · split <;> first | exact addRing_rings s _ | exact addRecall_rings s _ | exact OnlyRings.refl s

/-! ### The lines after a move -/

theorem lines_of_frame {ch : List Part} {s t : State} (h : SameExcept ch s t)
    (hl : Part.lines ∉ ch := by decide) (l : LineId) : t.line l = s.line l := by
  have := h .lines hl
  simp only [Part.same] at this
  simp [State.line, this]

/-- Line `l` takes the record `x`, and no other line changes. -/
theorem moveLine_lines (l : LineId) (x : Line) : (s.moveLine l x).lines = s.lines.set l x := by
  unfold State.moveLine
  have h1 := (leaveRings_frame (s.setLine l x) l (s.line l).state x.state) .lines (by decide)
  have h2 := (raiseLineState_frame ((s.setLine l x).leaveRings l (s.line l).state x.state) l (s.line l).state
    x.state) .lines (by decide)
  have h3 := (joinRings_frame (((s.setLine l x).leaveRings l (s.line l).state x.state).raiseLineState l
    (s.line l).state x.state) l (s.line l).state x.state) .lines (by decide)
  simp only [Part.same] at h1 h2 h3
  dsimp only
  split
  · rw [State.offer_lines, h3, h2, h1]; rfl
  · rw [h3, h2, h1]; rfl

@[simp] theorem moveLine_line (l : LineId) (x : Line) : (s.moveLine l x).line l = x := by
  simp [State.line, moveLine_lines]

@[simp] theorem moveLine_line_ne {l l' : LineId} (x : Line) (h : l' ≠ l) : (s.moveLine l x).line l' = s.line l' := by
  simp [State.line, moveLine_lines, h]

theorem moveLine_others (l : LineId) (x : Line) : OtherLines l s (s.moveLine l x) :=
  fun _ h => moveLine_line_ne s x h

theorem moveLine_rings (l : LineId) (x : Line) : OnlyRings s (s.moveLine l x) := by
  unfold State.moveLine
  have h1 : OnlyRings s (s.setLine l x) := OnlyRings.of_positions rfl
  have h2 := leaveRings_rings (s.setLine l x) l (s.line l).state x.state
  have h3 : OnlyRings ((s.setLine l x).leaveRings l (s.line l).state x.state)
      (((s.setLine l x).leaveRings l (s.line l).state x.state).raiseLineState l (s.line l).state x.state) :=
    OnlyRings.of_positions (raiseLineState_frame _ _ _ _ .positions (by decide))
  have h4 := joinRings_rings (((s.setLine l x).leaveRings l (s.line l).state x.state).raiseLineState l
    (s.line l).state x.state) l (s.line l).state x.state
  have h5 := ((h1.trans h2).trans h3).trans h4
  dsimp only
  split
  · exact h5.trans (OnlyRings.of_positions rfl)
  · exact h5

theorem moveLine_offers (l : LineId) (x : Line) :
    (s.moveLine l x).offers = if offersAttach (s.line l) x then s.offers ++ [l] else s.offers := by
  unfold State.moveLine
  have h1 := (leaveRings_frame (s.setLine l x) l (s.line l).state x.state) .offers (by decide)
  have h2 := (raiseLineState_frame ((s.setLine l x).leaveRings l (s.line l).state x.state) l (s.line l).state
    x.state) .offers (by decide)
  have h3 := (joinRings_frame (((s.setLine l x).leaveRings l (s.line l).state x.state).raiseLineState l
    (s.line l).state x.state) l (s.line l).state x.state) .offers (by decide)
  simp only [Part.same] at h1 h2 h3
  dsimp only
  split <;> simp_all [State.offer]

/-- A move that changes neither the state nor offers an opportunity writes the record and does nothing else. -/
theorem moveLine_quiet (l : LineId) (x : Line) (h1 : x.state = (s.line l).state)
    (h2 : offersAttach (s.line l) x = false) : s.moveLine l x = s.setLine l x := by
  simp [State.moveLine, State.leaveRings, State.joinRings, State.raiseLineState, h1, h2]

/-! ### Takes -/

theorem take_ok {l : LineId} {t : Take} (h : judgeTake (s.line l) t = .ok) :
    s.take l t = (s.moveLine l ((s.line l).afterTake (s.startTimer .burst) t), .ok) := by
  simp [State.take, h]

theorem take_refused {l : LineId} {t : Take} (h : judgeTake (s.line l) t ≠ .ok) :
    s.take l t = (s, judgeTake (s.line l) t) := by
  unfold State.take
  split
  · rename_i heq; exact absurd heq h
  · rfl

/-! ### Slots -/

@[simp] theorem setSlot_slot (p : PositionId) (h : Handset) (x : Option Held) :
    (s.setSlot p h x).slot p h = x := by
  cases h <;> simp [State.setSlot, State.slot, State.position, Position.setHandset, Position.handset]

theorem setSlot_slot_ne {p q : PositionId} {h g : Handset} (x : Option Held) (hn : (q, g) ≠ (p, h)) :
    (s.setSlot p h x).slot q g = s.slot q g := by
  by_cases hq : q = p
  · subst hq
    have : g ≠ h := fun e => hn (by rw [e])
    cases h <;> cases g <;>
      simp_all [State.setSlot, State.slot, State.position, Position.setHandset, Position.handset]
  · simp [State.setSlot, State.slot, State.position, hq]

theorem setSlot_hook (p q : PositionId) (h g : Handset) (x : Option Held) :
    (s.setSlot p h x).hook q g = s.hook q g := by
  by_cases hq : q = p
  · subst hq
    cases h <;> cases g <;> simp [State.setSlot, State.hook, State.position, Position.setHandset, Position.handset]
  · simp [State.setSlot, State.hook, State.position, hq]

theorem setSlot_termCount (p : PositionId) (h : Handset) (x : Option Held) :
    (s.setSlot p h x).termCount = s.termCount + slotCost x - slotCost (s.slot p h) := rfl

end Sys2Proof.Machine
end

