-- ==== Sys2Proof/Laws/Events.lean ====
section
/-! SUPPORT. What the end of an event does: the attach opportunities it offered, and the lamp updates it hands. -/

namespace Sys2Proof.Machine

variable (s : State)

/-! ### Lamps -/

@[simp] theorem sendLamps_link (p : PositionId) :
    s.sendLamps.link p =
      { s.link p with lampQueue := (s.dueUpdates p).foldl handUpdate (s.link p).lampQueue } := by
  simp [State.sendLamps, State.link]

theorem sendLamps_queues : OnlyLampQueues s s.sendLamps := by
  intro p; simp

theorem OnlyLampQueues.of_links {s t : State} (h : t.links = s.links) : OnlyLampQueues s t := by
  intro p
  have : t.link p = s.link p := by simp [State.link, h]
  rw [this]

theorem OnlyLampQueues.trans {s t u : State} (h1 : OnlyLampQueues s t) (h2 : OnlyLampQueues t u) :
    OnlyLampQueues s u := by
  intro p; rw [h2 p, h1 p]

/-- Whatever an event did before its end, its end changes the links in their lamp queues alone. -/
theorem finish_queues : OnlyLampQueues s s.finish :=
  (OnlyLampQueues.of_links (takeOffers_frame s .links (by decide))).trans (sendLamps_queues _)

/-- A position whose link is not UP, or whose image is stale, is handed no update (R66). -/
theorem dueUpdates_down {p : PositionId} (h : (s.position p).linkUp = false ∨ (s.lamps.get p).stale = true) :
    s.dueUpdates p = [] := by
  unfold State.dueUpdates
  rcases h with h | h <;> simp [h]

/-! ### Attach opportunities -/

theorem foldl_fixed {α : Type} {f : State → α → State} {t : State} (h : ∀ a, f t a = t) (xs : List α) :
    xs.foldl f t = t := by
  induction xs with
  | nil => rfl
  | cons x xs ih => simp [h, ih]

/-- A speaker take changes the ring queues and the ringers alone of the position records. -/
theorem sendTake_rings (p : PositionId) (n : ChannelId) : OnlyRings s (State.sendTake p s n) := by
  unfold State.sendTake
  dsimp only
  split
  · split
    · rename_i l _ _
      split
      · rename_i s1 heq
        have h : s1 = (s.take l (speakerTake p n (s.channel p n).talkback)).1 := by rw [heq]
        have r : OnlyRings s s1 := by
          rw [h]; unfold State.take
          split
          · exact moveLine_rings s _ _
          · exact OnlyRings.refl s
        exact r.trans (OnlyRings.of_positions rfl)
      · exact OnlyRings.of_positions rfl
    · exact OnlyRings.refl s
  all_goals exact OnlyRings.refl s

/-- A speaker take changes no channel but its own. -/
theorem sendTake_channel_ne {p q : PositionId} {n m : ChannelId} (h : (q, m) ≠ (p, n)) :
    (State.sendTake p s n).channel q m = s.channel q m := by
  have keep : ∀ (t : State) (x : Channel), t.speakers = s.speakers →
      (t.setChannel p n x).channel q m = s.channel q m := by
    intro t x e
    simp only [State.channel, State.setChannel, State.setSpeaker, State.speaker, e]
    by_cases hp : q = p
    · subst hp
      have hn : m ≠ n := fun e' => h (by rw [e'])
      simp [hn]
    · simp [hp]
  unfold State.sendTake
  dsimp only
  split
  · split
    · rename_i l _ _
      have f := take_frame s l (speakerTake p n (s.channel p n).talkback)
      split
      · rename_i s1 heq
        rw [heq] at f
        exact keep s1 _ (f .speakers (by decide))
      · exact keep s _ rfl
    · rfl
  all_goals rfl

/-- Whether another channel waits is not changed by a speaker take. -/
theorem sendTake_awaits_ne {p q : PositionId} {n m : ChannelId} (l : LineId) (h : (q, m) ≠ (p, n)) :
    (State.sendTake p s n).awaits l q m = s.awaits l q m := by
  simp only [State.awaits, sendTake_channel_ne s h, (sendTake_rings s p n).linkUp q]

/-- Trying every channel of a list once is the takes of those that wait. -/
theorem attachOne_foldl (l : LineId) (ws : List (PositionId × ChannelId)) (nd : ws.Nodup) :
    ws.foldl (fun s w => State.attachOne l w.1 s w.2) s =
      (ws.filter fun w => s.awaits l w.1 w.2).foldl (fun s w => State.sendTake w.1 s w.2) s := by
  induction ws generalizing s with
  | nil => rfl
  | cons w ws ih =>
    obtain ⟨hw, nd'⟩ := List.nodup_cons.1 nd
    rw [List.foldl_cons, List.filter_cons, ih _ nd']
    unfold State.attachOne
    by_cases a : s.awaits l w.1 w.2
    · have same : (ws.filter fun v => (State.sendTake w.1 s w.2).awaits l v.1 v.2)
          = ws.filter fun v => s.awaits l v.1 v.2 := by
        refine List.filter_congr fun v hv => ?_
        rw [sendTake_awaits_ne s l fun e => hw (by rw [← show v = w from e]; exact hv)]
      simp [a, same]
    · simp [a]

/-- An attach opportunity is the speaker takes of the waiting channels in their order (R101). -/
theorem attachOpportunity_waiters (l : LineId) :
    s.attachOpportunity l = (s.waiters l).foldl (fun s w => State.sendTake w.1 s w.2) s := by
  have all : s.attachOpportunity l =
      ((ascending 32).flatMap fun p => (ascending 8).map fun n => (p, n)).foldl
        (fun s w => State.attachOne l w.1 s w.2) s := by
    unfold State.attachOpportunity
    rw [List.foldl_flatMap]
    simp only [List.foldl_map]
  have pick : s.waiters l =
      ((ascending 32).flatMap fun p => (ascending 8).map fun n => (p, n)).filter fun w => s.awaits l w.1 w.2 := by
    simp only [State.waiters, List.filter_flatMap, List.filter_map, Function.comp_def]
  rw [all, pick]
  exact attachOne_foldl s l _ (by decide +kernel)

/-- An opportunity that no channel waits for changes nothing. -/
theorem attachOpportunity_none {l : LineId} (h : s.noneWaits l) : s.attachOpportunity l = s := by
  unfold State.attachOpportunity
  apply foldl_fixed
  intro p
  apply foldl_fixed
  intro n
  simp [State.attachOne, h p n]

/-- An event whose opportunities no channel waits for changes nothing more but lamps. -/
theorem takeOffers_none (h : ∀ l ∈ s.offers, s.noneWaits l) : s.takeOffers = { s with offers := [] } := by
  unfold State.takeOffers
  have key : ∀ ls : List LineId, (∀ l ∈ ls, s.noneWaits l) →
      ls.foldl State.attachOpportunity { s with offers := [] } = { s with offers := [] } := by
    intro ls
    induction ls with
    | nil => intro _; rfl
    | cons l ls ih =>
      intro hl
      have h1 : ({ s with offers := [] } : State).attachOpportunity l = { s with offers := [] } :=
        attachOpportunity_none _ (hl l (by simp))
      rw [List.foldl_cons, h1]
      exact ih fun l' hl' => hl l' (by simp [hl'])
  rw [key s.offers h]

theorem finish_none (h : ∀ l ∈ s.offers, s.noneWaits l) : s.finish = { s with offers := [] }.sendLamps := by
  rw [State.finish, takeOffers_none s h]

theorem finish_no_offers (h : s.offers = []) : s.finish = s.sendLamps := by
  rw [finish_none s (by simp [h])]
  congr 1
  cases s
  simp_all

/-- No attach opportunity is left between events. -/
@[simp] theorem finish_offers : s.finish.offers = [] := rfl

end Sys2Proof.Machine
end

