-- ==== Sys2Proof/Laws/Lamps.lean ====
section
/-! SUPPORT. The codes that the tables of the Lamp Unit derive, and what the comparison at the end of an event leaves in
the lamp images. -/

namespace Sys2Proof.Machine

/-! ### Derivation -/

theorem Line.handsetPartyThrough_iff (x : Line) (p : PositionId) (k : Key) :
    x.handsetPartyThrough p k = true ↔ ∃ y ∈ x.parties, y.position = p ∧ y.path.isHandset ∧ y.key = some k := by
  simp [Line.handsetPartyThrough, and_assoc]

/-- The code of a line's key lamp is the one of R61. -/
theorem lineLamp_is (x : Line) (p : PositionId) (k : Key) : LineLampIs x p k (lineLamp x p k) := by
  have through := x.handsetPartyThrough_iff p k
  constructor <;> intro h
  case others =>
    intro g
    have no : x.handsetPartyThrough p k = false := by
      rw [Bool.eq_false_iff, Ne, through]
      exact fun ⟨y, hy, e⟩ => g y hy e
    rcases h with h | h <;> simp [lineLamp, h, no]
  case outOfOrder => rcases h with h | h <;> simp [lineLamp, h]
  case partyCalling => intro g; simp [lineLamp, h, through.2 g]
  case partyActive => intro g; simp [lineLamp, h, through.2 g]
  case ringing => cases e : x.cls <;> simp [lineLamp, h, e]
  all_goals simp [lineLamp, h]

theorem Group.talker?_isSome (x : Group) (p : PositionId) :
    (x.talker? p).isSome = decide (p ∈ x.talkers.map Talker.position) := by
  rw [Bool.eq_iff_iff]; simp [Group.talker?]

theorem Group.waiter?_isSome (x : Group) (p : PositionId) :
    (x.waiter? p).isSome = decide (p ∈ x.waiting.map Waiter.position) := by
  rw [Bool.eq_iff_iff]; simp [Group.waiter?]

theorem slotHolds_iff (s : State) (p : PositionId) (x : Source) (k : Key) :
    s.slotHolds p x k = true ↔ ∃ h, s.slot p h = some ⟨x, k⟩ := by
  simp only [State.slotHolds, Bool.or_eq_true, decide_eq_true_eq]
  constructor
  · rintro (h | h)
    exacts [⟨_, h⟩, ⟨_, h⟩]
  · rintro ⟨h, e⟩
    cases h
    exacts [.inl e, .inr e]

/-- The code of a group's key lamp is the one of R62. -/
theorem groupLamp_is (s : State) (p : PositionId) (g : GroupId) (k : Key) :
    GroupLampIs (s.group g) (∃ h, s.slot p h = some ⟨.group g, k⟩) p (s.groupLamp p g k) := by
  rw [← slotHolds_iff]
  constructor
  case undefinedGroup => intro h; simp [State.groupLamp, h]
  case talks =>
    intro h e a
    simp only [State.groupLamp, h, e, Group.talker?_isSome, a, decide_true, Bool.not_true, if_true, if_false,
      Bool.false_eq_true]
  case waits =>
    intro h e a b
    simp only [State.groupLamp, h, e, Group.talker?_isSome, Group.waiter?_isSome, a, b, decide_true, decide_false,
      Bool.not_true, if_true, if_false, Bool.false_eq_true]
  case listens =>
    intro h e a b
    simp only [State.groupLamp, h, e, Group.talker?_isSome, Group.waiter?_isSome, a, b, decide_false,
      Bool.not_true, if_true, if_false, Bool.false_eq_true]
  case elsewhere => intro h e; simp [State.groupLamp, h, e]

/-- The code of a channel lamp is the one of R63. -/
theorem channelCode_is (s : State) (p : PositionId) (n : ChannelId) :
    ChannelLampIs s p n (s.channel p n) (s.channelCode p n) := by
  constructor
  case noSource => intro h; simp [State.channelCode, h]
  case waiting =>
    intro h e
    cases hs : (s.channel p n).source with
    | none => exact absurd hs h
    | some y => cases y <;> simp [State.channelCode, hs, e]
  case lineTalks => intro l y h e f g; simp [State.channelCode, h, e, Line.talkingParty, f, g]
  case lineListens =>
    intro l h e f
    have no : (decide ((s.channel p n).attach = .attached) && (s.line l).talkingParty p (.channel n)) = false := by
      by_cases a : (s.channel p n).attach = .attached
      · cases e' : (s.line l).party? p (.channel n) with
        | none => simp [Line.talkingParty, e']
        | some y => simp [Line.talkingParty, e', f a y e']
      · simp [a]
    simp only [State.channelCode, h, e, no, if_false, Bool.false_eq_true, listeningCode]
  case groupTalks => intro g y h e f e'; simp [State.channelCode, h, e, Group.talksFrom, f, e']
  case groupWaits =>
    intro g w h e f a b
    have no : (s.group g).talksFrom p (.channel n) = false := by
      cases e' : (s.group g).talker? p with
      | none => simp [Group.talksFrom, e']
      | some y => simp [Group.talksFrom, e', f y e']
    simp [State.channelCode, h, e, no, Group.waitsFrom, a, b]
  case groupListens =>
    intro g h e f a
    have no : (s.group g).talksFrom p (.channel n) = false := by
      cases e' : (s.group g).talker? p with
      | none => simp [Group.talksFrom, e']
      | some y => simp [Group.talksFrom, e', f y e']
    have none_ : (s.group g).waitsFrom p (.channel n) = false := by
      cases e' : (s.group g).waiter? p with
      | none => simp [Group.waitsFrom, e']
      | some w => simp [Group.waitsFrom, e', a w e']
    simp [State.channelCode, h, e, no, none_, listeningCode]

@[simp] theorem derivedCode_keyLamp (s : State) (p : PositionId) (k : Key) :
    s.derivedCode p (keyLamp k) = s.keyCode p k := by
  simp [State.derivedCode, keyLamp]

@[simp] theorem derivedCode_channelLamp (s : State) (p : PositionId) (n : ChannelId) :
    s.derivedCode p (channelLamp n) = s.channelCode p n := by
  simp [State.derivedCode, channelLamp]

/-- The shown code of a lamp is DENY under a deny display and the code of the tables otherwise (R59 to R64). -/
theorem shownCode_is (s : State) (p : PositionId) (x : LampId) : LampIs s p x (s.shownCode p x) := by
  constructor
  case deny => intro due h; simp [State.shownCode, h]
  case emptyKey => rintro h k rfl e; simp [State.shownCode, h, State.keyCode, e]
  case lineKey => rintro h k l r b u rfl e; simpa [State.shownCode, h, State.keyCode, e] using lineLamp_is ..
  case groupKey => rintro h k g rfl e; simpa [State.shownCode, h, State.keyCode, e] using groupLamp_is ..
  case channel => rintro h n rfl; simpa [State.shownCode, h] using channelCode_is ..

/-! ### Transmission -/

/-- The image after codes were sent: the sent ones, and the others as they were (R65). -/
theorem recordSent_get (f : LampId → LampCode) (xs : List LampId) (image : Table 72 LampCode) (x : LampId) :
    (recordSent image (xs.map fun y => ⟨y, f y⟩)).get x = if x ∈ xs then f x else image.get x := by
  induction xs generalizing image with
  | nil => simp [recordSent]
  | cons y ys ih =>
    have step : recordSent image ((y :: ys).map fun z => ⟨z, f z⟩)
        = recordSent (image.set y (f y)) (ys.map fun z => ⟨z, f z⟩) := rfl
    rw [step, ih, Table.get_set]
    by_cases h : x ∈ ys <;> by_cases e : x = y <;> simp_all

@[simp] theorem sendLamps_shownCode (s : State) (p : PositionId) (x : LampId) :
    s.sendLamps.shownCode p x = s.shownCode p x := rfl

/-- After the comparison every lamp of the layout of an UP position whose image is not stale has its shown code as its
image entry (R65). -/
theorem sendLamps_image (s : State) (p : PositionId) (up : (s.position p).linkUp = true)
    (fresh : (s.lamps.get p).stale = false) (x : LampId) (shows : (s.position p).layout.shows x = true) :
    (s.sendLamps.lamps.get p).image.get x = s.shownCode p x := by
  simp only [State.sendLamps, Table.get_ofFn, State.dueUpdates, up, fresh, Bool.not_false, Bool.and_self, if_true]
  rw [recordSent_get fun y => s.shownCode p y]
  by_cases e : s.shownCode p x = (s.lamps.get p).image.get x <;>
    simp [Layout.lamps, ascending, shows, e]

/-- Whatever an event did before its end, its end leaves the images in agreement with the tables (R61 to R65). -/
theorem sendLamps_lampsAgree (s : State) : s.sendLamps.lampsAgree := by
  intro p up fresh x hx
  have shows : (s.position p).layout.shows x = true := by
    change _ < (s.position p).layout.keyCount ∨ _ at hx
    simpa only [Layout.shows, Bool.or_eq_true, decide_eq_true_eq] using hx
  rw [sendLamps_image s p up (by simpa [State.sendLamps] using fresh) x shows, ← sendLamps_shownCode]
  exact shownCode_is s.sendLamps p x

end Sys2Proof.Machine
end

