-- ==== Sys2Proof/Laws/Switch.lean ====
section
/-! SUPPORT. What a talk release and the switch-away of a slot's old content do, in the records of Safety.lean
(R20, R21, R39, R85, R86). -/

namespace Sys2Proof.Machine

theorem without_eq (ln : Line) (p : PositionId) (h : Handset) :
    ln.without p (.handset h) = ln.parties.filter fun y => decide (y.position ≠ p ∨ y.path ≠ .handset h) := by
  unfold Line.without
  congr 1
  funext y
  simp [Party.is]

theorem isPrincipal_eq (ln : Line) (p : PositionId) (x : Path) :
    ln.isPrincipal p x = ln.principal.any fun z => decide (z.position = p ∧ z.path = x) := by
  unfold Line.isPrincipal
  cases ln.principal <;> simp [Party.is]

/-- What a talk release does, whole: its group takes the floor of `State.releasedFloor`, and the grant, if there is one, is
raised (R85, R86). -/
theorem talkRelease_is (s : State) (g : GroupId) (p : PositionId) (src : Path) :
    (s.talkRelease g p src).1 =
      (s.releasedFloor g p src).2.foldl State.raise (s.setGroup g (s.releasedFloor g p src).1) := by
  unfold State.talkRelease State.releasedFloor
  cases hw : (s.group g).waiter? p with
  | some w =>
    by_cases e : w.source = src <;> simp [hw, e, State.withdraw, Group.withoutWaiter]
  | none =>
    cases ht : (s.group g).talker? p with
    | none => simp [hw, ht]
    | some y =>
      cases hq : (s.group g).waiting with
      | nil => by_cases e : y.source = src <;>
          simp [hw, ht, hq, e, State.endTalker, State.grantHead, Group.withoutTalker]
      | cons w rest => by_cases e : y.source = src <;>
          simp [hw, ht, hq, e, State.endTalker, State.grantHead, State.grant, Group.withoutTalker, State.floorDue,
            State.dueIn, Config.periodsPerMs]

/-- What the hold of switch-away does to its line, whole (R21, R39). -/
theorem hold_switched (s : State) (p : PositionId) (h : Handset) (x : LineId) (y : Party) (k : Key)
    (hy : (s.line x).party? p (.handset h) = some y) (hk : y.key = some k) (hs : (s.position p).switchAway = .hold) :
    (s.hold x p h).1 = s.moveLine x (s.switchedLine p h k x) := by
  unfold State.hold State.switchedLine
  simp only [hy, without_eq, hs]
  cases e : (s.line x).parties.filter fun y => decide (y.position ≠ p ∨ y.path ≠ .handset h) with
  | nil => simp [hk, Line.onHold, State.startTimer, State.dueIn, Config.periodsPerMs]
  | cons z zs => simp only [State.leave, hy, Line.afterLeave, without_eq, e, isPrincipal_eq]

/-- What the leave of switch-away does to its line, whole (R20, R39). -/
theorem leave_switched (s : State) (p : PositionId) (h : Handset) (x : LineId) (y : Party) (k : Key)
    (hy : (s.line x).party? p (.handset h) = some y) (hs : (s.position p).switchAway = .release) :
    (s.leave x p (.handset h)).1 = s.moveLine x (s.switchedLine p h k x) := by
  unfold State.leave State.switchedLine
  simp only [hy, hs, Line.afterLeave, without_eq, isPrincipal_eq]
  cases e : (s.line x).parties.filter fun y => decide (y.position ≠ p ∨ y.path ≠ .handset h) <;>
    simp [Line.guarded, State.startTimer, State.dueIn, Config.periodsPerMs]

/-- What switch-away does to a line in the slot, whole, under either setting (R39). -/
theorem switchAway_line {s : State} {p : PositionId} {h : Handset} {x : LineId} {y : Party} {k : Key}
    (hy : (s.line x).party? p (.handset h) = some y) (hk : y.key = some k) :
    s.switchAway p h (some ⟨.line x, k⟩) = s.moveLine x (s.switchedLine p h k x) := by
  unfold State.switchAway
  cases hs : (s.position p).switchAway
  · exact hold_switched s p h x y k hy hk hs
  · exact leave_switched s p h x y k hy hs

/-- What switch-away does to a group in the slot, whole (R39). -/
theorem switchAway_group (s : State) (p : PositionId) (h : Handset) (g : GroupId) (k : Key) :
    s.switchAway p h (some ⟨.group g, k⟩) =
      (s.releasedFloor g p (.handset h)).2.foldl State.raise
        (s.setGroup g (s.releasedFloor g p (.handset h)).1) := talkRelease_is s g p (.handset h)

end Sys2Proof.Machine
end

