-- ==== Sys2Proof/Tests/Slice0.lean ====
section
/-! SUPPORT. Tests of one step each, with results worked out from the manual, and for each statement with hypotheses a
witness: a concrete state and operands that meet all of them. -/

namespace Sys2Proof.Tests

set_option Elab.async false

open Sys2Proof Sys2Proof.Machine

/-! ### Small states -/

/-- The state a command leaves, where it leaves one. -/
def after (c : Instr) (s : State) : Option State :=
  match exec c s with
  | .next t => some t
  | .fault _ => none
  | .refused _ => none

/-- Line 12 on key 0 and group 3 on key 1 of position 5, whose turret is UP with a 64-key layout and two knobs; key 2 is
EMPTY, key 3 names line 20. Group 3 has positions 5 and 9 as members and a talker limit of 1. -/
def desk : State :=
  let s0 := State.reset
  let s1 := s0.setPosition 5 { Position.powerOn with linkUp := true }
  let s2 := s1.setLink 5 { Link.powerOn with state := .up, layout := some .keys64, knobCount := 2, lossTimer := some 400 }
  let s3 := { s2 with lamps := s2.lamps.set 5 ⟨Table.fill 72 .off, false⟩ }
  let s4 := (s3.setEntry 5 0 ⟨.line 12 true true true, none⟩).setEntry 5 1 ⟨.group 3, none⟩
  let s5 := s4.setEntry 5 3 ⟨.line 20 false false false, none⟩
  { s5.setGroup 3 ⟨true, 1, 30, [⟨5, .normal⟩, ⟨9, .priority⟩], [], []⟩ with termCount := 33 }

/-- Slot H0 of position 5 holds `x`, which costs `n` terms. -/
def holding (x : Held) (n : Nat) (s : State) : State :=
  { s.setPosition 5 { s.position 5 with h0 := { (s.position 5).h0 with slot := some x } } with
    termCount := s.termCount + n }

def offHook (s : State) : State :=
  s.setPosition 5 { s.position 5 with h0 := { (s.position 5).h0 with hook := .off } }

/-- The party of position 5, H0, through key 0. -/
def mine : Party := ⟨5, .handset .h0, some 0, true, false, .key⟩

/-- A party of position 9, H1, through key 7. -/
def other : Party := ⟨9, .handset .h1, some 7, true, true, .key⟩

/-- Line 12 CALLING for position 5 in its first burst. -/
def calling : Line :=
  { Line.powerOn with
    state := .calling, parties := [mine], sz := true, rg := true, burstCount := 1, timer := some ⟨.burst, 8000⟩ }

/-- A line ACTIVE with the parties given. -/
def active (xs : List Party) : Line := { Line.powerOn with state := .active, parties := xs, sz := true }

/-- Line 12 HELD by position 5 through key 0. -/
def held : Line :=
  { Line.powerOn with state := .held, sz := true, holdOwner := some ⟨5, 0⟩, timer := some ⟨.hold, 480000⟩ }

def recalling : Line := { held with state := .recall, timer := some ⟨.recall, 960000⟩ }

def guarded : Line := { Line.powerOn with state := .guard, timer := some ⟨.guard, 4000⟩ }

def ringing : Line := { Line.powerOn with state := .ringing, signals := ⟨true, false, false⟩ }

/-- The desk with line 12 in the record given. -/
def with12 (x : Line) : State := desk.setLine 12 x

/-- The desk with line 12 RINGING and its entry in the ring queue of position 5. -/
def ringingDesk : State :=
  let s := with12 ringing
  s.setPosition 5
    { s.position 5 with ringQueue := [⟨12, 0, .ring, .normal⟩], ringer := ⟨false, some ⟨true, 8000⟩, 0⟩ }

/-- The desk with its H0 holding line 12 through key 0, the line in the record given. -/
def onLine (x : Line) : State := holding ⟨.line 12, 0⟩ 3 (with12 x)

/-- The desk with channel S0 in the record given. -/
def withS0 (x : Channel) : State := desk.setChannel 5 0 x

/-- S0 WAITING for line 12 with talkback. -/
def waitingS0 : Channel :=
  { Channel.powerOn with source := some (.line 12), level := 24, talkback := true, attach := .waiting }

def attachedS0 : Channel := { waitingS0 with attach := .attached }

/-- S0 LISTENING to group 3. -/
def groupS0 : Channel := { Channel.powerOn with source := some (.group 3), level := 24, attach := .listening }

/-- The party of S0 of position 5. -/
def speakerParty (talking : Bool) : Party := ⟨5, .channel 0, none, true, talking, .plan⟩

/-- The desk whose turret is still TRAINING. -/
def training : State :=
  (desk.setPosition 5 Position.powerOn).setLink 5 { Link.powerOn with state := .training, lossTimer := some 400 }

/-- Port C1 with a request in flight under tag 9, answered OK with one byte of data. -/
def answeredPort (discard : Bool) : State :=
  State.reset.setPort 1
    { PortRecord.powerOn with
      state := if discard then .ready else .busy
      slot := if discard then some [0, 2, 9, 0] else none
      discard := discard, inFlight := some ⟨9, 4, [12]⟩, answer := some ⟨.ok, [3]⟩ }

/-- Port C1 READY with a response of five bytes, two of them read. -/
def readyPort : State :=
  State.reset.setPort 1
    { PortRecord.powerOn with state := .ready, slot := some [0, 3, 9, 0, 3], readPosition := 2 }

/-- Group 3 with its one talker place taken by position 9. -/
def fullGroup (queued : List Waiter) : State :=
  desk.setGroup 3 { desk.group 3 with talkers := [⟨9, .channel 2, some 500⟩], waiting := queued }

/-- Eight waiting entries, as many as a queue holds. -/
def eight : List Waiter := (ascending 8).map fun n => ⟨⟨n.val + 10, by omega⟩, .handset .h0, .normal⟩

/-- S0 of position 5 talks in group 3 with its PTT held; `queued` waits. -/
def talking (queued : List Waiter) : State :=
  (withS0 { groupS0 with ptt := true }).setGroup 3
    { desk.group 3 with talkers := [⟨5, .channel 0, some 500⟩], waiting := queued }

/-- Line 12 RECALL, ringing at its owner, position 5. -/
def recallDesk : State :=
  let s := with12 recalling
  s.setPosition 5
    { s.position 5 with ringQueue := [⟨12, 0, .recall, .normal⟩], ringer := ⟨false, some ⟨true, 8000⟩, 0⟩ }

/-- Line 12 ACTIVE with the speaker party of S0 beside another party. -/
def onSpeaker (ptt : Bool) : State :=
  (with12 (active [other, speakerParty ptt])).setChannel 5 0 { attachedS0 with ptt := ptt }

/-- Position 5 with a plan staged: line 12 with talkback on S0, group 3 on S1. -/
def planned : State :=
  desk.setSpeaker 5
    { desk.speaker 5 with
      plan := ((desk.speaker 5).plan.set 0 ⟨some (.line 12), 24, .ls1, true⟩).set 1 ⟨some (.group 3), 20, .ls0, false⟩
      stagedFloor := 25 }

/-- Knob 1 of position 5 in the state given, LS1 at step `v`. -/
def turned (k : KnobState) (v : Step) : State :=
  let s := desk.setPosition 5 ((desk.position 5).setKnob 1 k)
  s.setSpeaker 5 ((s.speaker 5).setStep .ls1 v)

/-- Port C1 has loaded keys 0 and 2 of page 20, the first page of position 5; H0 holds line 12 through key 0. -/
def staged : State :=
  let s := onLine (active [mine])
  { s with
    staging := s.staging.set 1
      ⟨some 20, ((Table.fill 16 none).set 0 (some (.line 44 true true true))).set 2 (some (.line 50 false false true))⟩ }

/-- Port C1 subscribed to every class, with `n` notices queued. -/
def noticed (n : Nat) : State :=
  desk.setNoticeQueue 1
    { NoticeQueue.powerOn with
      queue := List.replicate n ⟨.quietOn, false⟩, mask := 0x3f, ageTimer := if n = 0 then none else some 800 }

/-- Seven handset parties of positions 10 to 16. -/
def seven : List Party := (ascending 7).map fun n => ⟨⟨n.val + 10, by omega⟩, .handset .h0, some 7, true, false, .key⟩

/-- H0 of position 5 among eight parties of line 12, which is OPEN, with S0 waiting for the line. -/
def fullLine : State :=
  holding ⟨.line 12, 0⟩ 3 ((with12 { active (mine :: seven) with barge := .openPolicy }).setChannel 5 0 waitingS0)

/-- Line 12 in GUARD with S0 and S1 of position 5 waiting for it, under the barge policy given. -/
def guardedWaiting (b : BargePolicy) : State :=
  ((with12 { guarded with barge := b }).setChannel 5 0 waitingS0).setChannel 5 1 waitingS0

/-- Port C1 with a NOTICE READ in flight under tag 9 and a threshold of 4, four notices waiting. -/
def readingNotices : State :=
  let s := (noticed 4).setNoticeQueue 1 { (noticed 4).noticeQueue 1 with threshold := 4 }
  s.setPort 1 { PortRecord.powerOn with state := .busy, inFlight := some ⟨9, 29, [1]⟩ }

/-- H0 of position 5 alone on line 20 through key 3, whose entry has a replacement pending, under the switch-away given. -/
def on20 (sw : SwitchAway) : State :=
  let s := holding ⟨.line 20, 3⟩ 3 (desk.setLine 20 (active [{ mine with key := some 3 }]))
  (s.setPosition 5 { s.position 5 with switchAway := sw }).setEntry 5 3 ⟨.line 20 false false false, some (.group 4)⟩

/-- Group 4 defined with position 5 as a member and `xs` on its floor, and on key 2 of position 5. -/
def group4 (xs : List Talker) (queued : List Waiter) (s : State) : State :=
  (s.setGroup 4 ⟨true, 1, 30, [⟨5, .normal⟩, ⟨9, .normal⟩], xs, queued⟩).setEntry 5 2 ⟨.group 4, none⟩

/-- H0 of position 5 talks in group 3 through key 1, whose entry has a replacement pending, and position 9 waits there. -/
def onGroup : State :=
  let s := holding ⟨.group 3, 1⟩ 2 (fullGroup [⟨9, .handset .h1, .priority⟩])
  (s.setGroup 3 { s.group 3 with talkers := [⟨5, .handset .h0, some 500⟩] }).setEntry 5 1 ⟨.group 3, some .empty⟩

/-- The queue of position 5 with line 12 at its head. -/
def rings12 (s : State) : State :=
  (s.setLine 12 ringing).setPosition 5 { s.position 5 with ringQueue := [⟨12, 0, .ring, .normal⟩] }

/-! ### Deciding the records of a line, and what slots and channels say of them -/

/-- `Line.ok` as a computation. -/
def lineOk (x : Line) : Bool :=
  decide (x.parties.length ≤ 8) && decide (x.parties.map fun y => (y.position, y.path)).Nodup
    && x.parties.all (fun y => y.key.isSome == y.path.isHandset)
    && x.parties.all (fun y => !y.path.isHandset || y.talkCapable)
    && (x.parties.isEmpty == x.state.partyless) && (x.holdOwner.isSome == x.state.hasOwner)
    && (!x.privateHold || x.holdOwner.isSome) && (!x.privacy || x.principal.isSome) && (x.sz == x.state.seizes)
    && (!x.rg || decide (x.state = .calling) || decide (x.state = .active))
    && (match x.timer with
      | some t => x.state.mayRun t.purpose
      | none => true)
    && (!decide (x.state = .guard) || x.timer.isSome) && decide (x.missed ≤ 15)

theorem ok_of_lineOk {x : Line} (h : lineOk x = true) : x.ok := by
  simp only [lineOk, Bool.and_eq_true, decide_eq_true_eq, List.all_eq_true, beq_iff_eq, Bool.or_eq_true,
    Bool.not_eq_true', decide_eq_false_iff_not] at h
  obtain ⟨⟨⟨⟨⟨⟨⟨⟨⟨⟨⟨⟨h1, h2⟩, h3⟩, h4⟩, h5⟩, h6⟩, h7⟩, h8⟩, h9⟩, h10⟩, h11⟩, h12⟩, h13⟩ := h
  refine ⟨h1, h2, h3, fun y hy hp => ?_, h5, h6, fun hp => ?_, fun hp => ?_, h9, fun hr => ?_, fun t ht => ?_,
    fun hg => ?_, h13⟩
  · rcases h4 y hy with h | h
    · simp [hp] at h
    · exact h
  · simpa [hp] using h7
  · simpa [hp] using h8
  · simpa [hr] using h10
  · simpa [ht] using h11
  · simpa [hg] using h12

theorem linesOk_of {s : State} (h : ∀ l, lineOk (s.line l) = true) : s.linesOk := fun l => ok_of_lineOk (h l)

/-- A handset party of a line is the one its slot shows. -/
def seated (s : State) (l : LineId) (x : Party) : Bool :=
  match x.path, x.key with
  | .handset h, some k => decide (s.slot x.position h = some ⟨.line l, k⟩)
  | .handset _, none | .channel _, _ => true

/-- A slot that holds a line has its party there. -/
def slotSeated (s : State) (p : PositionId) (h : Handset) : Bool :=
  match s.slot p h with
  | some ⟨.line l, k⟩ => (s.line l).parties.any fun x =>
    decide (x.position = p ∧ x.path = .handset h ∧ x.key = some k)
  | some ⟨.group _, _⟩ | none => true

theorem slotsAgree_of {s : State} (h1 : ∀ l, ∀ x ∈ (s.line l).parties, seated s l x = true)
    (h2 : ∀ p, slotSeated s p .h0 = true ∧ slotSeated s p .h1 = true) : s.slotsAgree := by
  intro p h l k
  constructor
  · intro e
    have := h2 p
    cases h
    · simpa [slotSeated, e] using this.1
    · simpa [slotSeated, e] using this.2
  · rintro ⟨x, hx, rfl, e1, e2⟩
    simpa [seated, e1, e2] using h1 l x hx

/-- A speaker party of a line is the one its channel shows. -/
def partyAttached (s : State) (l : LineId) (x : Party) : Bool :=
  match x.path with
  | .channel n => decide ((s.channel x.position n).source = some (.line l)) &&
      decide ((s.channel x.position n).attach = .attached)
  | .handset _ => true

/-- An ATTACHED channel has its party in its source line. -/
def channelAttached (s : State) (p : PositionId) (n : ChannelId) : Bool :=
  match (s.channel p n).source, (s.channel p n).attach with
  | some (.line l), .attached => (s.line l).parties.any fun x => decide (x.position = p ∧ x.path = .channel n)
  | some (.line _), _ | some (.group _), _ | none, _ => true

theorem attachAgree_of {s : State} (h1 : ∀ l, ∀ x ∈ (s.line l).parties, partyAttached s l x = true)
    (h2 : ∀ p n, channelAttached s p n = true) : s.attachAgree := by
  intro p n l
  constructor
  · rintro ⟨x, hx, rfl, e⟩
    simpa [partyAttached, e] using h1 l x hx
  · rintro ⟨e1, e2⟩
    simpa [channelAttached, e1, e2] using h2 p n

theorem noneWaits_of {s : State} {l : LineId} (h : ∀ p n, s.awaits l p n = false) : s.noneWaits l := h

/-- A line in slot `h` of `p` that switch-away can dispose of, the record of the line decided. -/
theorem disposable_line {s : State} {p : PositionId} {h : Handset} {x : LineId} {k : Key}
    (h1 : lineOk (s.line x) = true) (h2 : ∀ q n, s.awaits x q n = false)
    (h3 : ∃ y ∈ (s.line x).parties, y.position = p ∧ y.path = .handset h ∧ y.key = some k) :
    s.disposable p h ⟨.line x, k⟩ := by
  intro y e
  obtain rfl : x = y := by simpa using e
  exact ⟨ok_of_lineOk h1, h2, h3⟩

theorem disposable_group {s : State} {p : PositionId} {h : Handset} {g : GroupId} {k : Key} :
    s.disposable p h ⟨.group g, k⟩ := nofun

/-- A key whose other handset's slot is empty and through which no line is held. -/
theorem soleBinding_h0 {s : State} {p : PositionId} {k : Key} (h1 : s.slot p .h1 = none)
    (h2 : ∀ l, (s.line l).holdOwner ≠ some ⟨p, k⟩) : s.soleBinding p .h0 k := by
  refine fun _ => ⟨fun g x hg hx => ?_, h2⟩
  cases g
  · exact absurd rfl hg
  · simp [h1] at hx

/-! ### Witnesses: the hypotheses of each statement, met -/

theorem witness_LineConfigureWrites :
    ringingDesk.offers = [] ∧
    (ringingDesk.line 12).barge = .closed := by decide +kernel

theorem witness_LineConfigureWrites_open :
    (with12 { ringing with barge := .openPolicy }).offers = [] ∧
    ((with12 { ringing with barge := .openPolicy }).line 12).barge = .openPolicy := by decide +kernel

theorem ringingDesk_ringsAgree : ringingDesk.ringsAgree := by
  unfold State.ringsAgree byClass Position.rings; decide +kernel

theorem witness_LineConfigureWrites_refiles :
    ringingDesk.noneWaits 12 ∧ (ringingDesk.line 12).cls ≠ .priority ∧ (ringingDesk.line 12).state = .ringing ∧
    ringingDesk.ringsAgree ∧ (⟨12, 0, .ring, .normal⟩ : RingEntry) ∈ (ringingDesk.position 5).ringQueue := by
  refine ⟨noneWaits_of (by decide +kernel), ?_, ?_, ringingDesk_ringsAgree, ?_⟩ <;> decide +kernel

theorem witness_LineServiceIn_already :
    desk.offers = [] ∧
    (desk.line 12).state ≠ .outOfService := by decide +kernel

theorem witness_LineServiceIn :
    (with12 { Line.powerOn with state := .outOfService }).offers = [] ∧
    ((with12 { Line.powerOn with state := .outOfService }).line 12).state = .outOfService ∧
    ((with12 { Line.powerOn with state := .outOfService }).line 12).privacy = false := by decide +kernel

theorem witness_RingInRings :
    desk.offers = [] ∧
    (desk.line 12).state = .idle ∧
    (desk.line 12).privacy = false ∧
    (desk.line 12).signals.rd = false ∧
    desk.noneWaits 12 := by
  refine ⟨?_, ?_, ?_, ?_, noneWaits_of (by decide +kernel)⟩ <;> decide +kernel

theorem witness_FarEndSignals_missed :
    ringingDesk.offers = [] ∧
    (ringingDesk.line 12).ok ∧
    (ringingDesk.line 12).state = .ringing ∧
    (ringingDesk.line 12).signals.rd = true ∧
    ringingDesk.noneWaits 12 := by
  refine ⟨?_, ok_of_lineOk (by decide +kernel), ?_, ?_, noneWaits_of (by decide +kernel)⟩ <;> decide +kernel

theorem witness_FarEndSignals_answered :
    (onLine calling).offers = [] ∧
    ((onLine calling).line 12).ok ∧
    ((onLine calling).line 12).state = .calling ∧
    ((onLine calling).line 12).signals = ⟨false, false, false⟩ := by
  refine ⟨?_, ok_of_lineOk (by decide +kernel), ?_, ?_⟩ <;> decide +kernel

theorem witness_FarEndSignals_active :
    (onLine (active [mine])).offers = [] ∧
    ((onLine (active [mine])).line 12).ok ∧
    ((onLine (active [mine])).line 12).state = .active := by
  refine ⟨?_, ok_of_lineOk (by decide +kernel), ?_⟩ <;> decide +kernel

theorem witness_FarEndSignals_restored :
    (with12 { Line.powerOn with state := .fault, signals := ⟨false, false, true⟩ }).offers = [] ∧
    ((with12 { Line.powerOn with state := .fault, signals := ⟨false, false, true⟩ }).line 12).ok ∧
    ((with12 { Line.powerOn with state := .fault, signals := ⟨false, false, true⟩ }).line 12).state = .fault ∧
    ((with12 { Line.powerOn with state := .fault, signals := ⟨false, false, true⟩ }).line 12).signals.lf = true := by
  refine ⟨?_, ok_of_lineOk (by decide +kernel), ?_, ?_⟩ <;> decide +kernel

theorem witness_LineCleared :
    (onLine (active [mine])).offers = [] ∧
    ((onLine (active [mine])).line 12).state ≠ .fault ∧
    ((onLine (active [mine])).line 12).state ≠ .outOfService ∧
    ((onLine (active [mine])).line 12).signals.lf = false := by decide +kernel

theorem witness_HoldsEnd_recalls :
    (with12 held).offers = [] ∧
    ((with12 held).line 12).state = .held ∧
    ((with12 held).line 12).timer = some ⟨.hold, 480000⟩ ∧
    ((with12 held).line 12).holdOwner = some ⟨5, 0⟩ := by decide +kernel

theorem witness_HoldsEnd_farOff :
    (with12 { held with signals := ⟨false, true, false⟩ }).offers = [] ∧
    ((with12 { held with signals := ⟨false, true, false⟩ }).line 12).ok ∧
    ((with12 { held with signals := ⟨false, true, false⟩ }).line 12).state = .held ∧
    ((with12 { held with signals := ⟨false, true, false⟩ }).line 12).signals.fl = true := by
  refine ⟨?_, ok_of_lineOk (by decide +kernel), ?_, ?_⟩ <;> decide +kernel

theorem witness_HoldsEnd_abandoned :
    recallDesk.offers = [] ∧
    (recallDesk.line 12).ok ∧
    (recallDesk.line 12).state = .recall ∧
    (recallDesk.line 12).timer = some ⟨.recall, 960000⟩ := by
  refine ⟨?_, ok_of_lineOk (by decide +kernel), ?_, ?_⟩ <;> decide +kernel

theorem witness_LineTimersExpire_burst :
    (onLine calling).offers = [] ∧
    ((onLine calling).line 12).state = .calling ∧
    ((onLine calling).line 12).timer = some ⟨.burst, 8000⟩ := by decide +kernel

theorem witness_LineTimersExpire_single :
    (onLine { active [mine] with rg := true, timer := some ⟨.burst, 8000⟩ }).offers = [] ∧
    ((onLine { active [mine] with rg := true, timer := some ⟨.burst, 8000⟩ }).line 12).state = .active ∧
    ((onLine { active [mine] with rg := true, timer := some ⟨.burst, 8000⟩ }).line 12).timer = some ⟨.burst, 8000⟩ := by decide +kernel

theorem witness_LineTimersExpire_again :
    (onLine { calling with rg := false, burstCount := 2, timer := some ⟨.answerWait, 8000⟩ }).offers = [] ∧
    ((onLine { calling with rg := false, burstCount := 2, timer := some ⟨.answerWait, 8000⟩ }).line 12).state = .calling ∧
    ((onLine { calling with rg := false, burstCount := 2, timer := some ⟨.answerWait, 8000⟩ }).line 12).timer = some ⟨.answerWait, 8000⟩ ∧
    ((onLine { calling with rg := false, burstCount := 2, timer := some ⟨.answerWait, 8000⟩ }).line 12).burstCount < (onLine { calling with rg := false, burstCount := 2, timer := some ⟨.answerWait, 8000⟩ }).params.burstLimit := by decide +kernel

theorem witness_LineTimersExpire_unanswered :
    (onLine { calling with rg := false, burstCount := 3, timer := some ⟨.answerWait, 8000⟩ }).offers = [] ∧
    ((onLine { calling with rg := false, burstCount := 3, timer := some ⟨.answerWait, 8000⟩ }).line 12).state = .calling ∧
    ((onLine { calling with rg := false, burstCount := 3, timer := some ⟨.answerWait, 8000⟩ }).line 12).timer = some ⟨.answerWait, 8000⟩ ∧
    (onLine { calling with rg := false, burstCount := 3, timer := some ⟨.answerWait, 8000⟩ }).params.burstLimit ≤ ((onLine { calling with rg := false, burstCount := 3, timer := some ⟨.answerWait, 8000⟩ }).line 12).burstCount := by decide +kernel

theorem witness_LineTimersExpire_guard :
    (with12 guarded).offers = [] ∧
    ((with12 guarded).line 12).state = .guard ∧
    ((with12 guarded).line 12).timer = some ⟨.guard, 4000⟩ ∧
    (with12 guarded).noneWaits 12 := by
  refine ⟨?_, ?_, ?_, noneWaits_of (by decide +kernel)⟩ <;> decide +kernel

theorem witness_LineKeyOriginates :
    desk.offers = [] ∧
    (desk.position 5).linkUp = true ∧
    (0 : Key).val < (desk.position 5).layout.keyCount ∧
    (desk.entry 5 0).content = .line 12 true true true ∧
    desk.slot 5 (desk.selected 5) = none ∧
    (desk.line 12).state = .idle ∧
    (desk.line 12).ok ∧
    desk.termCount + 3 ≤ 768 := by
  refine ⟨?_, ?_, ?_, ?_, ?_, ?_, ok_of_lineOk (by decide +kernel), ?_⟩ <;> decide +kernel

theorem on20_disposable (sw : SwitchAway) : (on20 sw).disposable 5 .h0 ⟨.line 20, 3⟩ ∧ (on20 sw).soleBinding 5 .h0 3 := by
  cases sw <;> exact ⟨disposable_line (by decide +kernel) (by decide +kernel) (by decide +kernel),
    soleBinding_h0 (by decide +kernel) (by decide +kernel)⟩

theorem onGroup_disposable : onGroup.disposable 5 .h0 ⟨.group 3, 1⟩ ∧ onGroup.soleBinding 5 .h0 1 :=
  ⟨disposable_group, soleBinding_h0 (by decide +kernel) (by decide +kernel)⟩

/-- A line key into a slot that holds a line, under HOLD and under RELEASE, or a group; each has a replacement pending. -/
theorem witness_LineKeyOriginates_filled :
    ∀ x ∈ ([(on20 .hold, ⟨.line 20, 3⟩), (on20 .release, ⟨.line 20, 3⟩), (onGroup, ⟨.group 3, 1⟩)] :
        List (State × Held)),
      x.1.offers = [] ∧ (x.1.position 5).linkUp = true ∧ (0 : Key).val < (x.1.position 5).layout.keyCount ∧
      x.1.selected 5 = .h0 ∧ (x.1.entry 5 0).content = .line 12 true true true ∧ x.1.slot 5 .h0 = some x.2 ∧
      x.2.source ≠ .line 12 ∧ (x.1.line 12).state = .idle ∧ lineOk (x.1.line 12) = true ∧
      (slotCost (some x.2) = 3 ∨ x.1.termCount + 1 ≤ 768) ∧ (x.1.entry 5 x.2.key).pendingContent ≠ none ∧
      x.2.key ≠ 0 := by decide +kernel

theorem witness_LineKeyJoins_joins :
    (with12 { active [other] with barge := .openPolicy }).offers = [] ∧
    ((with12 { active [other] with barge := .openPolicy }).position 5).linkUp = true ∧
    (0 : Key).val < ((with12 { active [other] with barge := .openPolicy }).position 5).layout.keyCount ∧
    (with12 { active [other] with barge := .openPolicy }).selected 5 = .h0 ∧
    ((with12 { active [other] with barge := .openPolicy }).entry 5 0).content = .line 12 true true true ∧
    ((with12 { active [other] with barge := .openPolicy }).line 12).ok ∧
    mine = ⟨5, .handset .h0, some 0, true, decide ((with12 { active [other] with barge := .openPolicy }).hook 5 .h0 = .off), .key⟩ ∧
    (with12 { active [other] with barge := .openPolicy }).slot 5 .h0 = none ∧
    (with12 { active [other] with barge := .openPolicy }).termCount + 3 ≤ 768 ∧
    ((with12 { active [other] with barge := .openPolicy }).line 12).state = .active ∧
    ((with12 { active [other] with barge := .openPolicy }).line 12).party? 5 (.handset .h0) = none ∧
    ((with12 { active [other] with barge := .openPolicy }).line 12).barge = .openPolicy ∧
    ((with12 { active [other] with barge := .openPolicy }).line 12).privacy = false ∧
    ((with12 { active [other] with barge := .openPolicy }).line 12).parties.length < 8 := by
  refine ⟨?_, ?_, ?_, ?_, ?_, ok_of_lineOk (by decide +kernel), ?_, ?_, ?_, ?_, ?_, ?_, ?_, ?_⟩ <;> decide +kernel

theorem witness_LineKeyJoins_picksUp :
    recallDesk.offers = [] ∧
    (recallDesk.position 5).linkUp = true ∧
    (0 : Key).val < (recallDesk.position 5).layout.keyCount ∧
    recallDesk.selected 5 = .h0 ∧
    (recallDesk.entry 5 0).content = .line 12 true true true ∧
    (recallDesk.line 12).ok ∧
    mine = ⟨5, .handset .h0, some 0, true, decide (recallDesk.hook 5 .h0 = .off), .key⟩ ∧
    recallDesk.slot 5 .h0 = none ∧
    recallDesk.termCount + 3 ≤ 768 ∧
    (recallDesk.line 12).state = .recall ∧
    (recallDesk.line 12).holdOwner = some ⟨5, 0⟩ ∧
    (recallDesk.entry 5 0).pendingContent = none ∧
    recallDesk.noneWaits 12 := by
  refine ⟨?_, ?_, ?_, ?_, ?_, ok_of_lineOk (by decide +kernel), ?_, ?_, ?_, ?_, ?_, ?_, noneWaits_of (by decide +kernel)⟩ <;> decide +kernel

theorem witness_LineKeyJoins_reRings :
    (onLine calling).offers = [] ∧
    ((onLine calling).position 5).linkUp = true ∧
    (0 : Key).val < ((onLine calling).position 5).layout.keyCount ∧
    (onLine calling).selected 5 = .h0 ∧
    ((onLine calling).entry 5 0).content = .line 12 true true true ∧
    ((onLine calling).line 12).ok ∧
    mine = ⟨5, .handset .h0, some 0, true, decide ((onLine calling).hook 5 .h0 = .off), .key⟩ ∧
    (onLine calling).slot 5 .h0 = some ⟨.line 12, 0⟩ ∧
    ((onLine calling).line 12).party? 5 (.handset .h0) = some mine := by
  refine ⟨?_, ?_, ?_, ?_, ?_, ok_of_lineOk (by decide +kernel), ?_, ?_, ?_⟩ <;> decide +kernel

theorem witness_GroupKeyTaken_granted :
    desk.offers = [] ∧
    (desk.position 5).linkUp = true ∧
    (1 : Key).val < (desk.position 5).layout.keyCount ∧
    desk.selected 5 = .h0 ∧
    (desk.entry 5 1).content = .group 3 ∧
    desk.slot 5 .h0 = none ∧
    desk.termCount + 2 ≤ 768 ∧
    (desk.group 3).defined = true ∧
    (desk.group 3).member? 5 = some ⟨5, .normal⟩ ∧
    (desk.group 3).talker? 5 = none ∧
    (desk.group 3).waiter? 5 = none ∧
    (desk.group 3).talkers.length < (desk.group 3).talkerLimit ∧
    (desk.group 3).waiting = [] := by decide +kernel

/-- A group key into a slot that holds a line or another group: the floor is granted, the queue joined, or FLOOR_FULL. -/
theorem witness_GroupKeyTaken_filled :
    ∀ x ∈ ([(group4 [] [] (on20 .hold), ⟨.line 20, 3⟩), (group4 [⟨9, .channel 2, none⟩] [] onGroup, ⟨.group 3, 1⟩),
        (group4 [⟨9, .channel 2, none⟩] eight onGroup, ⟨.group 3, 1⟩)] : List (State × Held)),
      x.1.offers = [] ∧ (x.1.position 5).linkUp = true ∧ (2 : Key).val < (x.1.position 5).layout.keyCount ∧
      x.1.selected 5 = .h0 ∧ (x.1.entry 5 2).content = .group 4 ∧ x.1.slot 5 .h0 = some x.2 ∧ x.2.source ≠ .group 4 ∧
      (x.1.group 4).defined = true ∧ (x.1.group 4).member? 5 = some ⟨5, .normal⟩ ∧ (x.1.group 4).talker? 5 = none ∧
      (x.1.group 4).waiter? 5 = none ∧ (x.1.entry 5 x.2.key).pendingContent ≠ none ∧ x.2.key ≠ 2 := by decide +kernel

theorem witness_GroupKeyTaken_filled_disposable :
    (group4 [] [] (on20 .hold)).disposable 5 .h0 ⟨.line 20, 3⟩ ∧ (group4 [] [] (on20 .hold)).soleBinding 5 .h0 3 ∧
    ∀ queued ∈ [[], eight], (group4 [⟨9, .channel 2, none⟩] queued onGroup).disposable 5 .h0 ⟨.group 3, 1⟩ ∧
      (group4 [⟨9, .channel 2, none⟩] queued onGroup).soleBinding 5 .h0 1 :=
  ⟨disposable_line (by decide +kernel) (by decide +kernel) (by decide +kernel),
    soleBinding_h0 (by decide +kernel) (by decide +kernel), fun _ hq => ⟨disposable_group, by
      simp only [List.mem_cons, List.not_mem_nil, or_false] at hq
      rcases hq with rfl | rfl <;> exact soleBinding_h0 (by decide +kernel) (by decide +kernel)⟩⟩

/-- Position 5 has an entry in the group already, by another mic source; and a key naming the group that the slot holds. -/
theorem witness_GroupKeyTaken_again :
    ((talking []).group 3).talker? 5 ≠ none ∧ (talking []).slot 5 .h0 = none ∧ (talking []).termCount + 2 ≤ 768 ∧
    (talking []).offers = [] ∧ ((talking []).position 5).linkUp = true ∧ ((talking []).entry 5 1).content = .group 3 ∧
    (talking []).selected 5 = .h0 ∧ ((talking []).group 3).member? 5 = some ⟨5, .normal⟩ ∧
    onGroup.offers = [] ∧ (onGroup.position 5).linkUp = true ∧ (onGroup.entry 5 1).content = .group 3 ∧
    onGroup.selected 5 = .h0 ∧ onGroup.slot 5 .h0 = some ⟨.group 3, 1⟩ := by decide +kernel

theorem witness_GroupPushToTalk_granted :
    (desk.setChannel 5 0 groupS0).offers = [] ∧
    ((desk.setChannel 5 0 groupS0).position 5).linkUp = true ∧
    ((desk.setChannel 5 0 groupS0).channel 5 0).source = some (.group 3) ∧
    ((desk.setChannel 5 0 groupS0).channel 5 0).ptt = false ∧
    ((desk.setChannel 5 0 groupS0).group 3).defined = true ∧
    ((desk.setChannel 5 0 groupS0).group 3).member? 5 = some ⟨5, .normal⟩ ∧
    ((desk.setChannel 5 0 groupS0).group 3).talker? 5 = none ∧
    ((desk.setChannel 5 0 groupS0).group 3).waiter? 5 = none ∧
    ((desk.setChannel 5 0 groupS0).group 3).talkers.length < ((desk.setChannel 5 0 groupS0).group 3).talkerLimit ∧
    ((desk.setChannel 5 0 groupS0).group 3).waiting = [] := by decide +kernel

theorem witness_GroupKeyTaken_queued :
    (fullGroup []).offers = [] ∧
    ((fullGroup []).position 5).linkUp = true ∧
    (1 : Key).val < ((fullGroup []).position 5).layout.keyCount ∧
    (fullGroup []).selected 5 = .h0 ∧
    ((fullGroup []).entry 5 1).content = .group 3 ∧
    (fullGroup []).slot 5 .h0 = none ∧
    (fullGroup []).termCount + 2 ≤ 768 ∧
    ((fullGroup []).group 3).defined = true ∧
    ((fullGroup []).group 3).member? 5 = some ⟨5, .normal⟩ ∧
    ((fullGroup []).group 3).talker? 5 = none ∧
    ((fullGroup []).group 3).waiter? 5 = none ∧
    ((fullGroup []).group 3).talkerLimit ≤ ((fullGroup []).group 3).talkers.length ∧
    ((fullGroup []).group 3).waiting.length < 8 := by decide +kernel

theorem witness_GroupPushToTalk_queued :
    ((fullGroup []).setChannel 5 0 groupS0).offers = [] ∧
    (((fullGroup []).setChannel 5 0 groupS0).position 5).linkUp = true ∧
    (((fullGroup []).setChannel 5 0 groupS0).channel 5 0).source = some (.group 3) ∧
    (((fullGroup []).setChannel 5 0 groupS0).channel 5 0).ptt = false ∧
    (((fullGroup []).setChannel 5 0 groupS0).group 3).defined = true ∧
    (((fullGroup []).setChannel 5 0 groupS0).group 3).member? 5 = some ⟨5, .normal⟩ ∧
    (((fullGroup []).setChannel 5 0 groupS0).group 3).talker? 5 = none ∧
    (((fullGroup []).setChannel 5 0 groupS0).group 3).waiter? 5 = none ∧
    (((fullGroup []).setChannel 5 0 groupS0).group 3).talkerLimit ≤ (((fullGroup []).setChannel 5 0 groupS0).group 3).talkers.length ∧
    (((fullGroup []).setChannel 5 0 groupS0).group 3).waiting.length < 8 := by decide +kernel

theorem witness_GroupKeyTaken_full :
    (fullGroup eight).offers = [] ∧
    ((fullGroup eight).position 5).linkUp = true ∧
    (1 : Key).val < ((fullGroup eight).position 5).layout.keyCount ∧
    (fullGroup eight).selected 5 = .h0 ∧
    ((fullGroup eight).entry 5 1).content = .group 3 ∧
    (fullGroup eight).slot 5 .h0 = none ∧
    (fullGroup eight).termCount + 2 ≤ 768 ∧
    ((fullGroup eight).group 3).defined = true ∧
    ((fullGroup eight).group 3).member? 5 = some ⟨5, .normal⟩ ∧
    ((fullGroup eight).group 3).talker? 5 = none ∧
    ((fullGroup eight).group 3).waiter? 5 = none ∧
    ((fullGroup eight).group 3).talkerLimit ≤ ((fullGroup eight).group 3).talkers.length ∧
    8 ≤ ((fullGroup eight).group 3).waiting.length := by decide +kernel

theorem witness_GroupPushToTalk_full :
    ((fullGroup eight).setChannel 5 0 groupS0).offers = [] ∧
    (((fullGroup eight).setChannel 5 0 groupS0).position 5).linkUp = true ∧
    (((fullGroup eight).setChannel 5 0 groupS0).channel 5 0).source = some (.group 3) ∧
    (((fullGroup eight).setChannel 5 0 groupS0).channel 5 0).ptt = false ∧
    (((fullGroup eight).setChannel 5 0 groupS0).group 3).defined = true ∧
    (((fullGroup eight).setChannel 5 0 groupS0).group 3).member? 5 = some ⟨5, .normal⟩ ∧
    (((fullGroup eight).setChannel 5 0 groupS0).group 3).talker? 5 = none ∧
    (((fullGroup eight).setChannel 5 0 groupS0).group 3).waiter? 5 = none ∧
    (((fullGroup eight).setChannel 5 0 groupS0).group 3).talkerLimit ≤ (((fullGroup eight).setChannel 5 0 groupS0).group 3).talkers.length ∧
    8 ≤ (((fullGroup eight).setChannel 5 0 groupS0).group 3).waiting.length := by decide +kernel

theorem witness_GroupPushToTalk_released :
    (talking []).offers = [] ∧
    ((talking []).position 5).linkUp = true ∧
    ((talking []).channel 5 0).source = some (.group 3) ∧
    ((talking []).channel 5 0).ptt = true ∧
    ((talking []).group 3).waiter? 5 = none ∧
    ((talking []).group 3).talker? 5 = some ⟨5, .channel 0, some 500⟩ ∧
    ((talking []).group 3).waiting = [] := by decide +kernel

theorem witness_GroupPushToTalk_handsOver :
    (talking [⟨9, .channel 3, .priority⟩]).offers = [] ∧
    ((talking [⟨9, .channel 3, .priority⟩]).position 5).linkUp = true ∧
    ((talking [⟨9, .channel 3, .priority⟩]).channel 5 0).source = some (.group 3) ∧
    ((talking [⟨9, .channel 3, .priority⟩]).channel 5 0).ptt = true ∧
    ((talking [⟨9, .channel 3, .priority⟩]).group 3).waiter? 5 = none ∧
    ((talking [⟨9, .channel 3, .priority⟩]).group 3).talker? 5 = some ⟨5, .channel 0, some 500⟩ ∧
    ((talking [⟨9, .channel 3, .priority⟩]).group 3).waiting = [⟨9, .channel 3, .priority⟩] := by decide +kernel

theorem witness_GroupPushToTalk_withdraws :
    ((fullGroup [⟨5, .channel 0, .normal⟩]).setChannel 5 0 { groupS0 with ptt := true }).offers = [] ∧
    (((fullGroup [⟨5, .channel 0, .normal⟩]).setChannel 5 0 { groupS0 with ptt := true }).position 5).linkUp = true ∧
    (((fullGroup [⟨5, .channel 0, .normal⟩]).setChannel 5 0 { groupS0 with ptt := true }).channel 5 0).source = some (.group 3) ∧
    (((fullGroup [⟨5, .channel 0, .normal⟩]).setChannel 5 0 { groupS0 with ptt := true }).channel 5 0).ptt = true ∧
    (((fullGroup [⟨5, .channel 0, .normal⟩]).setChannel 5 0 { groupS0 with ptt := true }).group 3).waiter? 5 = some ⟨5, .channel 0, .normal⟩ := by decide +kernel

theorem witness_KeysDenied_empty :
    desk.offers = [] ∧
    (desk.position 5).linkUp = true ∧
    (2 : Key).val < (desk.position 5).layout.keyCount ∧
    (desk.entry 5 2).content = .empty := by decide +kernel

theorem witness_KeysDenied_hidden :
    (desk.setPosition 5 { desk.position 5 with layout := .keys32 }).offers = [] ∧
    ((desk.setPosition 5 { desk.position 5 with layout := .keys32 }).position 5).linkUp = true ∧
    ((desk.setPosition 5 { desk.position 5 with layout := .keys32 }).position 5).layout.keyCount ≤ (32 : Key).val := by decide +kernel

theorem witness_KeysDenied_guard :
    (with12 guarded).offers = [] ∧
    ((with12 guarded).position 5).linkUp = true ∧
    (0 : Key).val < ((with12 guarded).position 5).layout.keyCount ∧
    ((with12 guarded).entry 5 0).content = .line 12 true true true ∧
    (with12 guarded).slot 5 ((with12 guarded).selected 5) = none ∧
    (with12 guarded).termCount + 3 ≤ 768 ∧
    ((with12 guarded).line 12).state = .guard := by decide +kernel

theorem witness_KeysDenied_closed :
    (with12 (active [other])).offers = [] ∧
    ((with12 (active [other])).position 5).linkUp = true ∧
    (0 : Key).val < ((with12 (active [other])).position 5).layout.keyCount ∧
    ((with12 (active [other])).entry 5 0).content = .line 12 true true true ∧
    (with12 (active [other])).slot 5 ((with12 (active [other])).selected 5) = none ∧
    (with12 (active [other])).termCount + 3 ≤ 768 ∧
    ((with12 (active [other])).line 12).state = .active ∧
    ((with12 (active [other])).line 12).barge = .closed ∧
    ((with12 (active [other])).line 12).party? 5 (.handset ((with12 (active [other])).selected 5)) = none := by decide +kernel

theorem witness_KeysDenied_private :
    (with12 { active [other] with barge := .openPolicy, privacy := true }).offers = [] ∧
    ((with12 { active [other] with barge := .openPolicy, privacy := true }).position 5).linkUp = true ∧
    (0 : Key).val < ((with12 { active [other] with barge := .openPolicy, privacy := true }).position 5).layout.keyCount ∧
    ((with12 { active [other] with barge := .openPolicy, privacy := true }).entry 5 0).content = .line 12 true true true ∧
    (with12 { active [other] with barge := .openPolicy, privacy := true }).slot 5 ((with12 { active [other] with barge := .openPolicy, privacy := true }).selected 5) = none ∧
    (with12 { active [other] with barge := .openPolicy, privacy := true }).termCount + 3 ≤ 768 ∧
    ((with12 { active [other] with barge := .openPolicy, privacy := true }).line 12).state = .active ∧
    ((with12 { active [other] with barge := .openPolicy, privacy := true }).line 12).barge = .openPolicy ∧
    ((with12 { active [other] with barge := .openPolicy, privacy := true }).line 12).privacy = true ∧
    ((with12 { active [other] with barge := .openPolicy, privacy := true }).line 12).party? 5 (.handset ((with12 { active [other] with barge := .openPolicy, privacy := true }).selected 5)) = none := by decide +kernel

/-- The desk with line 20, whose key 3 has barge-allowed and pickup-allowed off, in the record given. -/
def with20 (x : Line) : State := desk.setLine 20 x

/-- Each refusal of a line key but those shown above, with a desk, a key and a line that meet its conditions. -/
theorem witness_KeysDenied_lines :
    ∀ x ∈ ([(with12 { Line.powerOn with state := .fault }, 0, 12, .lineFault),
        (with12 { Line.powerOn with state := .outOfService }, 0, 12, .lineOutOfService),
        (with12 { calling with parties := [other] }, 0, 12, .deniedClosed),
        (with20 { active [other] with barge := .openPolicy }, 3, 20, .noBarge),
        (with12 { active (other :: seven) with barge := .openPolicy }, 0, 12, .lineFull),
        (with12 { held with holdOwner := some ⟨9, 7⟩, privateHold := true }, 0, 12, .heldPrivate),
        (with20 { recalling with holdOwner := some ⟨9, 7⟩ }, 3, 20, .noPickup)] :
        List (State × Key × LineId × ResultCode)),
      x.1.offers = [] ∧ (x.1.position 5).linkUp = true ∧ x.2.1.val < (x.1.position 5).layout.keyCount ∧
      (∃ r b u, (x.1.entry 5 x.2.1).content = .line x.2.2.1 r b u ∧
        (x.2.2.2 = .noBarge → b = false) ∧ (x.2.2.2 = .lineFull → b = true) ∧ (x.2.2.2 = .noPickup → u = false)) ∧
      x.1.slot 5 (x.1.selected 5) = none ∧ x.1.termCount + 3 ≤ 768 ∧
      ((x.1.line x.2.2.1).state = .fault ∧ x.2.2.2 = .lineFault ∨
        (x.1.line x.2.2.1).state = .outOfService ∧ x.2.2.2 = .lineOutOfService ∨
        ((x.1.line x.2.2.1).state = .calling ∨ (x.1.line x.2.2.1).state = .active) ∧
          (x.1.line x.2.2.1).party? 5 (.handset (x.1.selected 5)) = none ∧
          ((x.1.line x.2.2.1).barge = .closed ∧ x.2.2.2 = .deniedClosed ∨
            (x.1.line x.2.2.1).barge = .openPolicy ∧ (x.1.line x.2.2.1).privacy = false ∧
              (x.2.2.2 = .noBarge ∨ 8 ≤ (x.1.line x.2.2.1).parties.length ∧ x.2.2.2 = .lineFull)) ∨
        ((x.1.line x.2.2.1).state = .held ∨ (x.1.line x.2.2.1).state = .recall) ∧
          (x.1.line x.2.2.1).holdOwner = some ⟨9, 7⟩ ∧
          ((x.1.line x.2.2.1).privateHold = true ∧ x.2.2.2 = .heldPrivate ∨
            (x.1.line x.2.2.1).privateHold = false ∧ x.2.2.2 = .noPickup)) := by decide +kernel

theorem witness_KeysDenied_mixFull :
    ({ desk with termCount := 766 } : State).slot 5 .h0 = none ∧
    768 < 766 + (3 - slotCost (({ desk with termCount := 766 } : State).slot 5 .h0)) ∧
    ({ holding ⟨.group 3, 1⟩ 2 desk with termCount := 768 } : State).slot 5 .h0 = some ⟨.group 3, 1⟩ ∧
    768 < 768 + (3 - slotCost (some ⟨.group 3, 1⟩)) ∧ slotCost (some ⟨.group 3, 1⟩) < 3 ∧
    (desk.entry 5 0).content = .line 12 true true true := by decide +kernel

theorem witness_KeysDenied_groups :
    (desk.entry 5 1).content = .group 3 ∧ desk.slot 5 (desk.selected 5) = none ∧
    ((desk.setGroup 3 Group.powerOn).group 3).defined = false ∧
    ((desk.setGroup 3 ⟨true, 1, 30, [⟨9, .priority⟩], [], []⟩).group 3).member? 5 = none ∧
    (desk.group 3).defined = true ∧ (desk.group 3).member? 5 ≠ none ∧ 768 < 767 + 2 := by decide +kernel

theorem witness_HoldKeyHolds_others :
    (onLine (active [other, mine])).offers = [] ∧
    ((onLine (active [other, mine])).position 5).linkUp = true ∧
    (onLine (active [other, mine])).slot 5 ((onLine (active [other, mine])).selected 5) = some ⟨.line 12, 0⟩ ∧
    ((onLine (active [other, mine])).line 12).ok ∧
    ((onLine (active [other, mine])).line 12).parties = [other] ++ mine :: [] ∧ [other] ++ ([] : List Party) ≠ [] ∧
    mine.position = 5 ∧ mine.path = .handset ((onLine (active [other, mine])).selected 5) ∧
    ((onLine (active [other, mine])).entry 5 0).pendingContent = none ∧ (onLine (active [other, mine])).noneWaits 12 := by
  refine ⟨?_, ?_, ?_, ok_of_lineOk (by decide +kernel), ?_, ?_, ?_, ?_, ?_, noneWaits_of (by decide +kernel)⟩ <;>
    decide +kernel

/-- The principal of a private line, off-hook, with another party behind it. -/
theorem witness_LastPartyLeaves_others :
    (offHook (onLine { active [mine, other] with privacy := true })).offers = [] ∧
    ((offHook (onLine { active [mine, other] with privacy := true })).position 5).linkUp = true ∧
    (offHook (onLine { active [mine, other] with privacy := true })).slot 5 .h0 = some ⟨.line 12, 0⟩ ∧
    ((offHook (onLine { active [mine, other] with privacy := true })).line 12).ok ∧
    ((offHook (onLine { active [mine, other] with privacy := true })).line 12).parties = [] ++ mine :: [other] ∧
    ((offHook (onLine { active [mine, other] with privacy := true })).line 12).principal = some mine ∧
    ((offHook (onLine { active [mine, other] with privacy := true })).entry 5 0).pendingContent = none ∧
    (offHook (onLine { active [mine, other] with privacy := true })).hook 5 .h0 = .off ∧
    .h0 = (offHook (onLine { active [mine, other] with privacy := true })).selected 5 ∧
    (offHook (onLine { active [mine, other] with privacy := true })).noneWaits 12 := by
  refine ⟨?_, ?_, ?_, ok_of_lineOk (by decide +kernel), ?_, ?_, ?_, ?_, ?_, noneWaits_of (by decide +kernel)⟩ <;>
    decide +kernel

/-- A group in the slot, of a handset off-hook and on-hook, with an entry on its floor and a replacement pending. -/
theorem witness_HoldKeyHolds_group :
    ∀ s ∈ [onGroup, offHook onGroup],
      s.offers = [] ∧ (s.position 5).linkUp = true ∧ .h0 = s.selected 5 ∧ s.slot 5 .h0 = some ⟨.group 3, 1⟩ ∧
      (s.entry 5 1).pendingContent ≠ none ∧ s.slot 5 .h1 = none ∧ (∀ l, (s.line l).holdOwner ≠ some ⟨5, 1⟩) ∧
      ((s.group 3).talker? 5).isSome = true := by decide +kernel

theorem witness_LastPartyLeaves_group :
    (offHook onGroup).hook 5 .h0 = .off ∧ (offHook onGroup).soleBinding 5 .h0 1 ∧ onGroup.soleBinding 5 .h0 1 ∧
    desk.offers = [] ∧ (desk.position 5).linkUp = true ∧ desk.slot 5 (desk.selected 5) = none ∧
    desk.hook 5 .h0 = .on ∧ (offHook desk).hook 5 .h0 = .off ∧ (offHook desk).slot 5 .h0 = none :=
  ⟨by decide +kernel, soleBinding_h0 (by decide +kernel) (by decide +kernel), onGroup_disposable.2, by decide +kernel⟩

theorem fullLine_attachAgree : fullLine.attachAgree := attachAgree_of (by decide +kernel) (by decide +kernel)

theorem witness_LastPartyLeaves_place :
    fullLine.offers = [] ∧ (fullLine.position 5).linkUp = true ∧ fullLine.slot 5 .h0 = some ⟨.line 12, 0⟩ ∧
    (fullLine.line 12).ok ∧ (fullLine.line 12).parties = [] ++ mine :: seven ∧
    (fullLine.entry 5 0).pendingContent = none ∧ .h0 = fullLine.selected 5 ∧
    (([] : List Party) ++ seven).length = 7 ∧ (fullLine.line 12).barge = .openPolicy ∧
    (fullLine.line 12).privacy = false ∧ fullLine.waiters 12 = (5, 0) :: [] ∧ fullLine.attachAgree := by
  refine ⟨?_, ?_, ?_, ok_of_lineOk (by decide +kernel), ?_, ?_, ?_, ?_, ?_, ?_, ?_, fullLine_attachAgree⟩ <;>
    decide +kernel

theorem witness_HoldKeyHolds :
    (onLine { calling with privacy := true }).offers = [] ∧
    ((onLine { calling with privacy := true }).position 5).linkUp = true ∧
    (onLine { calling with privacy := true }).slot 5 ((onLine { calling with privacy := true }).selected 5) = some ⟨.line 12, 0⟩ ∧
    ((onLine { calling with privacy := true }).line 12).ok ∧
    ((onLine { calling with privacy := true }).line 12).parties = [mine] ∧
    mine.path = .handset ((onLine { calling with privacy := true }).selected 5) ∧
    mine.position = 5 ∧
    mine.key = some 0 := by
  refine ⟨?_, ?_, ?_, ok_of_lineOk (by decide +kernel), ?_, ?_, ?_, ?_⟩ <;> decide +kernel

theorem witness_LastPartyLeaves_release :
    (onLine (active [mine])).offers = [] ∧
    ((onLine (active [mine])).position 5).linkUp = true ∧
    (onLine (active [mine])).slot 5 .h0 = some ⟨.line 12, 0⟩ ∧
    ((onLine (active [mine])).line 12).ok ∧
    ((onLine (active [mine])).line 12).parties = [mine] ∧
    mine.position = 5 ∧
    mine.path = .handset .h0 ∧
    ((onLine (active [mine])).entry 5 0).pendingContent = none ∧
    .h0 = (onLine (active [mine])).selected 5 := by
  refine ⟨?_, ?_, ?_, ok_of_lineOk (by decide +kernel), ?_, ?_, ?_, ?_, ?_⟩ <;> decide +kernel

theorem witness_LastPartyLeaves_hookOn :
    (offHook (onLine (active [mine]))).offers = [] ∧
    ((offHook (onLine (active [mine]))).position 5).linkUp = true ∧
    (offHook (onLine (active [mine]))).slot 5 .h0 = some ⟨.line 12, 0⟩ ∧
    ((offHook (onLine (active [mine]))).line 12).ok ∧
    ((offHook (onLine (active [mine]))).line 12).parties = [mine] ∧
    mine.position = 5 ∧
    mine.path = .handset .h0 ∧
    ((offHook (onLine (active [mine]))).entry 5 0).pendingContent = none ∧
    (offHook (onLine (active [mine]))).hook 5 .h0 = .off := by
  refine ⟨?_, ?_, ?_, ok_of_lineOk (by decide +kernel), ?_, ?_, ?_, ?_, ?_⟩ <;> decide +kernel

theorem witness_HeadAnswered :
    ringingDesk.offers = [] ∧
    (ringingDesk.position 5).linkUp = true ∧
    (ringingDesk.position 5).ringQueue = [⟨12, 0, .ring, .normal⟩] ∧
    (ringingDesk.line 12).state = .ringing ∧
    (ringingDesk.line 12).ok ∧
    ringingDesk.slot 5 .h0 = none ∧
    ringingDesk.termCount + 3 ≤ 768 ∧
    ringingDesk.selected 5 = .h0 ∧
    ringingDesk.hook 5 .h0 = .on ∧
    (ringingDesk.position 5).answerOnLift = true := by
  refine ⟨?_, ?_, ?_, ?_, ok_of_lineOk (by decide +kernel), ?_, ?_, ?_, ?_, ?_⟩ <;> decide +kernel

/-- A ringing line at the head of the queue of position 5, whose slot holds a line with a replacement pending, or a group. -/
theorem witness_HeadAnswered_filled :
    ∀ x ∈ ([(rings12 (on20 .hold), ⟨.line 20, 3⟩), (rings12 onGroup, ⟨.group 3, 1⟩)] : List (State × Held)),
      (x.1.position 5).linkUp = true ∧ (x.1.position 5).ringQueue = [⟨12, 0, .ring, .normal⟩] ∧
      x.1.offers = [] ∧ (x.1.line 12).state = .ringing ∧ lineOk (x.1.line 12) = true ∧
      .h0 = x.1.selected 5 ∧ x.1.slot 5 .h0 = some x.2 ∧ x.2.source ≠ .line 12 ∧
      (slotCost (some x.2) = 3 ∨ x.1.termCount + 1 ≤ 768) ∧ (x.1.entry 5 x.2.key).pendingContent ≠ none ∧
      x.2.key ≠ 0 := by decide +kernel

theorem witness_HeadAnswered_filled_disposable :
    (rings12 (on20 .hold)).disposable 5 .h0 ⟨.line 20, 3⟩ ∧ (rings12 (on20 .hold)).soleBinding 5 .h0 3 ∧
    (rings12 onGroup).disposable 5 .h0 ⟨.group 3, 1⟩ ∧ (rings12 onGroup).soleBinding 5 .h0 1 :=
  ⟨disposable_line (by decide +kernel) (by decide +kernel) (by decide +kernel),
    soleBinding_h0 (by decide +kernel) (by decide +kernel), disposable_group,
    soleBinding_h0 (by decide +kernel) (by decide +kernel)⟩

theorem witness_LiftTalks_group :
    onGroup.offers = [] ∧ (onGroup.position 5).linkUp = true ∧ onGroup.hook 5 .h0 = .on ∧
    onGroup.slot 5 .h0 = some ⟨.group 3, 1⟩ := by decide +kernel

theorem witness_PrivacyByPrincipal_noLine :
    onGroup.offers = [] ∧ (onGroup.position 5).linkUp = true ∧
    onGroup.slot 5 (onGroup.selected 5) = some ⟨.group 3, 1⟩ ∧ desk.offers = [] ∧
    (desk.position 5).linkUp = true ∧ desk.slot 5 (desk.selected 5) = none := by decide +kernel

theorem witness_LiftTalks_line :
    (onLine (active [mine])).offers = [] ∧
    ((onLine (active [mine])).position 5).linkUp = true ∧
    (onLine (active [mine])).hook 5 .h0 = .on ∧
    (onLine (active [mine])).slot 5 .h0 = some ⟨.line 12, 0⟩ := by decide +kernel

theorem witness_LiftTalks_empty :
    desk.offers = [] ∧
    (desk.position 5).linkUp = true ∧
    desk.hook 5 .h0 = .on ∧
    desk.slot 5 .h0 = none ∧
    (desk.position 5).ringQueue = [] := by decide +kernel

theorem witness_LiftTalks_again :
    (offHook desk).offers = [] ∧
    ((offHook desk).position 5).linkUp = true ∧
    (offHook desk).hook 5 .h0 = .off := by decide +kernel

theorem witness_PrivacyByPrincipal_own :
    (onLine (active [mine, other])).offers = [] ∧
    ((onLine (active [mine, other])).position 5).linkUp = true ∧
    (onLine (active [mine, other])).slot 5 ((onLine (active [mine, other])).selected 5) = some ⟨.line 12, 0⟩ ∧
    mine ∈ ((onLine (active [mine, other])).line 12).parties ∧
    mine.position = 5 ∧
    mine.path = .handset ((onLine (active [mine, other])).selected 5) ∧
    ((onLine (active [mine, other])).line 12).principal = some mine ∧
    (onLine (active [mine, other])).noneWaits 12 := by
  refine ⟨?_, ?_, ?_, ?_, ?_, ?_, ?_, noneWaits_of (by decide +kernel)⟩ <;> decide +kernel

theorem witness_PrivacyByPrincipal_other :
    (onLine (active [other, mine])).offers = [] ∧
    ((onLine (active [other, mine])).position 5).linkUp = true ∧
    (onLine (active [other, mine])).slot 5 ((onLine (active [other, mine])).selected 5) = some ⟨.line 12, 0⟩ ∧
    mine ∈ ((onLine (active [other, mine])).line 12).parties ∧
    mine.position = 5 ∧
    mine.path = .handset ((onLine (active [other, mine])).selected 5) ∧
    ((onLine (active [other, mine])).line 12).principal = some other ∧
    other.position ≠ 5 := by decide +kernel

theorem witness_SelectionSilenceAndTimers_keys :
    ringingDesk.offers = [] ∧
    (ringingDesk.position 5).linkUp = true ∧
    (ringingDesk.position 5).ringQueue ≠ [] := by decide +kernel

theorem witness_SelectionSilenceAndTimers_cadence :
    ringingDesk.offers = [] ∧
    (ringingDesk.position 5).ringer.cadence = some ⟨true, 8000⟩ ∧
    (ringingDesk.position 5).ringQueue = [⟨12, 0, .ring, .normal⟩] ∧
    (ringingDesk.position 5).ringer.silenced = false := by decide +kernel

theorem witness_SelectionSilenceAndTimers_deny :
    (desk.startDeny 5 12).offers = [] ∧
    ((desk.startDeny 5 12).position 5).deny.get 12 = some 8000 := by decide +kernel

theorem witness_GroupDefined_taken :
    desk.offers = [] ∧
    (desk.group 4).defined = false ∧
    desk.termCount + (8 : Byte).toNat ≤ 768 := by decide +kernel

theorem witness_GroupDefined_refused :
    ({ desk with termCount := 768 } : State).offers = [] ∧
    768 < ({ desk with termCount := 768 } : State).termCount + (1 : Byte).toNat ∧
    (desk.group 3).defined = true := by decide +kernel

theorem witness_GroupDefined_undefined :
    (desk.setGroup 3 ⟨true, 2, 5, [], [], []⟩).offers = [] ∧
    ((desk.setGroup 3 ⟨true, 2, 5, [], [], []⟩).group 3).defined = true ∧
    ((desk.setGroup 3 ⟨true, 2, 5, [], [], []⟩).group 3).members = [] := by decide +kernel

theorem witness_GroupDefined_inUse :
    desk.offers = [] ∧
    (desk.group 3).members ≠ [] := by decide +kernel

theorem witness_MemberAdded :
    (desk.group 4).defined = false ∧
    (desk.group 3).defined = true ∧
    (desk.group 3).member? 5 = some ⟨5, .normal⟩ ∧
    (desk.group 3).member? 7 = none ∧
    (desk.group 3).members.length < 32 := by decide +kernel

theorem witness_MemberRemoved :
    (fullGroup eight).offers = [] ∧
    ((fullGroup eight).group 3).defined = true ∧
    ((fullGroup eight).group 3).member? 9 = some ⟨9, .priority⟩ := by decide +kernel

theorem witness_FloorTimesOut_empty :
    (fullGroup []).offers = [] ∧
    ((fullGroup []).group 3).talker? 9 = some ⟨9, .channel 2, some 500⟩ ∧
    ((fullGroup []).group 3).waiting = [] := by decide +kernel

theorem witness_FloorTimesOut_grants :
    (fullGroup eight).offers = [] ∧
    ((fullGroup eight).group 3).talker? 9 = some ⟨9, .channel 2, some 500⟩ ∧
    ((fullGroup eight).group 3).waiting = eight := by decide +kernel

theorem witness_ConfigurationWritten :
    (27 : Byte).toNat ≤ 27 ∧
    27 < (28 : Byte).toNat ∧
    (800 : Half).toNat = RingerTone.hz800.hertz := by decide +kernel

theorem witness_MixApplied_full :
    (planned.speaker 5).liveTerms < (planned.speaker 5).planTerms ∧
    768 < 765 + ((planned.speaker 5).planTerms - (planned.speaker 5).liveTerms) := by decide +kernel

theorem witness_MixApplied_installed :
    planned.offers = [] ∧
    planned.termCount + ((planned.speaker 5).planTerms - (planned.speaker 5).liveTerms) ≤ 768 := by decide +kernel

theorem witness_ChannelKeys_mute :
    (withS0 groupS0).offers = [] ∧
    ((withS0 groupS0).position 5).linkUp = true ∧
    ((withS0 groupS0).channel 5 0).source = some (.group 3) := by decide +kernel

theorem witness_ChannelKeys_noSource :
    desk.offers = [] ∧
    (desk.position 5).linkUp = true ∧
    (desk.channel 5 0).source = none := by decide +kernel

theorem witness_ChannelKeys_down :
    (onSpeaker false).offers = [] ∧
    ((onSpeaker false).position 5).linkUp = true ∧
    ((onSpeaker false).channel 5 0).source = some (.line 12) ∧
    ((onSpeaker false).channel 5 0).attach = .attached ∧
    ((onSpeaker false).channel 5 0).talkback = true ∧
    ((onSpeaker false).channel 5 0).ptt = false := by decide +kernel

theorem witness_ChannelKeys_up :
    (onSpeaker true).offers = [] ∧
    ((onSpeaker true).position 5).linkUp = true ∧
    ((onSpeaker true).channel 5 0).source = some (.line 12) ∧
    ((onSpeaker true).channel 5 0).attach = .attached ∧
    ((onSpeaker true).channel 5 0).ptt = true := by decide +kernel

theorem witness_ChannelKeys_noTalkback :
    (withS0 waitingS0).offers = [] ∧
    ((withS0 waitingS0).position 5).linkUp = true ∧
    ((withS0 waitingS0).channel 5 0).source = some (.line 12) ∧
    ((withS0 waitingS0).channel 5 0).attach = .waiting ∧
    ((withS0 waitingS0).channel 5 0).ptt = false := by decide +kernel

theorem witness_KnobDetents_forward :
    (turned ⟨false, false, 2⟩ 20).offers = [] ∧
    ((turned ⟨false, false, 2⟩ 20).position 5).linkUp = true ∧
    (1 : KnobId).val < ((turned ⟨false, false, 2⟩ 20).link 5).knobCount ∧
    ((turned ⟨false, false, 2⟩ 20).position 5).knob 1 = ⟨false, false, 2⟩ ∧
    ((turned ⟨false, false, 2⟩ 20).speaker 5).step .ls1 = 20 ∧
    ((turned ⟨false, false, 2⟩ 20).speaker 5).knobFloor ≤ 20 ∧
    1 ≤ ((turned ⟨false, false, 2⟩ 20).speaker 5).knobFloor.val ∧
    phase false true = phase false false + 1 := by decide +kernel

theorem witness_KnobDetents_stepUp :
    (turned ⟨true, false, 3⟩ 27).offers = [] ∧
    ((turned ⟨true, false, 3⟩ 27).position 5).linkUp = true ∧
    (1 : KnobId).val < ((turned ⟨true, false, 3⟩ 27).link 5).knobCount ∧
    ((turned ⟨true, false, 3⟩ 27).position 5).knob 1 = ⟨true, false, 3⟩ ∧
    ((turned ⟨true, false, 3⟩ 27).speaker 5).step .ls1 = 27 ∧
    ((turned ⟨true, false, 3⟩ 27).speaker 5).knobFloor ≤ 27 ∧
    1 ≤ ((turned ⟨true, false, 3⟩ 27).speaker 5).knobFloor.val ∧
    phase false false = phase true false + 1 := by decide +kernel

theorem witness_KnobDetents_back :
    (turned ⟨false, false, -2⟩ 20).offers = [] ∧
    ((turned ⟨false, false, -2⟩ 20).position 5).linkUp = true ∧
    (1 : KnobId).val < ((turned ⟨false, false, -2⟩ 20).link 5).knobCount ∧
    ((turned ⟨false, false, -2⟩ 20).position 5).knob 1 = ⟨false, false, -2⟩ ∧
    ((turned ⟨false, false, -2⟩ 20).speaker 5).step .ls1 = 20 ∧
    ((turned ⟨false, false, -2⟩ 20).speaker 5).knobFloor ≤ 20 ∧
    1 ≤ ((turned ⟨false, false, -2⟩ 20).speaker 5).knobFloor.val ∧
    phase true false + 1 = phase false false := by decide +kernel

theorem witness_KnobDetents_stepDown :
    (turned ⟨false, true, -3⟩ 1).offers = [] ∧
    ((turned ⟨false, true, -3⟩ 1).position 5).linkUp = true ∧
    (1 : KnobId).val < ((turned ⟨false, true, -3⟩ 1).link 5).knobCount ∧
    ((turned ⟨false, true, -3⟩ 1).position 5).knob 1 = ⟨false, true, -3⟩ ∧
    ((turned ⟨false, true, -3⟩ 1).speaker 5).step .ls1 = 1 ∧
    ((turned ⟨false, true, -3⟩ 1).speaker 5).knobFloor ≤ 1 ∧
    1 ≤ ((turned ⟨false, true, -3⟩ 1).speaker 5).knobFloor.val ∧
    phase false false + 1 = phase false true := by decide +kernel

theorem witness_KnobDetents_invalid :
    (turned ⟨false, false, 1⟩ 20).offers = [] ∧
    ((turned ⟨false, false, 1⟩ 20).position 5).linkUp = true ∧
    (1 : KnobId).val < ((turned ⟨false, false, 1⟩ 20).link 5).knobCount ∧
    ((turned ⟨false, false, 1⟩ 20).position 5).knob 1 = ⟨false, false, 1⟩ ∧
    ((turned ⟨false, false, 1⟩ 20).speaker 5).step .ls1 = 20 ∧
    ((turned ⟨false, false, 1⟩ 20).speaker 5).knobFloor ≤ 20 ∧
    1 ≤ ((turned ⟨false, false, 1⟩ 20).speaker 5).knobFloor.val ∧
    phase true true = phase false false + 2 := by decide +kernel

theorem witness_LinkUpAttaches :
    (withS0 waitingS0).offers = [] ∧
    ((withS0 waitingS0).position 5).linkUp = true ∧
    ((withS0 waitingS0).channel 5 0).source = some (.line 12) ∧
    ((withS0 waitingS0).channel 5 0).attach = .waiting ∧
    (∀ m, m ≠ 0 → ((withS0 waitingS0).channel 5 m).attach ≠ .waiting) ∧
    ((withS0 waitingS0).line 12).state = .idle ∧
    ((withS0 waitingS0).line 12).ok := by
  refine ⟨?_, ?_, ?_, ?_, ?_, ?_, ok_of_lineOk (by decide +kernel)⟩ <;> decide +kernel

theorem witness_LinkUpAttaches_guard :
    ∀ b ∈ ([.openPolicy, .closed] : List BargePolicy),
      (guardedWaiting b).offers = [] ∧ ((guardedWaiting b).line 12).state = .guard ∧
      ((guardedWaiting b).line 12).timer = some ⟨.guard, 4000⟩ ∧ lineOk ((guardedWaiting b).line 12) = true ∧
      (guardedWaiting b).waiters 12 = [(5, 0), (5, 1)] ∧ ((guardedWaiting b).line 12).barge = b := by decide +kernel

/-- H0 of position 5 is the principal of line 12, private, with S0 waiting; the line is OPEN with one place left. -/
def privateLine : State :=
  holding ⟨.line 12, 0⟩ 3
    ((with12 { active (mine :: seven.take 6) with barge := .openPolicy, privacy := true }).setChannel 5 0 waitingS0)

theorem witness_LinkUpAttaches_privacy :
    privateLine.offers = [] ∧ (privateLine.position 5).linkUp = true ∧
    privateLine.slot 5 (privateLine.selected 5) = some ⟨.line 12, 0⟩ ∧ (privateLine.line 12).ok ∧
    privateLine.attachAgree ∧ (privateLine.line 12).principal = some mine ∧ mine.position = 5 ∧
    mine.path = .handset (privateLine.selected 5) ∧ (privateLine.line 12).privacy = true ∧
    (privateLine.line 12).barge = .openPolicy ∧ 1 = 8 - (privateLine.line 12).parties.length := by
  refine ⟨?_, ?_, ?_, ok_of_lineOk (by decide +kernel), attachAgree_of (by decide +kernel) (by decide +kernel), ?_, ?_,
    ?_, ?_, ?_, ?_⟩ <;> decide +kernel

theorem witness_SamplePeriodOutputs :
    (desk.link 5).state = .up ∧
    desk.quiet = .off ∧
    (desk.link 6).state ≠ .up := by decide +kernel

theorem witness_StagingBuffer :
    (desk.stagingOf 1).page = none ∧
    (staged.stagingOf 1).page = some 20 := by decide +kernel

theorem witness_PageCommitApplies_mismatch :
    staged.offers = [] ∧
    (staged.stagingOf 0).page ≠ some 20 := by decide +kernel

theorem witness_PageCommitApplies_guarded :
    (staged.setGuard 5 (.owned 2)).offers = [] ∧
    ((staged.setGuard 5 (.owned 2)).stagingOf 1).page = some 20 ∧
    (staged.setGuard 5 (.owned 2)).guardOf (pagePosition 20) = .owned 2 ∧
    (2 : Port) ≠ 1 := by decide +kernel

theorem witness_PageCommitApplies_taken :
    staged.offers = [] ∧
    (staged.stagingOf 1).page = some 20 ∧
    staged.guardOf (pagePosition 20) = .openGuard ∧
    (staged.stagingOf 1).slots.get 2 = some (.line 50 false false true) ∧
    (staged.stagingOf 1).slots.get 3 = none := by decide +kernel

theorem witness_PositionWiped_inUse :
    staged.offers = [] ∧
    staged.bound 5 0 = true := by decide +kernel

theorem witness_PositionWiped_taken :
    ringingDesk.offers = [] ∧ (∀ k, ringingDesk.bound 5 k = false) ∧ ringingDesk.ringsAgree := by
  refine ⟨?_, ?_, ringingDesk_ringsAgree⟩ <;> decide +kernel

theorem witness_InboundFrames :
    (desk.link 5).state = .up ∧
    (training.link 5).state ≠ .up ∧
    [.hook .h0 .off, .announce 64 2, .key 0 true] =
      [.hook .h0 .off] ++ .announce 64 2 :: ([.key 0 true] : List TurretEvent) := by decide +kernel

theorem witness_AnnounceJudged :
    training.offers = [] ∧
    (training.link 5).state = .training ∧
    (training.link 5).lampQueue = [] ∧
    1 ≤ (1 : Byte).toNat ∧ (32 : Byte).toNat ≤ 32 ∧ 32 < (33 : Byte).toNat ∧ (64 : Byte).toNat ≤ 64 ∧ 64 < (65 : Byte).toNat := by decide +kernel

theorem witness_AnnounceJudged_again :
    desk.offers = [] ∧ (desk.link 5).state = .up ∧ desk.linesOk :=
  ⟨by decide +kernel, by decide +kernel, linesOk_of (by decide +kernel)⟩

theorem witness_LinkLost_up :
    desk.offers = [] ∧
    (desk.link 5).lossTimer = some 400 ∧
    (desk.link 5).state = .up := by decide +kernel

/-- Position 5 in a call of its own: its line is left in GUARD. -/
theorem witness_LinkLost_lines :
    (onLine (active [mine])).linesOk ∧ (onLine (active [mine])).slotsAgree ∧ (onLine (active [mine])).attachAgree ∧
    (∀ q n, q ≠ 5 → ((onLine (active [mine])).channel q n).attach ≠ .waiting) ∧
    ((onLine (active [mine])).line 12).parties.filter (fun x => decide (x.position ≠ 5)) = [] := by
  refine ⟨linesOk_of (by decide +kernel), slotsAgree_of (by decide +kernel) (by decide +kernel),
    attachAgree_of (by decide +kernel) (by decide +kernel), ?_, ?_⟩ <;> decide +kernel

theorem witness_LinkLost_training :
    training.offers = [] ∧
    (training.link 5).lossTimer = some 400 ∧
    (training.link 5).state = .training := by decide +kernel

theorem witness_RequestFrameDispatched_free :
    (desk.port 1).state = .idle ∧
    (desk.port 1).discard = false ∧
    catalogueArgs 4 = some 1 ∧
    catalogueArgs 30 = none := by decide +kernel

theorem witness_RequestFrameDispatched_dropped :
    (readyPort.port 1).state ≠ .idle := by decide +kernel

theorem witness_StatusShiftedOut :
    judgeTransfer [0, 1] = .malformed ∧
    judgeTransfer [0, 3, 4] = .malformed := by decide +kernel

theorem witness_ResponsesReturned_result :
    ((answeredPort false).port 1).inFlight = some ⟨9, 4, [12]⟩ ∧
    ((answeredPort false).port 1).answer = some ⟨.ok, [3]⟩ ∧
    ((answeredPort false).port 1).discard = false := by decide +kernel

theorem witness_ResponsesReturned_discarded :
    ((answeredPort true).port 1).inFlight = some ⟨9, 4, [12]⟩ ∧
    ((answeredPort true).port 1).answer = some ⟨.ok, [3]⟩ ∧
    ((answeredPort true).port 1).discard = true := by decide +kernel

theorem witness_ResponsesReturned_read :
    (readyPort.port 1).state = .ready ∧
    (readyPort.port 1).slot = some [0, 3, 9, 0, 3] ∧
    (desk.port 1).state ≠ .ready := by decide +kernel

theorem witness_PortResets :
    ([] : List Byte).length + 3 < 65536 ∧ (readyPort.port 1).state ≠ .idle ∧ (desk.port 1).state = .idle ∧
    ((answeredPort false).port 1).state = .busy := by decide +kernel

theorem witness_NoticeRequests_inFlight :
    (readingNotices.port 1).inFlight = some ⟨9, 29, [1]⟩ ∧ (1 : Byte).toNat ≤ 8 ∧ 9 ≤ (9 : Byte).toNat ∧
    (desk.port 1).inFlight = none := by decide +kernel

theorem witness_NoticeRequests :
    (63 : Byte).toNat < 64 ∧
    (8 : Byte).toNat ≤ 8 ∧
    ((noticed 4).noticeQueue 1).ageTimer = some 800 := by decide +kernel

theorem witness_NoticeIntake :
    ((noticed 31).noticeQueue 1).mask.getLsbD NoticeBody.quietOn.cls.code = true ∧
    ((noticed 31).noticeQueue 1).queue.length < 32 ∧
    32 ≤ ((noticed 32).noticeQueue 1).queue.length ∧
    (desk.noticeQueue 1).mask.getLsbD NoticeBody.quietOn.cls.code = false := by decide +kernel

/-! ### Witnesses of the invariants: a state that keeps all of them and takes a step -/

/-- Reset with QUIET about to be asserted. -/
def started : State := { State.reset with pending := [.quietAsserted] }

theorem started_line (l : LineId) : started.line l = Line.powerOn := by
  simp [started, State.line, State.reset, State.powerOn]

theorem started_position (p : PositionId) : started.position p = Position.powerOn := by
  simp [started, State.position, State.reset, State.powerOn]

theorem started_channel (p : PositionId) (n : ChannelId) : started.channel p n = Channel.powerOn := by
  simp [started, State.channel, State.speaker, State.reset, State.powerOn, Speaker.powerOn]

theorem started_slot (p : PositionId) (h : Handset) : started.slot p h = none := by
  cases h <;> simp [State.slot, started_position, Position.handset, Position.powerOn]

theorem started_entry (p : PositionId) (k : Key) : started.entry p k = ⟨.empty, none⟩ := by
  simp [started, State.entry, State.reset, State.powerOn]

theorem witness_StepKeeps_step : ∃ t, step started = .next t := ⟨_, rfl⟩

theorem witness_StepKeepsTermCount : started.termsAgree := by
  unfold State.termsAgree; decide +kernel

theorem witness_StepKeepsLines : started.linesOk := by
  intro l; rw [started_line]; exact ok_of_lineOk (by decide)

theorem witness_StepKeepsSlots : started.slotsAgree := by
  intro p h l k; simp [started_slot, started_line, Line.powerOn]

theorem witness_StepKeepsAttachStates : started.attachAgree ∧ started.attachFit := by
  refine ⟨fun p n l => ?_, fun p n => ?_⟩ <;> simp [started_channel, started_line, Line.powerOn, Channel.powerOn, attachFits]

theorem witness_StepKeepsPendingBound : started.pendingBound := by
  intro p k; simp [started_entry]

theorem witness_StepKeepsRingQueues : started.ringsAgree := by
  intro p
  simp [started_position, started_line, Position.powerOn, Line.powerOn, byClass, Position.rings]

/-- A RING entry of its line's class under the lowest ring-enabled key. -/
theorem witness_StepKeepsRingQueues_fields : ringingDesk.ringFieldsAgree := by
  unfold State.ringFieldsAgree; decide +kernel

theorem witness_StepKeepsFloors : started.groupsOk := by
  intro g
  have : started.group g = Group.powerOn := by simp [started, State.group, State.reset, State.powerOn]
  rw [this]
  constructor <;> simp [Group.powerOn, byClass]

theorem witness_StepKeepsRanges : started.knobsOk ∧ started.lampQueuesOk ∧ started.noticesOk ∧ started.portsOk ∧ started.offers = [] := by
  refine ⟨⟨fun p => ?_, fun p => ?_⟩, fun p => ?_, fun c => ?_, fun c => ?_, rfl⟩
  · have : started.speaker p = Speaker.powerOn := by simp [started, State.speaker, State.reset, State.powerOn]
    rw [this]; unfold Speaker.stepsOk; decide
  · rw [started_position]; unfold KnobState.ok; decide
  · have : started.link p = Link.powerOn := by simp [started, State.link, State.reset, State.powerOn]
    rw [this]; exact List.nodup_nil
  · have : started.noticeQueue c = NoticeQueue.powerOn := by simp [started, State.noticeQueue, State.reset, State.powerOn]
    rw [this]; constructor <;> simp [NoticeQueue.powerOn]
  · have : started.port c = PortRecord.powerOn := by simp [started, State.port, State.reset, State.powerOn]
    rw [this]; constructor <;> simp [PortRecord.powerOn]

/-- A desk with lamps: its turret is UP, its image is not stale, and its next step is a key press. -/
theorem witness_StepKeepsRanges_lamps :
    (({ ringingDesk with pending := [.keyDown 5 0] } : State).sendLamps).lampsAgree ∧
    (ringingDesk.position 5).linkUp = true ∧ (ringingDesk.lamps.get 5).stale = false ∧
    ∃ t, step ({ ringingDesk with pending := [.keyDown 5 0] } : State).sendLamps = .next t :=
  ⟨sendLamps_lampsAgree _, by decide +kernel, by decide +kernel, _, rfl⟩

/-! ### Witnesses of the remaining statements -/

theorem witness_StepRunsFront : started.pending = .quietAsserted :: [] := rfl

theorem witness_RequestFramesReadBack :
    requestBytes (.lineStatusRead 0 12) = some (3, [12]) ∧
    requestBytes (.positionConfigure 1 5 1 0 24 27 800) = some (6, [5, 1, 0, 24, 27, 3, 32]) := by decide +kernel

theorem witness_BadArgumentsRefused :
    160 ≤ (160 : Byte).toNat ∧ 32 ≤ (32 : Byte).toNat ∧ 16 ≤ (16 : Byte).toNat ∧ (1 : Byte).toNat = 1 ∧
    9 ≤ (9 : Byte).toNat ∧ (450 : Half).toNat ≠ 400 ∧ (0 : Byte).toNat = 0 ∧ 128 ≤ (128 : Byte).toNat ∧
    (6 : Byte).toNat = 6 ∧ 2 ≤ (2 : Half).toNat ∧ 64 ≤ (64 : Byte).toNat ∧ (desk.port 1).inFlight = none ∧
    ((desk.setPosition 5 { desk.position 5 with layout := .keys32 }).position 5).layout.keyCount ≤ (32 : Byte).toNat := by
  decide +kernel

theorem witness_ReadsChangeNothing :
    (desk.setGuard 5 (.ownedPrivate 2)).guardOf 5 = .ownedPrivate 2 ∧ (2 : Port) ≠ 1 ∧
    (desk.entry 5 0).content = .line 12 true true true ∧ (desk.entry 5 1).content = .group 3 ∧
    (desk.entry 5 2).content = .empty ∧
    (desk.setEntry 5 0 ⟨.line 12 true true true, some (.group 4)⟩).entry 5 0 =
      ⟨.line 12 true true true, some (.group 4)⟩ := by decide +kernel

theorem witness_QuietStates :
    { desk with quiet := Quiet.holding }.quiet = .holding ∧ { desk with quiet := Quiet.on }.quiet = .on ∧
    desk.quiet = .off := by decide +kernel

theorem witness_ScalingRounds : (-32768 : Int) ≤ 32767 ∧ (0 : Int) ≤ 32767 ∧ (24 : Step) < 25 := by decide

theorem witness_ReadAndClear : (with12 { Line.powerOn with missed := 15 }).offers = [] := by decide +kernel

theorem witness_GuardSetMoves :
    (3 : Byte).toNat < 4 ∧ 4 ≤ (4 : Byte).toNat ∧ desk.guardOf 5 = .openGuard ∧
    (desk.setGuard 5 (.owned 1)).guardOf 5 = .owned 1 ∧
    (desk.setGuard 5 (.ownedPrivate 1)).guardOf 5 = .ownedPrivate 1 := by decide +kernel

theorem witness_GuardOnlyTightens_leaves :
    desk.guardOf 5 = .openGuard ∧
    (after (.guardSet 1 5 1) desk).map (fun t => t.guardOf 5) = some (.owned 1) := by decide +kernel

theorem witness_GuardOnlyTightens_returns :
    (desk.setGuard 5 .sealed).guardOf 5 ≠ .openGuard ∧
    (after (.positionWipe 1 5 true) (desk.setGuard 5 .sealed)).map (fun t => t.guardOf 5) = some .openGuard := by
  decide +kernel

theorem witness_ParameterSet_rounds :
    (0, 100, 2000, 100) ∈ [(0, 100, 2000, 100), (1, 200, 5000, 100), (2, 1, 30, 1), (3, 1, 8, 1), (4, 10, 600, 10),
      (5, 10, 600, 10)] ∧
    ¬(250 : Half).toNat < 100 ∧ ¬2000 < (250 : Half).toNat ∧ 200 ≤ (250 : Half).toNat ∧
    (250 : Half).toNat < 200 + 100 ∧ 200 % 100 = 0 := by decide +kernel

theorem witness_ParameterSet_clamps :
    (4, 10, 600, 10) ∈ [(0, 100, 2000, 100), (1, 200, 5000, 100), (2, 1, 30, 1), (3, 1, 8, 1), (4, 10, 600, 10),
      (5, 10, 600, 10)] ∧
    (5 : Half).toNat < 10 ∧ (0 : Half).toNat = 0 ∧ 600 < (615 : Half).toNat ∧ (1 : Half).toNat < 2 := by decide +kernel

/-! ### Well-formedness: each check refuses an ill-formed term -/

theorem test_wf_requestFrame :
    Instr.wf (.requestFrame 0 [0, 3, 7, 3, 12]) = true ∧ Instr.wf (.requestFrame 0 [0, 0]) = false := by decide

theorem test_wf_malformedFrame :
    Instr.wf (.malformedFrame 0 [0, 1]) = true ∧ Instr.wf (.malformedFrame 0 [0, 3, 7, 3, 12]) = false := by decide

theorem test_wf_statusPoll :
    Instr.wf (.statusPoll 0 [9]) = true ∧ Instr.wf (.statusPoll 0 [0, 0]) = false := by decide

theorem test_wf_pureRead :
    Instr.wf (.pureRead 0 [0, 0, 5]) = true ∧ Instr.wf (.pureRead 0 [0, 3, 7, 3, 12]) = false := by decide

theorem test_wf_turretFrame :
    Instr.wf (.turretFrame 0 (.valid 0 0 0 [.announce 64 2, .hook .h0 .off])) = true ∧
    Instr.wf (.turretFrame 0 (.valid 0 0 0 [.unknown, .unknown, .unknown])) = false := by decide

/-! ### Reading bits: transfers (R164), the catalogue (R173), words -/

/-- The rows of R164's table. -/
theorem test_transfers :
    judgeTransfer [] = .statusPoll ∧ judgeTransfer [255] = .statusPoll ∧ judgeTransfer [0, 0, 1, 2] = .pureRead ∧
    judgeTransfer [0, 1, 5] = .malformed ∧ judgeTransfer [0, 6, 1, 2, 3] = .malformed ∧
    judgeTransfer [0, 3, 7, 3, 12] = .request 7 3 [12] ∧
    judgeTransfer [0, 2, 9, 25, 77] = .request 9 25 [] := by decide

/-- SET PARAMETER 0 to 250 ms, high byte first; request 30 and a missing argument are none. -/
theorem test_catalogue :
    requestCommand 1 7 false 26 [0, 0, 250] = some (.setParameter 1 0 250) ∧
    requestCommand 1 7 true 24 [5] = some (.positionWipe 1 5 true) ∧ requestCommand 1 7 false 30 [] = none ∧
    requestCommand 1 7 false 3 [] = none := by decide

theorem test_no_word : decodeTableWord 0 0 = none := rfl

/-! ### Worked figures and sequences of the manual, one step each -/

/-- The state with port C0 subscribed to every class. -/
def heard (s : State) : State := s.setNoticeQueue 0 { NoticeQueue.powerOn with mask := 0x3f }

/-- The notices C0 has been told, oldest first. -/
def told (s : State) : List NoticeBody := (s.noticeQueue 0).queue.map Notice.body

/-- The answer that waits at port C1. -/
def said (s : State) : Option Answer := (s.port 1).answer

/-- The table of R116, with the figures of the knob in A QUIET episode. -/
theorem test_scaling :
    [scale 1 20, scale 3 20, scale (-3) 20, scale (-1) 20, scale 5 1, scale 9000 26, scale 12000 24, scale 32767 27,
      scale (-32768) 27, scale 8000 20, scale 8000 21] =
    [1, 2, -2, -1, 0, 12729, 12000, 55110, -55112, 4000, 4756] := by decide +kernel

/-- Worked figures, a clamp: one channel at 30000 with step 26, LS0 at 27: 42429 scales to 71360 and clamps, with CLIP. -/
theorem test_samplePeriod_clips :
    let s := (withS0 { attachedS0 with level := 26 }).setSpeaker 5
      { (withS0 { attachedS0 with level := 26 }).speaker 5 with step0 := 27 }
    (after .samplePeriod (heard { s with highway := s.highway.set 12 ⟨⟨false, false, false⟩, 30000, []⟩ })).map
        (fun t => ((t.turretOut.get 5).samples.ls0, told t)) = some (32767, [.clipPosition 5 .ls0]) := by decide +kernel

/-- The outbound nibble of a seized and ringing line: SZ and RG on, its other two positions driven off (R158, R161). -/
theorem test_samplePeriod_nibble :
    (after .samplePeriod (onLine calling)).map (fun t => t.highwayOut.get 12) = some ⟨true, true, false, false, 0⟩ := by
  decide +kernel

/-- A QUIET episode: while QUIET is asserted, LS0 is sent as 0. -/
theorem test_samplePeriod_quiet :
    (after .samplePeriod { withS0 attachedS0 with
      quiet := .on, highway := desk.highway.set 12 ⟨⟨false, false, false⟩, 8000, []⟩ }).map
        (fun t => ((t.turretOut.get 5).samples.ls0, t.clock)) = some (0, 1) := by decide +kernel

/-- A ring answered: the lift takes line 12 into H0 with three terms more; the line goes ACTIVE. -/
theorem test_hookOff_answers :
    (after (.hookOff 5 .h0) (heard ringingDesk)).map
        (fun t => ((t.line 12).state, (t.line 12).parties, (t.position 5).ringQueue, t.termCount, told t)) =
      some (.active, [⟨5, .handset .h0, some 0, true, true, .key⟩], [], 36, [.lineState 12 .ringing .active]) := by
  decide +kernel

/-- The lamps of the same event: GREEN_STEADY on key 0, RED_STEADY for a position without a part. -/
theorem test_hookOff_lamps :
    (after (.hookOff 5 .h0) (ringingDesk.setEntry 9 2 ⟨.line 12 true true true, none⟩)).map
        (fun t => (t.derivedCode 5 0, t.derivedCode 9 2, t.derivedCode 5 3)) =
      some (.greenSteady, .redSteady, .off) := by decide +kernel

/-- A hold that recalls: HOLD empties the slot and lowers the term count by 3. -/
theorem test_hold :
    (after (.hold 5) (heard (onLine (active [mine])))).map
        (fun t => ((t.line 12).state, (t.line 12).holdOwner, t.slot 5 .h0, t.termCount, told t)) =
      some (.held, some ⟨5, 0⟩, none, 33, [.lineState 12 .active .held]) := by decide +kernel

/-- HOLD expiry: RECALL, with the recall in the owner's queue and the limit 120 s later. -/
theorem test_holdExpiry :
    (after (.holdExpiry 12) (heard (with12 held))).map
        (fun t => ((t.line 12).state, (t.line 12).timer, (t.position 5).ringQueue, told t)) =
      some (.recall, some ⟨.recall, 480000 + 960000⟩, [⟨12, 0, .recall, .normal⟩],
        [.lineState 12 .held .recall, .lineRecall 12 (some ⟨5, 0⟩)]) := by decide +kernel

/-- R183: at RECALL expiry the binding report comes before entry to GUARD. -/
theorem test_recallExpiry_order :
    (after (.recallExpiry 12) (heard (recallDesk.setEntry 5 0 ⟨.line 12 true true true, some (.group 4)⟩))).map
        (fun t => (told t, (t.entry 5 0).content)) =
      some ([.directoryApplied 5 0 .group, .lineState 12 .recall .guard, .holdAbandoned 12 (some ⟨5, 0⟩)], .group 4) := by
  decide +kernel

/-- R183: at RELEASE of the last party the leave comes before the binding report. -/
theorem test_release_order :
    (after (.release 5) (heard ((onLine (active [mine])).setEntry 5 0 ⟨.line 12 true true true, some .empty⟩))).map
        told = some [.lineState 12 .active .guard, .directoryApplied 5 0 .empty] := by decide +kernel

/-- The table of R39: a line key over line 20 holds it under HOLD, which keeps the key bound, and leaves it to GUARD under
RELEASE, whose binding report then installs the replacement. -/
theorem test_keyDown_switchAway :
    [SwitchAway.hold, .release].map (fun sw => (after (.keyDown 5 0) (heard (on20 sw))).map fun t =>
        (told t, (t.entry 5 3).content, t.slot 5 .h0, t.termCount)) =
      [some ([.lineState 12 .idle .calling, .lineState 20 .active .held],
          .line 20 false false false, some ⟨.line 12, 0⟩, 36),
        some ([.lineState 12 .idle .calling, .lineState 20 .active .guard, .directoryApplied 5 3 .group],
          .group 4, some ⟨.line 12, 0⟩, 36)] := by decide +kernel

/-- R47: HOOK ON of a handset that talks in a group: the floor passes to the queue's head, and 2 terms are returned. -/
theorem test_hookOn_group :
    (after (.hookOn 5 .h0) (heard (offHook onGroup))).map
        (fun t => (told t, (t.group 3).talkers, t.slot 5 .h0, t.hook 5 .h0, t.termCount)) =
      some ([.floorGrant 3 9 (.handset .h1) true, .directoryApplied 5 1 .empty], [⟨9, .handset .h1, some 240000⟩], none,
        .on, 33) := by decide +kernel

/-- R183: LINK_DOWN is handed last; the slot is empty, the hook ON and the link DOWN. -/
theorem test_lossTimerExpiry :
    (after (.lossTimerExpiry 5) (heard (offHook (onLine (active [mine]))))).map
        (fun t => (told t, t.hook 5 .h0, (t.link 5).state, t.termCount)) =
      some ([.lineState 12 .active .guard, .linkDown 5 .timeout], .on, .down, 33) := by decide +kernel

/-- R183: the grant to the head comes first in a MEMBER REMOVE; the slot that held the group is emptied. -/
theorem test_memberRemove :
    (after (.memberRemove 1 3 5) (heard (holding ⟨.group 3, 1⟩ 2 (talking [⟨9, .channel 2, .normal⟩])))).map
        (fun t => (told t, t.slot 5 .h0, said t)) =
      some ([.floorGrant 3 9 (.channel 2) true], none, some ⟨.ok, [0]⟩) := by decide +kernel

/-- A floor contest: FLOOR_TIMEOUT, then FLOOR_GRANT from the queue, and must-release on the held channel. -/
theorem test_floorTimerExpiry :
    (after (.floorTimerExpiry 3 5) (heard (talking [⟨9, .handset .h0, .priority⟩]))).map
        (fun t => (told t, (t.group 3).talkers, (t.channel 5 0).mustRelease)) =
      some ([.floorTimeout 3 5 (.channel 0), .floorGrant 3 9 (.handset .h0) true],
        [⟨9, .handset .h0, some (500 + 240000)⟩], true) := by decide +kernel

/-- A PRIORITY request stands ahead of every waiting NORMAL entry (R83). -/
theorem test_spkTalkDown_queues :
    (after (.spkTalkDown 5 0)
        ((withS0 groupS0).setGroup 3 { desk.group 3 with
          members := [⟨5, .priority⟩, ⟨9, .normal⟩, ⟨11, .normal⟩], talkers := [⟨9, .channel 2, none⟩]
          waiting := [⟨11, .handset .h0, .normal⟩] })).map (fun t => (t.group 3).waiting) =
      some [⟨5, .channel 0, .priority⟩, ⟨11, .handset .h0, .normal⟩] := by decide +kernel

/-- A re-press on the line the slot holds restarts the bursts (R18, R38). -/
theorem test_keyDown_reRings :
    (after (.keyDown 5 0) (onLine { calling with rg := false, burstCount := 3, unanswered := true, timer := none })).map
        (fun t => ((t.line 12).burstCount, (t.line 12).rg, (t.line 12).unanswered, (t.line 12).timer)) =
      some (1, true, false, some ⟨.burst, 8000⟩) := by decide +kernel

/-- A key on a line CLOSED to barges shows DENY and raises KEY_DENIED with the line's result (R14, R53). -/
theorem test_keyDown_denied :
    (after (.keyDown 5 0) (heard (with12 (active [other])))).map
        (fun t => (told t, t.shownCode 5 0, t.derivedCode 5 0, t.slot 5 .h0)) =
      some ([.keyDenied 5 (some 0) .deniedClosed .turret], .deny, .redSteady, none) := by decide +kernel

/-- An injected key carries joined-by INJECT and talks only off-hook (R36). -/
theorem test_keyInject :
    (after (.keyInject 1 5 0 0 255 1) desk).map (fun t => ((t.line 12).parties, (t.line 12).state, said t)) =
      some ([⟨5, .handset .h0, some 0, true, false, .inject⟩], .calling, some ⟨.ok, []⟩) := by decide +kernel

/-- The end of a burst series: LINE_UNANSWERED (3). -/
theorem test_answerWaitExpiry :
    (after (.answerWaitExpiry 12)
        (heard (onLine { calling with rg := false, burstCount := 3, timer := some ⟨.answerWait, 32000⟩ }))).map
        (fun t => ((t.line 12).state, (t.line 12).unanswered, (t.line 12).timer, told t)) =
      some (.calling, true, none, [.lineUnanswered 12 3]) := by decide +kernel

/-- The missed count stays at 15 once it is 15 (R25). -/
theorem test_signalChange_missed :
    (after (.signalChange 12 ⟨false, false, false⟩) (heard (with12 { ringing with missed := 15 }))).map
        (fun t => ((t.line 12).state, (t.line 12).missed, told t)) =
      some (.idle, 15, [.lineState 12 .ringing .idle, .lineMissed 12 15]) := by decide +kernel

/-- FL and RD in one event on a CALLING line: ACTIVE by FL, then FAR_SIGNAL (R26). -/
theorem test_signalChange_both :
    (after (.signalChange 12 ⟨true, true, false⟩) (heard (onLine calling))).map told =
      some [.lineState 12 .calling .active, .farSignal 12 true] := by decide +kernel

/-- The highway at power-on: a timeslot without a card gives LF on; an equipped one with RD on gives RD on. -/
theorem test_highwayFrame :
    (after (.highwayFrame ((Table.fill 160 ⟨0, ⟨false, false, false⟩, true⟩).set 0 ⟨7, ⟨true, false, false⟩, true⟩ |>.set 1
        ⟨7, ⟨true, false, false⟩, false⟩)) State.reset).map
        (fun t => ((t.highway.get 0).handed, (t.highway.get 1).handed, (t.highway.get 2).handed, (t.highway.get 1).far)) =
      some ([⟨true, false, false⟩], [⟨false, false, true⟩], [], 0) := by decide +kernel

/-- A turret that restarts: key count 24 is a 32-key layout with 40 updates, and key count 0 is refused. -/
theorem test_announce :
    (after (.announce 5 24 2) (heard training)).map
        (fun t => ((t.link 5).lampQueue.length, (t.position 5).layout, told t)) =
      some (40, .keys32, [.linkUp 5 .keys32 2]) ∧
    (after (.announce 5 0 2) (heard training)).map (fun t => ((t.link 5).state, told t)) =
      some (.training, [.linkReject 5 0]) := by decide +kernel

/-- A frame that carries a re-announce: the loss first, the link UP again, and the frame's samples used in the period
(R151, R152, R155). -/
theorem test_announce_again :
    (after (.announce 5 32 1)
        (heard (desk.setLink 5 { desk.link 5 with mics := ⟨7, 8, 9⟩, delivered := [.announce 32 1] }))).map
        (fun t => (told t, t.handsetMic 5 .h0, (t.link 5).lossTimer)) =
      some ([.linkDown 5 .reannounce, .linkUp 5 .keys32 1], 7, some 400) := by decide +kernel

/-- A knob at its limits: the fourth detent takes LS1 to 27; a back detent that reaches -4 at the floor holds. -/
theorem test_knob :
    (after (.knob 5 1 false false) (heard (turned ⟨true, false, 3⟩ 26))).map
        (fun t => ((t.speaker 5).step .ls1, (t.position 5).knob 1, told t)) =
      some (27, ⟨false, false, 0⟩, [.knob 5 .ls1 27]) ∧
    (after (.knob 5 1 false true) (heard (turned ⟨true, true, -3⟩ 1))).map
        (fun t => ((t.speaker 5).step .ls1, (t.position 5).knob 1, told t)) =
      some (1, ⟨false, true, 0⟩, []) := by decide +kernel

/-- The cadence of a NORMAL head: after an on-phase of 1 s an off-phase of 2 s. -/
theorem test_cadenceTimerExpiry :
    (after (.cadenceTimerExpiry 5) ringingDesk).map
        (fun t => ((t.position 5).ringerCondition, (t.position 5).ringer.cadence)) =
      some (.off, some ⟨false, 24000⟩) := by decide +kernel

/-- A QUIET episode: deasserted with QUIET_AUTORESUME off; a resume while QUIET is asserted. -/
theorem test_quietDeasserted :
    (after .quietDeasserted (heard { State.reset with quiet := .on, quietPin := true })).map
        (fun t => (t.quiet, told t)) = some (.holding, [.quietOff .holding]) := by decide +kernel

theorem test_speakersResume :
    (after (.speakersResume 1) { State.reset with quiet := .on }).map (fun t => (t.quiet, said t)) =
      some (.on, some ⟨.quietAsserted, []⟩) := by decide +kernel

/-- The examples of R170. -/
theorem test_setParameter :
    [(0, (250 : Half)), (0, 40), (4, 5), (4, 615), (5, 0)].map
        (fun x => (after (.setParameter 1 x.1 x.2) State.reset).bind said) =
      [some ⟨.clamped, [0, 0, 200]⟩, some ⟨.clamped, [0, 0, 100]⟩, some ⟨.clamped, [4, 0, 10]⟩,
        some ⟨.clamped, [4, 2, 88]⟩, some ⟨.ok, [5, 0, 0]⟩] := by decide +kernel

/-- The tables of R77 and R96. -/
theorem test_groupDefine :
    (after (.groupDefine 1 4 8 3) State.reset).map (fun t => (said t, (t.group 4).floorLimit, t.termCount)) =
      some (some ⟨.clamped, [5]⟩, 5, 40) := by decide +kernel

theorem test_planSet :
    (after (.planSet 1 5 0 1 12 28 1 1) desk).map (fun t => (said t, (t.speaker 5).plan.get 0)) =
      some (some ⟨.clamped, [27]⟩, ⟨some (.line 12), 27, .ls1, true⟩) := by decide +kernel

/-- MIX APPLY refused at the budget: a count of 767 takes no increase of 2. -/
theorem test_mixApply :
    (after (.mixApply 1 5) { planned with termCount := 767 }).map
        (fun t => (said t, t.termCount, (t.channel 5 0).source)) = some (some ⟨.mixFull, []⟩, 767, none) ∧
    (after (.mixApply 1 5) planned).map
        (fun t => (t.termCount, (t.channel 5 0).attach, (t.channel 5 1).attach, (t.line 12).state)) =
      some (37, .attached, .listening, .active) := by decide +kernel

/-- A page committed against a live desk: key 0 is bound and waits, key 2 is replaced at once, key 3 is left. -/
theorem test_pageCommit :
    (after (.pageCommit 1 20) staged).map (fun t => (said t, t.entry 5 0, t.entry 5 2, t.entry 5 3)) =
      some (some ⟨.ok, [1, 1, 0]⟩, ⟨.line 12 true true true, some (.line 44 true true true)⟩,
        ⟨.line 50 false false true, none⟩, ⟨.line 20 false false false, none⟩) := by decide +kernel

/-- The guard of one desk: a port that is not the owner reads the kind and the attributes, and the target withheld. -/
theorem test_entryRead :
    (after (.entryRead 1 5 0) (desk.setGuard 5 (.ownedPrivate 3))).bind said = some ⟨.ok, [1, 255, 7, 0, 0, 2, 3]⟩ := by
  decide +kernel

/-- POSITION WIPE is refused while MNT is deasserted, under every guard, and counts the entries that were not EMPTY. -/
theorem test_positionWipe :
    (after (.positionWipe 1 5 false) (desk.setGuard 5 .sealed)).bind said = some ⟨.notPermitted, []⟩ ∧
    (after (.positionWipe 1 5 true) (desk.setGuard 5 .sealed)).bind said = some ⟨.ok, [3]⟩ := by decide +kernel

/-- One port through a busy moment: LINE STATUS READ of line 12 under tag 7 makes the port BUSY. -/
theorem test_requestFrame :
    (after (.requestFrame 1 [0, 3, 7, 3, 12]) State.reset).map
        (fun t => ((t.port 1).state, (t.port 1).inFlight, (t.port 1).dataOut)) =
      some (.busy, some ⟨7, 3, [12]⟩, [0, 0, 0, 0, 0]) := by decide +kernel

/-- A pure read of five bytes from read position 0 leaves the position at 3; the next one to the end empties the slot. -/
theorem test_pureRead :
    (after (.pureRead 1 [0, 0, 0, 0]) readyPort).map (fun t => ((t.port 1).state, (t.port 1).dataOut)) =
      some (.ready, [9, 0, 9, 0]) ∧
    (after (.pureRead 1 [0, 0, 0, 0, 0, 0]) readyPort).map (fun t => ((t.port 1).state, (t.port 1).slot, (t.port 1).dataOut)) =
      some (.idle, none, [9, 0, 9, 0, 3, 0]) := by decide +kernel

/-- PORT RESET in BUSY: its own response, the discard mark on. -/
theorem test_portReset :
    (after (.portReset 1 9) (answeredPort false)).map
        (fun t => ((t.port 1).state, (t.port 1).slot, (t.port 1).discard)) =
      some (.ready, some [0, 2, 9, 0], true) := by decide +kernel

/-- Notice overflow: the 31st and 32nd are taken, and the next is discarded with the lost mark. -/
theorem test_notices_overflow :
    (after (.signalChange 12 ⟨false, false, false⟩)
        ((with12 ringing).setNoticeQueue 0
          { NoticeQueue.powerOn with mask := 3, queue := List.replicate 31 ⟨.quietOn, false⟩ })).map
        (fun t => ((t.noticeQueue 0).queue.length, (t.noticeQueue 0).lostMark)) = some (32, true) := by decide +kernel

/-- NOTICE READ 1 of a full queue with the lost mark: one QUIET_ON, 31 left, the mark reported and kept. -/
theorem test_noticeRead :
    (after (.noticeRead 1 1) ((noticed 32).setNoticeQueue 1 { (noticed 32).noticeQueue 1 with lostMark := true })).map
        (fun t => (said t, (t.noticeQueue 1).lostMark)) =
      some (some ⟨.ok, [1, 17, 5, 255, 255, 255, 255, 0, 0, 0, 31, 1]⟩, true) := by decide +kernel

/-- NOTICE READ 1 in flight at a threshold of 4 with 4 notices: 3 are left, and ATTN is kept by the port's READY (R182). -/
theorem test_noticeRead_attn :
    readingNotices.attn 1 = true ∧
    (after (.noticeRead 1 1) readingNotices).map
        (fun t => ((t.port 1).state, (t.noticeQueue 1).queue.length, t.attn 1, (t.port 1).slot)) =
      some (.ready, 3, true, some [0, 14, 9, 0, 1, 17, 5, 255, 255, 255, 255, 0, 0, 0, 3, 0]) := by decide +kernel

end Sys2Proof.Tests
end

section
/-! PROOFS. Scaling by a level step (R115, R116). -/

namespace Sys2Proof.Machine

/-! ### The level ladder and rounding -/

/-- Every multiplier of the ladder is at least 0 and at most 6889. -/
theorem ladder_bounds (s : Step) : 0 ≤ ladder s ∧ ladder s ≤ 6889 := by
  decide +revert

theorem ladder_of_gt_24 {s : Step} (h : 24 < s) : 4871 ≤ ladder s := by
  decide +revert

theorem roundQuotient_neg (n : Int) : roundQuotient (-n) = -roundQuotient n := by
  unfold roundQuotient
  split <;> split <;> omega

/-- The rounded quotient lies within half of the divisor of the exact one. -/
theorem roundQuotient_near (n : Int) :
    2 * (roundQuotient n * 4096 - n) ≤ 4096 ∧ 2 * (n - roundQuotient n * 4096) ≤ 4096 := by
  unfold roundQuotient
  split <;> omega

/-- From 0 on a tie goes up, away from zero. -/
theorem roundQuotient_tie {n : Int} (h : 0 ≤ n) : n - roundQuotient n * 4096 < 2048 := by
  simp only [roundQuotient, h, if_true]
  omega

theorem roundQuotient_mul (x : Int) : roundQuotient (x * 4096) = x := by
  unfold roundQuotient
  split <;> omega

/-! ### Scaling -/

theorem scale_neg (x : Int) (s : Step) : scale (-x) s = -scale x s := by
  rw [scale, Int.neg_mul, roundQuotient_neg, scale]

/-- A sample stays within 55112, which is 32768 * 6889 / 4096. -/
theorem scale_sample_bounds {x : Int} (s : Step) (lo : -32768 ≤ x) (hi : x ≤ 32767) :
    -55112 ≤ scale x s ∧ scale x s ≤ 55112 := by
  obtain ⟨ladder_nonneg, ladder_le⟩ := ladder_bounds s
  have product_ge : -32768 * 6889 ≤ x * ladder s := by nlinarith
  have product_le : x * ladder s ≤ 32768 * 6889 := by nlinarith
  have near := roundQuotient_near (x * ladder s)
  unfold scale
  omega

/-- Above step 24 a full-scale sample leaves the sample range on either side. -/
theorem scale_full_above_24 {s : Step} (h : 24 < s) : 32767 < scale 32767 s ∧ scale (-32768) s < -32768 := by
  have above := ladder_of_gt_24 h
  have near_max := roundQuotient_near (32767 * ladder s)
  have near_min := roundQuotient_near (-32768 * ladder s)
  unfold scale
  omega

/-- Settles O43: each clause is a fact about `roundQuotient` at the product with the step's multiplier. -/
theorem scalingRounds : Obligations.ScalingRounds := by
  intro x s
  obtain ⟨not_above, not_below⟩ := roundQuotient_near (x * ladder s)
  refine ⟨scale_neg x s, not_above, not_below, fun hx => ?_, ?_, ?_, scale_sample_bounds s, scale_full_above_24⟩
  · exact roundQuotient_tie (Int.mul_nonneg hx (ladder_bounds s).1)
  · simp [scale, ladder, roundQuotient]
  · exact roundQuotient_mul x

end Sys2Proof.Machine
end

section
/-! PROOFS. The term ledger: the count, and of every slot, channel and group the terms it reserves (R124). Most
operations leave the ledger as it was; the others change one entry and the count with it. -/

namespace Sys2Proof.Machine

/-! ### The ledger and what it owes -/

/-- All that the agreement of the term count with the configuration reads of a state (R124). -/
@[ext] structure TermLedger where
  count : Nat
  slot : PositionId → Handset → Nat
  channel : PositionId → ChannelId → Nat
  group : GroupId → Nat

/-- The terms of one live channel (R124). -/
def Channel.terms (x : Channel) : Nat := channelTerms x.source x.talkback

/-- The terms of one channel plan (R98). -/
def ChannelPlan.terms (x : ChannelPlan) : Nat := channelTerms x.source x.talkback

/-- The ledger of a state. -/
def State.ledger (s : State) : TermLedger where
  count := s.termCount
  slot p h := slotCost (s.slot p h)
  channel p n := (s.channel p n).terms
  group g := (s.group g).terms

theorem ledger_count (s : State) : s.ledger.count = s.termCount := rfl

/-- The terms that a ledger owes, the ringers' included (R124). -/
def TermLedger.owed (b : TermLedger) : Nat :=
  Config.ringerTerms + ∑ p, (b.slot p .h0 + b.slot p .h1) + ∑ p, ∑ n, b.channel p n + ∑ g, b.group g

/-- The count is what is owed, and within the budget (R124). -/
def TermLedger.balanced (b : TermLedger) : Prop := b.count = b.owed ∧ b.count ≤ Config.termBudget

theorem table_sum_items {n : Nat} {α : Type} (t : Table n α) (f : α → Nat) :
    (t.items.map f).sum = ∑ i, f (t.get i) := by
  rw [t.items_eq_ofFn, List.map_ofFn, List.sum_ofFn]
  rfl

theorem Speaker.liveTerms_eq (x : Speaker) : x.liveTerms = ∑ n, (x.channels.get n).terms :=
  table_sum_items x.channels Channel.terms

theorem Speaker.planTerms_eq (x : Speaker) : x.planTerms = ∑ n, (x.plan.get n).terms :=
  table_sum_items x.plan ChannelPlan.terms

theorem termsOwed_eq (s : State) : s.termsOwed = s.ledger.owed := by
  simp only [State.termsOwed, table_sum_items, Speaker.liveTerms_eq]
  rfl

theorem termsAgree_iff (s : State) : s.termsAgree ↔ s.ledger.balanced := by
  rw [State.termsAgree, termsOwed_eq, TermLedger.balanced]
  rfl

/-! ### Changing one entry -/

/-- Two families that agree but at `i` have sums that differ by their values there. -/
theorem sum_add_of_eq_elsewhere {ι : Type} [Fintype ι] [DecidableEq ι] {f f' : ι → Nat} (i : ι)
    (h : ∀ j, j ≠ i → f' j = f j) : ∑ j, f' j + f i = ∑ j, f j + f' i := by
  have rest : ∑ j ∈ Finset.univ.erase i, f' j = ∑ j ∈ Finset.univ.erase i, f j :=
    Finset.sum_congr rfl fun j hj => h j (Finset.ne_of_mem_erase hj)
  rw [← Finset.sum_erase_add _ f' (Finset.mem_univ i), ← Finset.sum_erase_add _ f (Finset.mem_univ i), rest]
  omega

/-- The ledger with another cost for slot `h` of `p`. -/
def TermLedger.withSlot (b : TermLedger) (p : PositionId) (h : Handset) (c : Nat) : TermLedger :=
  { b with slot := fun q g => if q = p ∧ g = h then c else b.slot q g }

/-- The ledger with other terms for the channels of `p`. -/
def TermLedger.withChannels (b : TermLedger) (p : PositionId) (f : ChannelId → Nat) : TermLedger :=
  { b with channel := fun q m => if q = p then f m else b.channel q m }

/-- The ledger with other terms for group `g`. -/
def TermLedger.withGroup (b : TermLedger) (g : GroupId) (c : Nat) : TermLedger :=
  { b with group := fun g' => if g' = g then c else b.group g' }

theorem owed_withSlot (b : TermLedger) (p : PositionId) (h : Handset) (c : Nat) :
    (b.withSlot p h c).owed + b.slot p h = b.owed + c := by
  have sums := sum_add_of_eq_elsewhere p
    (f := fun q => b.slot q .h0 + b.slot q .h1)
    (f' := fun q => (b.withSlot p h c).slot q .h0 + (b.withSlot p h c).slot q .h1)
    (fun q hq => by simp [TermLedger.withSlot, hq])
  have here : (b.withSlot p h c).slot p .h0 + (b.withSlot p h c).slot p .h1 + b.slot p h =
      b.slot p .h0 + b.slot p .h1 + c := by
    cases h <;> simp [TermLedger.withSlot] <;> omega
  have others : (b.withSlot p h c).channel = b.channel ∧ (b.withSlot p h c).group = b.group := ⟨rfl, rfl⟩
  simp only [TermLedger.owed, others]
  omega

theorem owed_withChannels (b : TermLedger) (p : PositionId) (f : ChannelId → Nat) :
    (b.withChannels p f).owed + ∑ n, b.channel p n = b.owed + ∑ n, f n := by
  have sums := sum_add_of_eq_elsewhere p
    (f := fun q => ∑ n, b.channel q n) (f' := fun q => ∑ n, (b.withChannels p f).channel q n)
    (fun q hq => by simp [TermLedger.withChannels, hq])
  have here : ∑ n, (b.withChannels p f).channel p n = ∑ n, f n := by simp [TermLedger.withChannels]
  have others : (b.withChannels p f).slot = b.slot ∧ (b.withChannels p f).group = b.group := ⟨rfl, rfl⟩
  simp only [TermLedger.owed, others]
  omega

theorem owed_withGroup (b : TermLedger) (g : GroupId) (c : Nat) :
    (b.withGroup g c).owed + b.group g = b.owed + c := by
  have sums := sum_add_of_eq_elsewhere g (f := b.group) (f' := (b.withGroup g c).group)
    (fun q hq => by simp [TermLedger.withGroup, hq])
  have here : (b.withGroup g c).group g = c := by simp [TermLedger.withGroup]
  have others : (b.withGroup g c).slot = b.slot ∧ (b.withGroup g c).channel = b.channel := ⟨rfl, rfl⟩
  simp only [TermLedger.owed, others]
  omega

/-- A change of what is owed from `old` to `new` that the Mixing Engine admits, with the count following it, keeps the
balance (R125). -/
theorem balanced_of_admits {s : State} {b : TermLedger} {old new : Nat} (hs : s.ledger.balanced)
    (admitted : s.admits old new = true) (owed : b.owed + old = s.ledger.owed + new)
    (count : b.count = s.termCount + new - old) : b.balanced := by
  obtain ⟨agree, within⟩ := hs
  rw [ledger_count] at agree within
  simp only [State.admits, Bool.or_eq_true, decide_eq_true_eq] at admitted
  constructor <;> omega

theorem admits_congr {s t : State} (h : t.ledger = s.ledger) : t.admits = s.admits := by
  funext old new
  rw [State.admits, State.admits, ← ledger_count, ← ledger_count, h]

/-- Giving terms back needs no judgement (R125). -/
theorem admits_release (s : State) (old : Nat) : s.admits old 0 = true := by
  simp [State.admits]

/-! ### Reading a frame as a ledger -/

/-- A change that leaves the speakers, the groups and the count as they were, and of the positions changes only ring
queues and ringers, keeps the ledger. -/
theorem ledger_of_rings {ch : List Part} {s t : State} (rings : OnlyRings s t) (frame : SameExcept ch s t)
    (speakers : Part.speakers ∉ ch := by decide) (groups : Part.groups ∉ ch := by decide)
    (count : Part.termCount ∉ ch := by decide) : t.ledger = s.ledger := by
  have same_speakers : t.speakers = s.speakers := frame .speakers speakers
  have same_groups : t.groups = s.groups := frame .groups groups
  have same_count : t.termCount = s.termCount := frame .termCount count
  simp only [State.ledger, rings.slot, State.channel, State.speaker, State.group, same_speakers, same_groups,
    same_count]

/-- A change that leaves the positions, the speakers, the groups and the count as they were keeps the ledger. -/
theorem ledger_of_frame {ch : List Part} {s t : State} (frame : SameExcept ch s t)
    (positions : Part.positions ∉ ch := by decide) (speakers : Part.speakers ∉ ch := by decide)
    (groups : Part.groups ∉ ch := by decide) (count : Part.termCount ∉ ch := by decide) : t.ledger = s.ledger :=
  ledger_of_rings (OnlyRings.of_positions (frame .positions positions)) frame speakers groups count

theorem ledger_foldl {α : Type} {f : State → α → State} (h : ∀ s a, (f s a).ledger = s.ledger) (xs : List α)
    (s : State) : (xs.foldl f s).ledger = s.ledger := by
  induction xs generalizing s with
  | nil => rfl
  | cons x xs ih => rw [List.foldl_cons, ih, h]

theorem balanced_foldl {α : Type} {f : State → α → State}
    (h : ∀ s a, s.ledger.balanced → (f s a).ledger.balanced) (xs : List α) {s : State} (hs : s.ledger.balanced) :
    (xs.foldl f s).ledger.balanced := by
  induction xs generalizing s with
  | nil => exact hs
  | cons x xs ih => exact ih (h s x hs)

variable (s : State)

/-! ### Records that are not in the ledger -/

@[simp] theorem setLine_ledger (l : LineId) (x : Line) : (s.setLine l x).ledger = s.ledger := rfl
@[simp] theorem setGuard_ledger (p : PositionId) (x : Guard) : (s.setGuard p x).ledger = s.ledger := rfl
@[simp] theorem setStaging_ledger (c : Port) (x : Staging) : (s.setStaging c x).ledger = s.ledger := rfl
@[simp] theorem setLink_ledger (p : PositionId) (x : Link) : (s.setLink p x).ledger = s.ledger := rfl
@[simp] theorem setPort_ledger (c : Port) (x : PortRecord) : (s.setPort c x).ledger = s.ledger := rfl
@[simp] theorem setNoticeQueue_ledger (c : Port) (x : NoticeQueue) : (s.setNoticeQueue c x).ledger = s.ledger := rfl
@[simp] theorem answer_ledger (c : Port) (r : ResultCode) (d : List Byte) : (s.answer c r d).ledger = s.ledger := rfl
@[simp] theorem reach_ledger (due : Nat) : (s.reach due).ledger = s.ledger := rfl
@[simp] theorem raise_ledger (b : NoticeBody) : (s.raise b).ledger = s.ledger := rfl
@[simp] theorem sendLamps_ledger : s.sendLamps.ledger = s.ledger := rfl
@[simp] theorem fullRefresh_ledger (p : PositionId) : (s.fullRefresh p).ledger = s.ledger := rfl
@[simp] theorem updateTalking_ledger (l : LineId) (p : PositionId) (x : Path) (v : Bool) :
    (s.updateTalking l p x v).ledger = s.ledger := rfl
@[simp] theorem updateTalkCapable_ledger (l : LineId) (p : PositionId) (x : Path) (v : Bool) :
    (s.updateTalkCapable l p x v).ledger = s.ledger := rfl
@[simp] theorem returnRead_ledger (c : Port) : (s.returnRead c).ledger = s.ledger :=
  ledger_of_frame (returnRead_frame s c)

/-! ### Records that are in the ledger -/

theorem setTermCount_ledger (c : Nat) : ({ s with termCount := c } : State).ledger = { s.ledger with count := c } := rfl

/-- A position record with the same slots keeps the ledger. -/
theorem setPosition_ledger {p : PositionId} {x : Position} (h0 : x.h0.slot = (s.position p).h0.slot)
    (h1 : x.h1.slot = (s.position p).h1.slot) : (s.setPosition p x).ledger = s.ledger := by
  have slots : ∀ q g, (s.setPosition p x).slot q g = s.slot q g := by
    intro q g
    by_cases hq : q = p
    · subst hq
      cases g <;> simp [State.slot, Position.handset, h0, h1]
    · simp [State.slot, hq]
  simp only [State.ledger, slots]
  rfl

theorem setPosition_balanced {s : State} {p : PositionId} {x : Position} (hs : s.ledger.balanced)
    (h0 : x.h0.slot = (s.position p).h0.slot) (h1 : x.h1.slot = (s.position p).h1.slot) :
    (s.setPosition p x).ledger.balanced := by
  rwa [setPosition_ledger s h0 h1]

/-- A slot takes its new content, and the count its net change (R34). -/
theorem setSlot_ledger (p : PositionId) (h : Handset) (x : Option Held) :
    (s.setSlot p h x).ledger =
      { s.ledger.withSlot p h (slotCost x) with count := s.termCount + slotCost x - slotCost (s.slot p h) } := by
  have slots : ∀ q g, slotCost ((s.setSlot p h x).slot q g) =
      if q = p ∧ g = h then slotCost x else slotCost (s.slot q g) := by
    intro q g
    by_cases here : q = p ∧ g = h
    · rw [if_pos here, here.1, here.2, setSlot_slot]
    · rw [if_neg here, setSlot_slot_ne s x (by simpa using here)]
  simp only [State.ledger, TermLedger.withSlot, slots]
  rfl

/-- A channel record brings its terms into the ledger. -/
theorem setChannel_ledger (p : PositionId) (n : ChannelId) (x : Channel) :
    (s.setChannel p n x).ledger =
      s.ledger.withChannels p fun m => if m = n then x.terms else s.ledger.channel p m := by
  have channels : ∀ q m, ((s.setChannel p n x).channel q m).terms =
      if q = p then if m = n then x.terms else (s.channel p m).terms else (s.channel q m).terms := by
    intro q m
    by_cases hq : q = p
    · subst hq
      by_cases hm : m = n <;> simp [State.channel, State.setChannel, hm]
    · simp [State.channel, State.setChannel, hq]
  simp only [State.ledger, TermLedger.withChannels, channels]
  rfl

/-- A channel record with the terms that stand in the ledger keeps it. -/
theorem setChannel_ledger_same {s t : State} {p : PositionId} {n : ChannelId} {x : Channel}
    (kept : t.ledger = s.ledger) (h : x.terms = s.ledger.channel p n) : (t.setChannel p n x).ledger = s.ledger := by
  rw [setChannel_ledger, kept]
  ext q m
  case channel =>
    by_cases hq : q = p
    · subst hq
      by_cases hm : m = n
      · subst hm; simp [TermLedger.withChannels, h]
      · simp [TermLedger.withChannels, hm]
    · simp [TermLedger.withChannels, hq]
  all_goals rfl

/-- A speaker record with the same channels keeps the ledger. -/
theorem setSpeaker_ledger {p : PositionId} {x : Speaker} (h : x.channels = (s.speaker p).channels) :
    (s.setSpeaker p x).ledger = s.ledger := by
  have channels : ∀ q m, (s.setSpeaker p x).channel q m = s.channel q m := by
    intro q m
    by_cases hq : q = p
    · subst hq; simp [State.channel, h]
    · simp [State.channel, hq]
  simp only [State.ledger, channels]
  rfl

theorem setSpeaker_balanced {s : State} {p : PositionId} {x : Speaker} (hs : s.ledger.balanced)
    (h : x.channels = (s.speaker p).channels) : (s.setSpeaker p x).ledger.balanced := by
  rwa [setSpeaker_ledger s h]

/-- A group record brings its terms into the ledger. -/
theorem setGroup_ledger (g : GroupId) (x : Group) : (s.setGroup g x).ledger = s.ledger.withGroup g x.terms := by
  have groups : ∀ g', ((s.setGroup g x).group g').terms = if g' = g then x.terms else (s.group g').terms := by
    intro g'
    by_cases hg : g' = g
    · subst hg; simp
    · simp [hg]
  simp only [State.ledger, TermLedger.withGroup, groups]
  rfl

/-- A group record with the terms that stand in the ledger keeps it. -/
theorem setGroup_ledger_same {g : GroupId} {x : Group} (h : x.terms = s.ledger.group g) :
    (s.setGroup g x).ledger = s.ledger := by
  rw [setGroup_ledger]
  ext g'
  case group =>
    by_cases hg : g' = g
    · subst hg; simp [TermLedger.withGroup, h]
    · simp [TermLedger.withGroup, hg]
  all_goals rfl

/-! ### A change of a slot -/

/-- A slot change that the Mixing Engine admits keeps the balance (R34, R125). -/
theorem setSlot_balanced {s : State} {p : PositionId} {h : Handset} {x : Option Held} (hs : s.ledger.balanced)
    (admitted : s.admits (slotCost (s.slot p h)) (slotCost x) = true) : (s.setSlot p h x).ledger.balanced := by
  rw [setSlot_ledger]
  exact balanced_of_admits hs admitted (owed_withSlot s.ledger p h (slotCost x)) rfl

/-- An emptied slot keeps the balance. -/
theorem setSlot_none_balanced {s : State} (p : PositionId) (h : Handset) (hs : s.ledger.balanced) :
    (s.setSlot p h none).ledger.balanced := setSlot_balanced hs (admits_release s _)

end Sys2Proof.Machine
end

section
/-! PROOFS. What each shared operation of the blocks does to the term ledger (R124). -/

namespace Sys2Proof.Machine

variable (s : State)

/-! ### Rings and bindings -/

@[simp] theorem refileRing_ledger (l : LineId) : (s.refileRing l).ledger = s.ledger :=
  ledger_of_rings (refileRing_rings s l) (refileRing_frame s l)

@[simp] theorem directoryChanged_ledger (p : PositionId) (old : Table 64 Entry) :
    (s.directoryChanged p old).ledger = s.ledger :=
  ledger_of_rings (directoryChanged_rings s p old) (directoryChanged_frame s p old)

@[simp] theorem reportEnd_ledger (p : PositionId) (k : Key) : (s.reportEnd p k).ledger = s.ledger :=
  ledger_of_rings (reportEnd_rings s p k) (reportEnd_frame s p k)

@[simp] theorem reportSlot_ledger (p : PositionId) (old : Option Held) : (s.reportSlot p old).ledger = s.ledger :=
  ledger_of_rings (reportSlot_rings s p old) (reportSlot_frame s p old)

@[simp] theorem reportOwner_ledger (o : Option KeyRef) : (s.reportOwner o).ledger = s.ledger :=
  ledger_of_rings (reportOwner_rings s o) (reportOwner_frame s o)

/-! ### Lines -/

@[simp] theorem moveLine_ledger (l : LineId) (x : Line) : (s.moveLine l x).ledger = s.ledger :=
  ledger_of_rings (moveLine_rings s l x) (moveLine_frame s l x)

@[simp] theorem take_ledger (l : LineId) (t : Take) : (s.take l t).1.ledger = s.ledger := by
  unfold State.take
  split <;> simp

@[simp] theorem leave_ledger (l : LineId) (p : PositionId) (x : Path) : (s.leave l p x).1.ledger = s.ledger := by
  unfold State.leave
  split <;> simp

@[simp] theorem hold_ledger (l : LineId) (p : PositionId) (h : Handset) : (s.hold l p h).1.ledger = s.ledger := by
  unfold State.hold
  repeat' split
  all_goals simp

@[simp] theorem privacyRequest_ledger (l : LineId) (p : PositionId) (h : Handset) :
    (s.privacyRequest l p h).1.ledger = s.ledger := by
  unfold State.privacyRequest
  repeat' split
  all_goals simp

@[simp] theorem reRing_ledger (l : LineId) (p : PositionId) (h : Handset) : (s.reRing l p h).1.ledger = s.ledger := by
  unfold State.reRing
  repeat' split
  all_goals simp

@[simp] theorem abandon_ledger (l : LineId) : (s.abandon l).ledger = s.ledger := by
  simp [State.abandon]

theorem partyRemoved_balanced {s : State} (r : ResultCode) (x : Party) (hs : s.ledger.balanced) :
    (State.partyRemoved r s x).ledger.balanced := by
  unfold State.partyRemoved
  split
  case h_1 h _ => simpa using setSlot_none_balanced x.position h hs
  case h_2 n _ => rwa [setChannel_ledger_same rfl]; rfl

theorem clearLine_balanced {s : State} (l : LineId) (entered : LineState) (r : ResultCode) (hs : s.ledger.balanced) :
    (s.clearLine l entered r).ledger.balanced := by
  simpa [State.clearLine] using
    balanced_foldl (fun t x ht => partyRemoved_balanced r x ht) _ (s := s.setLine l { s.line l with parties := [] }) hs

/-! ### Groups -/

@[simp] theorem grant_ledger (g : GroupId) (p : PositionId) (x : Path) (b : Bool) :
    (s.grant g p x b).ledger = s.ledger := by
  rw [State.grant, raise_ledger]
  exact setGroup_ledger_same s rfl

@[simp] theorem grantHead_ledger (g : GroupId) : (s.grantHead g).ledger = s.ledger := by
  unfold State.grantHead
  split
  · rfl
  · rw [grant_ledger]
    exact setGroup_ledger_same s rfl

@[simp] theorem endTalker_ledger (g : GroupId) (p : PositionId) : (s.endTalker g p).ledger = s.ledger := by
  rw [State.endTalker, grantHead_ledger]
  exact setGroup_ledger_same s rfl

@[simp] theorem withdraw_ledger (g : GroupId) (p : PositionId) : (s.withdraw g p).ledger = s.ledger :=
  setGroup_ledger_same s rfl

@[simp] theorem talkRequest_ledger (g : GroupId) (p : PositionId) (x : Path) :
    (s.talkRequest g p x).1.ledger = s.ledger := by
  unfold State.talkRequest
  dsimp only
  repeat' split
  case h_2.isFalse.isFalse.isTrue => exact setGroup_ledger_same s rfl
  all_goals simp

@[simp] theorem talkRelease_ledger (g : GroupId) (p : PositionId) (x : Path) :
    (s.talkRelease g p x).1.ledger = s.ledger := by
  unfold State.talkRelease
  repeat' split
  all_goals simp

@[simp] theorem removeEntries_ledger (p : PositionId) (g : GroupId) :
    (State.removeEntries p s g).ledger = s.ledger := by
  unfold State.removeEntries
  dsimp only
  repeat' split
  all_goals simp

@[simp] theorem intercomLinkLoss_ledger (p : PositionId) : (s.intercomLinkLoss p).ledger = s.ledger :=
  ledger_foldl (fun t g => removeEntries_ledger t p g) _ s

@[simp] theorem addMember_ledger (g : GroupId) (p : PositionId) (k : LineClass) :
    (s.addMember g p k).1.ledger = s.ledger := by
  unfold State.addMember
  dsimp only
  repeat' split
  case h_1.isFalse | h_2.isFalse => exact setGroup_ledger_same s rfl
  all_goals rfl

theorem dropGroupSlot_balanced {s : State} (g : GroupId) (p : PositionId) (h : Handset) (hs : s.ledger.balanced) :
    (State.dropGroupSlot g p s h).ledger.balanced := by
  unfold State.dropGroupSlot
  split
  · simpa using setSlot_none_balanced p h hs
  · exact hs

theorem removeMember_balanced {s : State} (g : GroupId) (p : PositionId) (hs : s.ledger.balanced) :
    (s.removeMember g p).ledger.balanced := by
  refine balanced_foldl (fun t h ht => dropGroupSlot_balanced g p h ht) _ ?_
  rwa [removeEntries_ledger, setGroup_ledger_same]
  rfl

/-- The talker limit of a group that is defined joins the count when the Mixing Engine admits it (R77). -/
theorem defineGroup_balanced {s : State} (g : GroupId) (t f : Nat) (hs : s.ledger.balanced) :
    (s.defineGroup g t f).1.ledger.balanced := by
  unfold State.defineGroup
  split
  case isTrue => exact hs
  case isFalse undefined =>
    split
    case isTrue => exact hs
    case isFalse refused =>
      have free : s.ledger.group g = 0 := by simp [State.ledger, Group.terms, undefined]
      have owed := owed_withGroup s.ledger g t
      rw [free] at owed
      have defined_balanced : ({ s.setGroup g ⟨true, t, floorTaken f, [], [], []⟩ with
          termCount := s.termCount + t } : State).ledger.balanced := by
        refine balanced_of_admits hs (new := t) (by simpa using refused) ?_ rfl
        rw [setTermCount_ledger, setGroup_ledger]
        exact owed
      dsimp only
      split <;> exact defined_balanced

/-! ### The Speaker Field -/

@[simp] theorem sendTake_ledger (p : PositionId) (n : ChannelId) : (State.sendTake p s n).ledger = s.ledger := by
  unfold State.sendTake
  dsimp only
  split
  case h_1 l _ =>
    split
    · have taken := take_ledger s l (speakerTake p n (s.channel p n).talkback)
      split <;> rename_i heq
      · rw [heq] at taken
        exact setChannel_ledger_same taken rfl
      · exact setChannel_ledger_same rfl rfl
    · rfl
  all_goals rfl

@[simp] theorem attachOpportunity_ledger (l : LineId) : (s.attachOpportunity l).ledger = s.ledger := by
  rw [attachOpportunity_waiters]
  exact ledger_foldl (fun t (w : PositionId × ChannelId) => sendTake_ledger t w.1 w.2) _ s

@[simp] theorem takeOffers_ledger : s.takeOffers.ledger = s.ledger :=
  ledger_foldl attachOpportunity_ledger s.offers { s with offers := [] }

@[simp] theorem finish_ledger : s.finish.ledger = s.ledger := by
  rw [State.finish, sendLamps_ledger, takeOffers_ledger]

@[simp] theorem linkUpTakes_ledger (p : PositionId) : (s.linkUpTakes p).ledger = s.ledger := by
  unfold State.linkUpTakes
  split
  · exact ledger_foldl (fun t n => sendTake_ledger t p n) _ s
  · rfl

@[simp] theorem channelLinkLoss_ledger (p : PositionId) (n : ChannelId) :
    (State.channelLinkLoss p s n).ledger = s.ledger := by
  unfold State.channelLinkLoss
  dsimp only
  repeat' split
  case h_1.isTrue l _ _ => exact setChannel_ledger_same (leave_ledger s l p (.channel n)) rfl
  case h_2.isTrue g _ _ => exact setChannel_ledger_same (talkRelease_ledger s g p (.channel n)) rfl
  all_goals exact setChannel_ledger_same rfl rfl

@[simp] theorem speakerLinkLoss_ledger (p : PositionId) : (s.speakerLinkLoss p).ledger = s.ledger :=
  ledger_foldl (fun t n => channelLinkLoss_ledger t p n) _ s

end Sys2Proof.Machine
end

section
/-! PROOFS. The term ledger through keys, hooks, knobs, plans and link losses (R124). -/

namespace Sys2Proof.Machine

variable (s : State)

/-! ### Mute, push-to-talk and knobs -/

@[simp] theorem muteKey_ledger (p : PositionId) (n : ChannelId) : (s.muteKey p n).1.ledger = s.ledger := by
  unfold State.muteKey
  dsimp only
  split
  · rfl
  · exact setChannel_ledger_same rfl rfl

@[simp] theorem talkKeyDown_ledger (p : PositionId) (n : ChannelId) : (s.talkKeyDown p n).1.ledger = s.ledger := by
  unfold State.talkKeyDown
  dsimp only
  split
  case isTrue => rfl
  case isFalse =>
    split
    case h_1 => rfl
    case h_2 =>
      split
      · exact setChannel_ledger_same rfl rfl
      · rfl
    case h_3 g _ =>
      have asked := talkRequest_ledger s g p (.channel n)
      split <;> rename_i heq <;> rw [heq] at asked
      case h_4 => exact asked
      all_goals exact setChannel_ledger_same asked rfl

@[simp] theorem talkKeyUp_ledger (p : PositionId) (n : ChannelId) : (s.talkKeyUp p n).1.ledger = s.ledger := by
  have released : (s.setChannel p n { s.channel p n with ptt := false, mustRelease := false }).ledger = s.ledger :=
    setChannel_ledger_same rfl rfl
  unfold State.talkKeyUp
  dsimp only
  repeat' split
  case isTrue => rfl
  all_goals simp [released]

@[simp] theorem handTimeout_ledger (p : PositionId) (x : Path) : (s.handTimeout p x).ledger = s.ledger := by
  unfold State.handTimeout State.setMustRelease
  dsimp only
  repeat' split
  case h_2.isTrue => exact setChannel_ledger_same rfl rfl
  all_goals rfl

@[simp] theorem floorTimeout_ledger (g : GroupId) (p : PositionId) (x : Path) :
    (s.floorTimeout g p x).ledger = s.ledger := by
  rw [State.floorTimeout, grantHead_ledger, handTimeout_ledger, raise_ledger]
  exact setGroup_ledger_same s rfl

@[simp] theorem knobStep_ledger (p : PositionId) (ls : Loudspeaker) (v : Step) :
    (s.knobStep p ls v).ledger = s.ledger := by
  unfold State.knobStep
  split
  · rfl
  · rw [raise_ledger]
    exact setSpeaker_ledger s (by cases ls <;> rfl)

theorem setKnob_ledger (p : PositionId) (j : KnobId) (k : KnobState) :
    (s.setPosition p ((s.position p).setKnob j k)).ledger = s.ledger := by
  unfold Position.setKnob
  split <;> exact setPosition_ledger s rfl rfl

@[simp] theorem knobResidue_ledger (p : PositionId) (j : KnobId) (a b : Bool) (r : Int) :
    (s.knobResidue p j a b r).ledger = s.ledger := by
  unfold State.knobResidue
  dsimp only
  repeat' split
  all_goals simp [setKnob_ledger]

@[simp] theorem knobEvent_ledger (p : PositionId) (j : KnobId) (a b : Bool) :
    (s.knobEvent p j a b).ledger = s.ledger := by
  unfold State.knobEvent
  dsimp only
  split <;> simp

/-! ### Denials and slot changes -/

@[simp] theorem denyKey_ledger (p : PositionId) (x : Option LampId) (r : ResultCode) (o : Origin) :
    (s.denyKey p x r o).ledger = s.ledger := by
  unfold State.denyKey
  dsimp only
  split
  · exact setPosition_ledger _ rfl rfl
  · rfl

@[simp] theorem channelResult_ledger (p : PositionId) (n : ChannelId) (o : Origin) (x : State × ResultCode) :
    (State.channelResult p n o x).1.ledger = x.1.ledger := by
  unfold State.channelResult
  split <;> simp

@[simp] theorem switchAway_ledger (p : PositionId) (h : Handset) (old : Option Held) :
    (s.switchAway p h old).ledger = s.ledger := by
  unfold State.switchAway
  repeat' split
  all_goals simp

theorem releaseSlot_balanced {s : State} (p : PositionId) (h : Handset) (hs : s.ledger.balanced) :
    (s.releaseSlot p h).1.ledger.balanced := by
  unfold State.releaseSlot
  split
  case h_1 => exact hs
  case h_2 => simpa using setSlot_none_balanced p h (by simpa using hs)
  case h_3 => simpa using setSlot_none_balanced p h (by simpa using hs)

/-- Filling a slot keeps the balance when the Mixing Engine admitted the change before the switch-away (R34, R39). -/
theorem replaceSlot_balanced {s t : State} {p : PositionId} {h : Handset} {new : Held} (old : Option Held)
    (hs : s.ledger.balanced) (kept : t.ledger = s.ledger)
    (admitted : s.admits (slotCost (s.slot p h)) (slotCost (some new)) = true) :
    (t.replaceSlot p h old new).ledger.balanced := by
  have away : (t.switchAway p h old).ledger = s.ledger := by rw [switchAway_ledger, kept]
  have cost : slotCost ((t.switchAway p h old).slot p h) = slotCost (s.slot p h) :=
    congrArg (fun b => TermLedger.slot b p h) away
  rw [State.replaceSlot, reportSlot_ledger]
  apply setSlot_balanced
  · rwa [away]
  · rwa [admits_congr away, cost]

theorem takeIntoSlot_balanced {s : State} (p : PositionId) (h : Handset) (l : LineId) (k : Key) (o : Origin)
    (hs : s.ledger.balanced) : (s.takeIntoSlot p h l k o).1.ledger.balanced := by
  unfold State.takeIntoSlot
  dsimp only
  split
  case isTrue => simpa using hs
  case isFalse admitted =>
    have fits : s.admits (slotCost (s.slot p h)) 3 = true := by simpa using admitted
    have taken := take_ledger s l (s.handsetTake p h k o)
    split <;> rename_i heq
    · rw [heq] at taken
      rw [reportOwner_ledger]
      exact replaceSlot_balanced (s.slot p h) hs taken fits
    · simpa using hs

theorem groupKey_balanced {s : State} (p : PositionId) (h : Handset) (g : GroupId) (k : Key) (o : Origin)
    (hs : s.ledger.balanced) : (s.groupKey p h g k o).1.ledger.balanced := by
  unfold State.groupKey
  dsimp only
  split
  case isTrue => exact hs
  split
  case isTrue => simpa using hs
  split
  case isTrue => simpa using hs
  split
  case isTrue => simpa using hs
  case isFalse admitted =>
    have fits : s.admits (slotCost (s.slot p h)) 2 = true := by simpa using admitted
    have filled : (s.replaceSlot p h (s.slot p h) ⟨.group g, k⟩).ledger.balanced :=
      replaceSlot_balanced (s.slot p h) hs rfl fits
    have asked := talkRequest_ledger (s.replaceSlot p h (s.slot p h) ⟨.group g, k⟩) g p (.handset h)
    split <;> rename_i heq <;> rw [heq] at asked
    · rwa [denyKey_ledger, asked]
    · rwa [asked]

theorem pressKey_balanced {s : State} (p : PositionId) (k : Key) (o : Origin) (hs : s.ledger.balanced) :
    (s.pressKey p k o).1.ledger.balanced := by
  unfold State.pressKey
  dsimp only
  repeat' split
  case h_1 => simpa using hs
  case h_2.isTrue => simpa using hs
  case h_2.isFalse l _ _ _ _ _ => exact takeIntoSlot_balanced p _ l k o hs
  case h_3 g _ => exact groupKey_balanced p _ g k o hs

/-! ### Function keys and hooks -/

theorem holdKey_balanced {s : State} (p : PositionId) (o : Origin) (hs : s.ledger.balanced) :
    (s.holdKey p o).1.ledger.balanced := by
  unfold State.holdKey
  dsimp only
  split
  case h_1 => simpa using hs
  case h_2 => simpa using setSlot_none_balanced p _ (by simpa using hs)
  case h_3 => exact releaseSlot_balanced p _ hs

theorem answerHead_balanced {s : State} (p : PositionId) (h : Handset) (o : Origin) (hs : s.ledger.balanced) :
    (s.answerHead p h o).1.ledger.balanced := by
  unfold State.answerHead
  split
  case h_1 => simpa using hs
  case h_2 e _ _ => exact takeIntoSlot_balanced p h e.line e.key o hs

@[simp] theorem privacyKey_ledger (p : PositionId) (o : Origin) : (s.privacyKey p o).1.ledger = s.ledger := by
  unfold State.privacyKey
  dsimp only
  split
  case h_3 l _ _ =>
    have asked := privacyRequest_ledger s l p (s.selected p)
    split <;> rename_i heq
    · rwa [heq] at asked
    · simp
  all_goals simp

@[simp] theorem selectKey_ledger (p : PositionId) (h : Handset) : (s.selectKey p h).1.ledger = s.ledger := by
  unfold State.selectKey
  split
  · rfl
  · exact setPosition_ledger s rfl rfl

@[simp] theorem silenceKey_ledger (p : PositionId) : (s.silenceKey p).1.ledger = s.ledger := by
  unfold State.silenceKey
  dsimp only
  split
  · rfl
  · exact setPosition_ledger s rfl rfl

theorem setHook_ledger (p : PositionId) (h : Handset) (v : Hook) :
    (s.setPosition p ((s.position p).setHandset h { (s.position p).handset h with hook := v })).ledger = s.ledger := by
  cases h <;> exact setPosition_ledger s rfl rfl

theorem hookOnEvent_balanced {s : State} (p : PositionId) (h : Handset) (hs : s.ledger.balanced) :
    (s.hookOnEvent p h).ledger.balanced := by
  unfold State.hookOnEvent
  split
  · exact hs
  · exact releaseSlot_balanced p h (by rwa [setHook_ledger])

theorem hookOffEvent_balanced {s : State} (p : PositionId) (h : Handset) (hs : s.ledger.balanced) :
    (s.hookOffEvent p h).ledger.balanced := by
  have lifted : (s.setPosition p { (s.position p).setHandset h { (s.position p).handset h with hook := .off } with
      selected := h }).ledger = s.ledger := by
    cases h <;> exact setPosition_ledger s rfl rfl
  unfold State.hookOffEvent
  dsimp only
  repeat' split
  case h_3.isTrue => exact answerHead_balanced p h .turret (by rwa [lifted])
  all_goals simpa [lifted] using hs

theorem funcEvent_balanced {s : State} (p : PositionId) (f : Func) (n : ChannelId) (down : Bool) (o : Origin)
    (hs : s.ledger.balanced) : (s.funcEvent p f n down o).1.ledger.balanced := by
  unfold State.funcEvent
  split
  case h_2 => exact holdKey_balanced p o hs
  case h_3 => exact releaseSlot_balanced p _ hs
  case h_4 => exact answerHead_balanced p _ o hs
  all_goals simpa [State.spkMuteKey, State.spkTalkDownKey] using hs

theorem inject_balanced {s : State} (p : PositionId) (e : InjectEvent) (hs : s.ledger.balanced) :
    (s.inject p e).1.ledger.balanced := by
  unfold State.inject
  split
  case h_1 k => exact pressKey_balanced p k .inject hs
  case h_2 => exact hs
  case h_3 f n down => exact funcEvent_balanced p f n down .inject hs

/-! ### Link loss -/

theorem linkLost_ledger (p : PositionId) : (s.setPosition p (s.position p).linkLost).ledger = s.ledger :=
  setPosition_ledger s rfl rfl

theorem positionLinkLoss_balanced {s : State} (p : PositionId) (hs : s.ledger.balanced) :
    (s.positionLinkLoss p).ledger.balanced := by
  have down : (s.setPosition p { s.position p with linkUp := false }).ledger = s.ledger :=
    setPosition_ledger s rfl rfl
  have emptied := releaseSlot_balanced p .h1 (releaseSlot_balanced p .h0 (by rwa [down]))
  simp only [State.positionLinkLoss, linkLost_ledger, intercomLinkLoss_ledger, speakerLinkLoss_ledger]
  exact emptied

theorem linkLoss_balanced {s : State} (p : PositionId) (cause : LossCause) (hs : s.ledger.balanced) :
    (s.linkLoss p cause).ledger.balanced := by
  simp only [State.linkLoss, finish_ledger, raise_ledger]
  exact positionLinkLoss_balanced p hs

@[simp] theorem judgeAnnounce_ledger (p : PositionId) (kc kn : Byte) : (s.judgeAnnounce p kc kn).ledger = s.ledger := by
  unfold State.judgeAnnounce
  split
  · rfl
  · simp only [finish_ledger, raise_ledger, fullRefresh_ledger]
    exact setPosition_ledger (s.setLink p _) rfl rfl

/-! ### Installing a plan -/

theorem takeDown_ledger (p : PositionId) (n : ChannelId) : (s.takeDown p n).ledger = s.ledger := by
  unfold State.takeDown
  dsimp only
  repeat' split
  all_goals simp

theorem takeDown_speakers (p : PositionId) (n : ChannelId) : (s.takeDown p n).speakers = s.speakers := by
  unfold State.takeDown
  dsimp only
  repeat' split
  case h_1.isTrue l _ _ => exact leave_frame s l p (.channel n) .speakers (by decide)
  case h_2.isTrue g _ _ => exact talkRelease_frame s g p (.channel n) .speakers (by decide)
  all_goals rfl

theorem talkbackUpdate_ledger (p : PositionId) (n : ChannelId) (v : Bool) :
    (s.talkbackUpdate p n v).ledger = s.ledger := by
  unfold State.talkbackUpdate
  dsimp only
  repeat' split
  all_goals simp

/-- The take-down or update of a channel leaves it with the terms of its plan (R98, R99). -/
theorem planChannel_ledger (p : PositionId) (n : ChannelId) :
    (State.planChannel p s n).ledger = s.ledger.withChannels p fun m =>
      if m = n then ((s.speaker p).plan.get n).terms else s.ledger.channel p m := by
  unfold State.planChannel
  dsimp only
  split
  case isTrue unchanged =>
    rw [setChannel_ledger, talkbackUpdate_ledger]
    simp [Channel.updated, Channel.terms, ChannelPlan.terms, unchanged]
  case isFalse =>
    rw [setChannel_ledger, takeDown_ledger]
    rfl

theorem planChannel_plan (p : PositionId) (n : ChannelId) :
    ((State.planChannel p s n).speaker p).plan = (s.speaker p).plan := by
  have kept : ∀ (t : State) (x : Channel), t.speakers = s.speakers →
      ((t.setChannel p n x).speaker p).plan = (s.speaker p).plan := by
    intro t x same
    have speaker : t.speaker p = s.speaker p := by rw [State.speaker, same, State.speaker]
    rw [State.setChannel, State.setSpeaker_speaker, speaker]
  unfold State.planChannel
  dsimp only
  split
  · exact kept _ _ (talkbackUpdate_frame s p n _ .speakers (by decide))
  · exact kept _ _ (takeDown_speakers s p n)

/-- After the channels `ns` have taken their plans, those and no others have the plans' terms. -/
theorem planChannels_ledger (p : PositionId) (ns : List ChannelId) :
    (ns.foldl (State.planChannel p) s).ledger = s.ledger.withChannels p fun m =>
      if m ∈ ns then ((s.speaker p).plan.get m).terms else s.ledger.channel p m := by
  induction ns generalizing s with
  | nil =>
    ext q m
    case channel =>
      by_cases hq : q = p
      · subst hq; simp [TermLedger.withChannels]
      · simp [TermLedger.withChannels, hq]
    all_goals rfl
  | cons n ns ih =>
    rw [List.foldl_cons, ih, planChannel_ledger, planChannel_plan]
    ext q m
    case channel =>
      by_cases hq : q = p
      · by_cases hm : m = n
        · subst hq; subst hm; simp [TermLedger.withChannels]
        · simp [TermLedger.withChannels, hq, hm]
      · simp [TermLedger.withChannels, hq]
    all_goals rfl

@[simp] theorem attachPhase_ledger (p : PositionId) (n : ChannelId) : (State.attachPhase p s n).ledger = s.ledger := by
  unfold State.attachPhase
  dsimp only
  repeat' split
  case h_1.isTrue => rfl
  case h_1.isFalse.isTrue =>
    rw [sendTake_ledger]
    exact setChannel_ledger_same rfl rfl
  all_goals exact setChannel_ledger_same rfl rfl

theorem installLevels_ledger (p : PositionId) :
    (s.setSpeaker p (s.speaker p).installLevels).ledger = s.ledger := setSpeaker_ledger s rfl

/-- The installed plan: its terms stand for those of the live channels, and the count follows (R98 to R100). -/
theorem installPlan_ledger (p : PositionId) (old new : Nat) :
    (s.installPlan p old new).ledger =
      { s.ledger.withChannels p fun m => ((s.speaker p).plan.get m).terms with
        count := s.termCount + new - old } := by
  have installed : ((ascending 8).foldl (State.attachPhase p) ((ascending 8).foldl (State.planChannel p) s)).ledger =
      s.ledger.withChannels p fun m => ((s.speaker p).plan.get m).terms := by
    rw [ledger_foldl (fun t n => attachPhase_ledger t p n), planChannels_ledger]
    simp [ascending]
  have count : ((ascending 8).foldl (State.attachPhase p)
      ((ascending 8).foldl (State.planChannel p) s)).termCount = s.termCount := by
    rw [← ledger_count, installed]
    rfl
  rw [State.installPlan, installLevels_ledger, setTermCount_ledger, installed, count]

theorem mixApply_balanced {s : State} (p : PositionId) (hs : s.ledger.balanced) :
    (s.mixApply p).1.ledger.balanced := by
  unfold State.mixApply
  dsimp only
  split
  case isTrue admitted =>
    rw [installPlan_ledger]
    refine balanced_of_admits hs admitted ?_ rfl
    rw [Speaker.liveTerms_eq, Speaker.planTerms_eq]
    exact owed_withChannels s.ledger p fun m => ((s.speaker p).plan.get m).terms
  case isFalse => exact hs

end Sys2Proof.Machine
end

section
/-! PROOFS. Every command keeps the term ledger in balance, and so does every step (R124, R125). -/

namespace Sys2Proof.Machine

variable (s : State)

/-! ### Operations of one command -/

@[simp] theorem takeDelivered_ledger (p : PositionId) (ev : TurretEvent) : (s.takeDelivered p ev).ledger = s.ledger :=
  rfl

@[simp] theorem configureLine_ledger (l : LineId) (k : LineClass) (b : BargePolicy) (r : Ringdown) :
    (s.configureLine l k b r).ledger = s.ledger := by
  unfold State.configureLine
  dsimp only
  split <;> simp

theorem serviceLine_balanced {s : State} (l : LineId) (d : ServiceDirection) (hs : s.ledger.balanced) :
    (s.serviceLine l d).1.ledger.balanced := by
  have cleared := clearLine_balanced l .outOfService .lineOutOfService hs
  unfold State.serviceLine
  dsimp only
  split
  case h_2 | h_3 | h_4 | h_5 | h_6 | h_7 | h_8 | h_9 => exact cleared
  case h_10 => split <;> simpa using hs
  all_goals exact hs

@[simp] theorem enterRinging_ledger (l : LineId) (timer : Option LineTimer) :
    (s.enterRinging l timer).ledger = s.ledger := by
  simp [State.enterRinging]

@[simp] theorem flChange_ledger (l : LineId) (v : Bool) : (s.flChange l v).ledger = s.ledger := by
  unfold State.flChange
  repeat' split
  all_goals simp [State.answered]

@[simp] theorem rdChange_ledger (l : LineId) (v : Bool) : (s.rdChange l v).ledger = s.ledger := by
  unfold State.rdChange
  repeat' split
  all_goals simp [State.answered, State.missedCall]

theorem signalEvent_balanced {s : State} (l : LineId) (now : Signals) (hs : s.ledger.balanced) :
    (s.signalEvent l now).ledger.balanced := by
  unfold State.signalEvent
  dsimp only
  split
  case isTrue => exact clearLine_balanced l .fault .lineFault hs
  case isFalse =>
    repeat' split
    all_goals simpa using hs

@[simp] theorem commitSlot_ledger (b : Staging) (page : Fin 128) (acc : State × CommitCounts) (i : Fin 16) :
    (commitSlot b page acc i).1.ledger = acc.1.ledger := by
  unfold commitSlot State.commitEntry
  dsimp only
  repeat' split
  all_goals rfl

theorem commitSlots_ledger (b : Staging) (page : Fin 128) (is : List (Fin 16)) (acc : State × CommitCounts) :
    (is.foldl (commitSlot b page) acc).1.ledger = acc.1.ledger := by
  induction is generalizing acc with
  | nil => rfl
  | cons i is ih => rw [List.foldl_cons, ih, commitSlot_ledger]

@[simp] theorem applyPage_ledger (c : Port) (page : Fin 128) : (s.applyPage c page).1.ledger = s.ledger := by
  simp only [State.applyPage, directoryChanged_ledger, setStaging_ledger, commitSlots_ledger]

@[simp] theorem wipe_ledger (p : PositionId) : (s.wipe p).ledger = s.ledger := by
  simp only [State.wipe, directoryChanged_ledger, setGuard_ledger]
  rfl

@[simp] theorem loadSlot_ledger (c : Port) (page : Fin 128) (i : Fin 16) (x : Content) :
    (s.loadSlot c page i x).1.ledger = s.ledger := by
  unfold State.loadSlot
  dsimp only
  split <;> rfl

@[simp] theorem portReset_ledger (c : Port) (tag : Byte) : (s.portReset c tag).ledger = s.ledger := rfl

@[simp] theorem dispatch_ledger (c : Port) (tag number : Byte) (args : List Byte) :
    (s.dispatch c tag number args).ledger = s.ledger := by
  unfold State.dispatch
  repeat' split
  all_goals rfl

@[simp] theorem portPureRead_ledger (c : Port) (status : Byte) (n : Nat) :
    (s.pureRead c status n).ledger = s.ledger := by
  unfold State.pureRead
  dsimp only
  repeat' split
  all_goals rfl

@[simp] theorem beginTransfer_ledger (c : Port) (n : Nat) : (s.beginTransfer c n).ledger = s.ledger := by
  unfold State.beginTransfer
  dsimp only
  split <;> rfl

@[simp] theorem transfer_ledger (c : Port) (bytes : List Byte) : (s.transfer c bytes).ledger = s.ledger := by
  unfold State.transfer
  dsimp only
  split <;> simp [State.dropMalformed]

@[simp] theorem returnResult_ledger (c : Port) (f : InFlight) (a : Answer) :
    (s.returnResult c f a).ledger = s.ledger := ledger_of_frame (returnResult_frame s c f a)

/-- The tone phase is part of the ringer, and the ringer is not in the ledger. -/
theorem advanceTone_rings (x : Position) :
    x.advanceTone = { x with ringQueue := x.advanceTone.ringQueue, ringer := x.advanceTone.ringer } := by
  unfold Position.advanceTone
  split <;> rfl

@[simp] theorem period_ledger : s.period.ledger = s.ledger := by
  rw [State.period, ledger_foldl raise_ledger]
  refine ledger_of_rings
    (ch := [.clock, .lineClip, .positionClip, .positions, .turretOut, .links, .highwayOut]) ?_ ?_
  · intro p
    simp only [State.position, Table.get_map]
    exact advanceTone_rings _
  · intro q hq
    cases q <;> first | rfl | simp at hq

/-! ### Power-on reset -/

/-- After power-on reset only the ringers' terms are reserved (R124). -/
theorem powerOn_balanced (q m : Bool) : (State.powerOn q m).ledger.balanced := by
  have slots : ∀ p h, (State.powerOn q m).ledger.slot p h = 0 := by
    intro p h
    cases h <;> simp [State.ledger, State.slot, State.position, State.powerOn, Position.powerOn, Position.handset,
      slotCost]
  have channels : ∀ p n, (State.powerOn q m).ledger.channel p n = 0 := by
    intro p n
    simp [State.ledger, State.channel, State.speaker, State.powerOn, Speaker.powerOn, Channel.powerOn, Channel.terms,
      channelTerms]
  have groups : ∀ g, (State.powerOn q m).ledger.group g = 0 := by
    intro g
    simp [State.ledger, State.group, State.powerOn, Group.powerOn, Group.terms]
  have count : (State.powerOn q m).ledger.count = Config.ringerTerms := rfl
  simp [TermLedger.balanced, TermLedger.owed, slots, channels, groups, count, Config.ringerTerms, Config.termBudget]

/-! ### The commands -/

/-- What a command answers is, if it is a next state, in balance. -/
def NextBalanced (o : Host.Outcome State Fault Refusal) : Prop := ∀ t, o = .next t → t.ledger.balanced

@[simp] theorem nextBalanced_next (t : State) : NextBalanced (.next t) ↔ t.ledger.balanced :=
  ⟨fun h => h t rfl, fun h _ e => Host.Outcome.next.inj e ▸ h⟩

variable {s}

theorem turretEvent_balanced (p : PositionId) (ev : TurretEvent) {act : State → State} (hs : s.ledger.balanced)
    (h : ∀ t : State, t.ledger.balanced → (act t).ledger.balanced) :
    NextBalanced (.next (s.turretEvent p ev act)) := by
  rw [nextBalanced_next, State.turretEvent]
  split
  · rw [finish_ledger]
    exact h _ hs
  · exact hs

theorem execLineConfigure_balanced (c : Port) (l k b r : Byte) (hs : s.ledger.balanced) :
    NextBalanced (execLineConfigure c l k b r s) := by
  unfold execLineConfigure
  split <;> simpa using hs

theorem execLineService_balanced (c : Port) (l d : Byte) (hs : s.ledger.balanced) :
    NextBalanced (execLineService c l d s) := by
  unfold execLineService
  split
  case h_1 l d _ _ => simpa using serviceLine_balanced l d hs
  case h_2 => simpa using hs

theorem execLineStatusRead_balanced (c : Port) (l : Byte) (hs : s.ledger.balanced) :
    NextBalanced (execLineStatusRead c l s) := by
  unfold execLineStatusRead
  split <;> simpa using hs

theorem execLineClearMissed_balanced (c : Port) (l : Byte) (hs : s.ledger.balanced) :
    NextBalanced (execLineClearMissed c l s) := by
  unfold execLineClearMissed
  split <;> simpa using hs

theorem execKeyInject_balanced (c : Port) (p k x n d : Byte) (hs : s.ledger.balanced) :
    NextBalanced (execKeyInject c p k x n d s) := by
  unfold execKeyInject
  split
  case h_1 => simpa using hs
  case h_2 p _ =>
    split
    case h_1 => simpa using hs
    case h_2 e _ =>
      split
      · simpa using inject_balanced p e hs
      · simpa using hs

theorem execPositionConfigure_balanced (c : Port) (p sw al hstep rstep : Byte) (tone : Half) (hs : s.ledger.balanced) :
    NextBalanced (execPositionConfigure c p sw al hstep rstep tone s) := by
  unfold execPositionConfigure
  split
  case h_1 =>
    dsimp only
    split
    all_goals
      rw [nextBalanced_next, answer_ledger]
      exact setPosition_balanced hs rfl rfl
  case h_2 => simpa using hs

theorem execPositionStatusRead_balanced (c : Port) (p : Byte) (hs : s.ledger.balanced) :
    NextBalanced (execPositionStatusRead c p s) := by
  unfold execPositionStatusRead
  split <;> simpa using hs

theorem execGroupDefine_balanced (c : Port) (g t f : Byte) (hs : s.ledger.balanced) :
    NextBalanced (execGroupDefine c g t f s) := by
  unfold execGroupDefine
  split
  case h_1 g t _ _ => simpa using defineGroup_balanced g t f.toNat hs
  case h_2 => simpa using hs

/-- An undefined group gives its talker limit back (R78). -/
theorem execGroupUndefine_balanced (c : Port) (g : Byte) (hs : s.ledger.balanced) :
    NextBalanced (execGroupUndefine c g s) := by
  unfold execGroupUndefine
  split
  case h_1 => simpa using hs
  case h_2 g _ =>
    split
    case isTrue => simpa using hs
    case isFalse isDefined =>
      split
      case isTrue => simpa using hs
      case isFalse =>
        have reserved : s.ledger.group g = (s.group g).talkerLimit := by
          have : (s.group g).defined = true := by simpa using isDefined
          simp [State.ledger, Group.terms, this]
        have owed := owed_withGroup s.ledger g 0
        rw [reserved] at owed
        simp only [nextBalanced_next, finish_ledger, answer_ledger]
        rw [setTermCount_ledger, setGroup_ledger]
        exact balanced_of_admits hs (admits_release s _) owed rfl

theorem execMemberAdd_balanced (c : Port) (g p k : Byte) (hs : s.ledger.balanced) :
    NextBalanced (execMemberAdd c g p k s) := by
  unfold execMemberAdd
  split <;> simpa using hs

theorem execMemberRemove_balanced (c : Port) (g p : Byte) (hs : s.ledger.balanced) :
    NextBalanced (execMemberRemove c g p s) := by
  unfold execMemberRemove
  split
  case h_1 g p _ _ =>
    split
    case isTrue => simpa using hs
    split
    case isTrue => simpa using hs
    case isFalse => simpa using removeMember_balanced g p hs
  case h_2 => simpa using hs

theorem execGroupStatusRead_balanced (c : Port) (g : Byte) (hs : s.ledger.balanced) :
    NextBalanced (execGroupStatusRead c g s) := by
  unfold execGroupStatusRead
  split <;> simpa using hs

theorem execPlanSet_balanced (c : Port) (p n sk sn lv ls tb : Byte) (hs : s.ledger.balanced) :
    NextBalanced (execPlanSet c p n sk sn lv ls tb s) := by
  unfold execPlanSet
  split
  case h_1 =>
    dsimp only
    split
    all_goals
      rw [nextBalanced_next, answer_ledger]
      exact setSpeaker_balanced hs rfl
  case h_2 => simpa using hs

theorem execPlanPosition_balanced (c : Port) (p d f : Byte) (hs : s.ledger.balanced) :
    NextBalanced (execPlanPosition c p d f s) := by
  unfold execPlanPosition
  split
  case h_1 =>
    dsimp only
    split
    all_goals
      rw [nextBalanced_next, answer_ledger]
      exact setSpeaker_balanced hs rfl
  case h_2 => simpa using hs

theorem execMixApply_balanced (c : Port) (p : Byte) (hs : s.ledger.balanced) : NextBalanced (execMixApply c p s) := by
  unfold execMixApply
  split
  case h_1 => simpa using hs
  case h_2 p _ =>
    have applied := mixApply_balanced p hs
    split <;> rename_i heq <;> rw [heq] at applied <;> simpa using applied

theorem execSpeakerStatusRead_balanced (c : Port) (p : Byte) (hs : s.ledger.balanced) :
    NextBalanced (execSpeakerStatusRead c p s) := by
  unfold execSpeakerStatusRead
  split <;> simpa using hs

theorem execSpeakersResume_balanced (c : Port) (hs : s.ledger.balanced) : NextBalanced (execSpeakersResume c s) := by
  unfold execSpeakersResume
  split <;> exact (nextBalanced_next _).2 hs

theorem execLevelRead_balanced (c : Port) (k n : Byte) (hs : s.ledger.balanced) :
    NextBalanced (execLevelRead c k n s) := by
  unfold execLevelRead
  split <;> exact (nextBalanced_next _).2 hs

theorem execPageLoad_balanced (c : Port) (pg sl k t a : Byte) (hs : s.ledger.balanced) :
    NextBalanced (execPageLoad c pg sl k t a s) := by
  unfold execPageLoad
  split <;> simpa using hs

theorem execPageCommit_balanced (c : Port) (page : Byte) (hs : s.ledger.balanced) :
    NextBalanced (execPageCommit c page s) := by
  unfold execPageCommit
  split
  case h_1 => simpa using hs
  case h_2 =>
    split
    case isTrue => simpa using hs
    split <;> simpa using hs

theorem execGuardSet_balanced (c : Port) (p g : Byte) (hs : s.ledger.balanced) :
    NextBalanced (execGuardSet c p g s) := by
  unfold execGuardSet
  repeat' split
  all_goals simpa using hs

theorem execEntryRead_balanced (c : Port) (p k : Byte) (hs : s.ledger.balanced) :
    NextBalanced (execEntryRead c p k s) := by
  unfold execEntryRead
  split <;> simpa using hs

theorem execPositionWipe_balanced (c : Port) (p : Byte) (mnt : Bool) (hs : s.ledger.balanced) :
    NextBalanced (execPositionWipe c p mnt s) := by
  have pin : ({ s with mntPin := mnt } : State).ledger = s.ledger := rfl
  unfold execPositionWipe
  dsimp only
  repeat' split
  all_goals simpa [pin] using hs

theorem execSetParameter_balanced (c : Port) (n : Byte) (v : Half) (hs : s.ledger.balanced) :
    NextBalanced (execSetParameter c n v s) := by
  unfold execSetParameter
  split <;> exact (nextBalanced_next _).2 hs

theorem execNoticeSetup_balanced (c : Port) (m t : Byte) (a : Half) (hs : s.ledger.balanced) :
    NextBalanced (execNoticeSetup c m t a s) := by
  unfold execNoticeSetup
  split <;> simpa using hs

theorem execNoticeRead_balanced (c : Port) (n : Byte) (hs : s.ledger.balanced) :
    NextBalanced (execNoticeRead c n s) := by
  unfold execNoticeRead
  split <;> simpa using hs

theorem execResultReturn_balanced (c : Port) (hs : s.ledger.balanced) : NextBalanced (execResultReturn c s) := by
  unfold execResultReturn
  split <;> simpa using hs

theorem execAnnounce_balanced (p : PositionId) (kc kn : Byte) (hs : s.ledger.balanced) :
    NextBalanced (execAnnounce p kc kn s) := by
  unfold execAnnounce
  dsimp only
  split
  case h_3 => simpa using linkLoss_balanced p .reannounce (s := s.takeDelivered p (.announce kc kn)) hs
  all_goals simpa using hs

theorem execLossTimerExpiry_balanced (p : PositionId) (hs : s.ledger.balanced) :
    NextBalanced (execLossTimerExpiry p s) := by
  unfold execLossTimerExpiry
  split
  case h_1 => simpa using hs
  case h_2 due _ =>
    dsimp only
    split
    case h_1 => simpa using linkLoss_balanced p .timeout (s := s.reach due) hs
    all_goals simpa using hs

theorem execSignalChange_balanced (l : LineId) (now : Signals) (hs : s.ledger.balanced) :
    NextBalanced (execSignalChange l now s) := by
  have handed : ({ s with highway := s.highway.set l ((s.highway.get l).taken now) } : State).ledger.balanced := hs
  simpa [execSignalChange] using signalEvent_balanced l now handed

theorem execBurstExpiry_balanced (l : LineId) (hs : s.ledger.balanced) : NextBalanced (execBurstExpiry l s) := by
  unfold execBurstExpiry
  split <;> simpa using hs

theorem execAnswerWaitExpiry_balanced (l : LineId) (hs : s.ledger.balanced) :
    NextBalanced (execAnswerWaitExpiry l s) := by
  unfold execAnswerWaitExpiry
  dsimp only
  repeat' split
  all_goals simpa using hs

theorem execHoldExpiry_balanced (l : LineId) (hs : s.ledger.balanced) : NextBalanced (execHoldExpiry l s) := by
  unfold execHoldExpiry
  split <;> simpa using hs

theorem execRecallExpiry_balanced (l : LineId) (hs : s.ledger.balanced) : NextBalanced (execRecallExpiry l s) := by
  unfold execRecallExpiry
  split <;> simpa using hs

theorem execGuardExpiry_balanced (l : LineId) (hs : s.ledger.balanced) : NextBalanced (execGuardExpiry l s) := by
  unfold execGuardExpiry
  dsimp only
  repeat' split
  all_goals simpa using hs

theorem execDenyTimerExpiry_balanced (p : PositionId) (x : LampId) (hs : s.ledger.balanced) :
    NextBalanced (execDenyTimerExpiry p x s) := by
  unfold execDenyTimerExpiry
  split
  case h_1 due _ =>
    rw [nextBalanced_next, finish_ledger]
    exact setPosition_balanced (s := s.reach due) hs rfl rfl
  case h_2 => simpa using hs

theorem changePhase_handsets (clock : Nat) (c : Cadence) (x : Position) :
    (x.changePhase clock c).h0 = x.h0 ∧ (x.changePhase clock c).h1 = x.h1 := by
  unfold Position.changePhase
  repeat' split
  all_goals exact ⟨rfl, rfl⟩

theorem execCadenceTimerExpiry_balanced (p : PositionId) (hs : s.ledger.balanced) :
    NextBalanced (execCadenceTimerExpiry p s) := by
  unfold execCadenceTimerExpiry
  split
  case h_1 c _ =>
    split
    case isTrue =>
      obtain ⟨same_h0, same_h1⟩ := changePhase_handsets (s.reach c.due).clock c ((s.reach c.due).position p)
      rw [nextBalanced_next]
      exact setPosition_balanced (s := s.reach c.due) hs (by rw [same_h0]) (by rw [same_h1])
    case isFalse => simpa using hs
  case h_2 => simpa using hs

theorem execFloorTimerExpiry_balanced (g : GroupId) (p : PositionId) (hs : s.ledger.balanced) :
    NextBalanced (execFloorTimerExpiry g p s) := by
  unfold execFloorTimerExpiry
  split <;> simpa using hs

theorem execAgeTimerExpiry_balanced (c : Port) (hs : s.ledger.balanced) : NextBalanced (execAgeTimerExpiry c s) := by
  unfold execAgeTimerExpiry
  split <;> simpa using hs

theorem execQuietAsserted_balanced (hs : s.ledger.balanced) : NextBalanced (execQuietAsserted s) := by
  have forced : ({ s with quietPin := true, quiet := .on } : State).ledger.balanced := hs
  unfold execQuietAsserted
  split
  · exact (nextBalanced_next _).2 hs
  all_goals simpa using forced

theorem execQuietDeasserted_balanced (hs : s.ledger.balanced) : NextBalanced (execQuietDeasserted s) := by
  have released : ({ s with quietPin := false, quiet := s.quietAfter } : State).ledger.balanced := hs
  unfold execQuietDeasserted
  split
  · simpa using released
  all_goals exact (nextBalanced_next _).2 hs

/-- Every command that answers a next state keeps the ledger in balance. -/
theorem exec_balanced (i : Instr) (hs : s.ledger.balanced) : NextBalanced (exec i s) := by
  cases i with
  | powerOnReset q m => exact (nextBalanced_next _).2 (powerOn_balanced q m)
  | lineConfigure c l k b r => exact execLineConfigure_balanced c l k b r hs
  | lineService c l d => exact execLineService_balanced c l d hs
  | lineStatusRead c l => exact execLineStatusRead_balanced c l hs
  | lineClearMissed c l => exact execLineClearMissed_balanced c l hs
  | keyInject c p k x n d => exact execKeyInject_balanced c p k x n d hs
  | positionConfigure c p sw al hstep rstep t => exact execPositionConfigure_balanced c p sw al hstep rstep t hs
  | positionStatusRead c p => exact execPositionStatusRead_balanced c p hs
  | groupDefine c g t f => exact execGroupDefine_balanced c g t f hs
  | groupUndefine c g => exact execGroupUndefine_balanced c g hs
  | memberAdd c g p k => exact execMemberAdd_balanced c g p k hs
  | memberRemove c g p => exact execMemberRemove_balanced c g p hs
  | groupStatusRead c g => exact execGroupStatusRead_balanced c g hs
  | planSet c p n sk sn lv ls tb => exact execPlanSet_balanced c p n sk sn lv ls tb hs
  | planPosition c p d f => exact execPlanPosition_balanced c p d f hs
  | mixApply c p => exact execMixApply_balanced c p hs
  | speakerStatusRead c p => exact execSpeakerStatusRead_balanced c p hs
  | speakersResume c => exact execSpeakersResume_balanced c hs
  | levelRead c k n => exact execLevelRead_balanced c k n hs
  | pageLoad c pg sl k t a => exact execPageLoad_balanced c pg sl k t a hs
  | pageCommit c pg => exact execPageCommit_balanced c pg hs
  | pageDiscard c => exact (nextBalanced_next _).2 hs
  | guardSet c p g => exact execGuardSet_balanced c p g hs
  | entryRead c p k => exact execEntryRead_balanced c p k hs
  | positionWipe c p mnt => exact execPositionWipe_balanced c p mnt hs
  | portReset c tag => exact (nextBalanced_next _).2 hs
  | setParameter c n v => exact execSetParameter_balanced c n v hs
  | parameterRead c => exact (nextBalanced_next _).2 hs
  | noticeSetup c m t a => exact execNoticeSetup_balanced c m t a hs
  | noticeRead c n => exact execNoticeRead_balanced c n hs
  | requestFrame c bytes => exact (nextBalanced_next _).2 (by rwa [transfer_ledger])
  | malformedFrame c bytes => exact (nextBalanced_next _).2 (by rwa [transfer_ledger])
  | statusPoll c bytes => exact (nextBalanced_next _).2 (by rwa [transfer_ledger])
  | pureRead c bytes => exact (nextBalanced_next _).2 (by rwa [transfer_ledger])
  | resultReturn c => exact execResultReturn_balanced c hs
  | keyDown p k =>
    refine turretEvent_balanced p _ hs fun t ht => ?_
    split
    · exact pressKey_balanced p k .turret ht
    · exact ht
  | hold p => exact turretEvent_balanced p _ hs fun t ht => holdKey_balanced p .turret ht
  | release p => exact turretEvent_balanced p _ hs fun t ht => releaseSlot_balanced p _ ht
  | answer p => exact turretEvent_balanced p _ hs fun t ht => answerHead_balanced p _ .turret ht
  | privacy p => exact turretEvent_balanced p _ hs fun t ht => by simpa using ht
  | selectH0 p => exact turretEvent_balanced p _ hs fun t ht => by simpa using ht
  | selectH1 p => exact turretEvent_balanced p _ hs fun t ht => by simpa using ht
  | ringSilence p => exact turretEvent_balanced p _ hs fun t ht => by simpa using ht
  | spkMute p n => exact turretEvent_balanced p _ hs fun t ht => by simpa [State.spkMuteKey] using ht
  | spkTalkDown p n => exact turretEvent_balanced p _ hs fun t ht => by simpa [State.spkTalkDownKey] using ht
  | spkTalkUp p n => exact turretEvent_balanced p _ hs fun t ht => by simpa using ht
  | hookOn p h => exact turretEvent_balanced p _ hs fun t ht => hookOnEvent_balanced p h ht
  | hookOff p h => exact turretEvent_balanced p _ hs fun t ht => hookOffEvent_balanced p h ht
  | knob p j a b =>
    refine turretEvent_balanced p _ hs fun t ht => ?_
    split <;> simpa using ht
  | turretFrame p f => exact (nextBalanced_next _).2 hs
  | announce p kc kn => exact execAnnounce_balanced p kc kn hs
  | lossTimerExpiry p => exact execLossTimerExpiry_balanced p hs
  | linkUpAttach p => exact (nextBalanced_next _).2 (by rwa [finish_ledger, linkUpTakes_ledger, setLink_ledger])
  | highwayFrame slots => exact (nextBalanced_next _).2 hs
  | signalChange l now => exact execSignalChange_balanced l now hs
  | burstExpiry l => exact execBurstExpiry_balanced l hs
  | answerWaitExpiry l => exact execAnswerWaitExpiry_balanced l hs
  | holdExpiry l => exact execHoldExpiry_balanced l hs
  | recallExpiry l => exact execRecallExpiry_balanced l hs
  | guardExpiry l => exact execGuardExpiry_balanced l hs
  | denyTimerExpiry p x => exact execDenyTimerExpiry_balanced p x hs
  | cadenceTimerExpiry p => exact execCadenceTimerExpiry_balanced p hs
  | floorTimerExpiry g p => exact execFloorTimerExpiry_balanced g p hs
  | ageTimerExpiry c => exact execAgeTimerExpiry_balanced c hs
  | quietAsserted => exact execQuietAsserted_balanced hs
  | quietDeasserted => exact execQuietDeasserted_balanced hs
  | samplePeriod => exact (nextBalanced_next _).2 (by rwa [period_ledger])

/-- A step takes the front command, and waiting commands are not in the ledger. -/
theorem step_balanced (hs : s.ledger.balanced) : NextBalanced (step s) := by
  unfold step
  split
  case h_1 => exact (nextBalanced_next s).2 hs
  case h_2 c rest _ => exact exec_balanced c (s := { s with pending := rest }) hs

/-- Settles O4: the term count agrees with the configuration just when the ledger is in balance, and every step keeps
the balance. -/
theorem stepKeepsTermCount : Obligations.StepKeepsTermCount := by
  refine ⟨fun _ _ => rfl, fun s t hs stepped => ?_⟩
  rw [termsAgree_iff] at hs ⊢
  exact step_balanced hs t stepped

end Sys2Proof.Machine
end

section
/-! PROOFS. Line records: who is a party (R2), and which changes of a record keep it well-formed (R2 to R5). -/

namespace Sys2Proof.Machine

-- One theorem after another: side by side they hold the memory of too many stacks.
set_option Elab.async false

/-! ### Parties -/

@[simp] theorem Party.is_iff {p : PositionId} {path : Path} {x : Party} :
    x.is p path = true ↔ x.position = p ∧ x.path = path := by
  simp [Party.is]

@[simp] theorem Take.party_is (t : Take) : t.party.is t.position t.path = true := by
  simp [Take.party]

/-- Position `p` has a party with this path on the line. -/
def Line.seats (x : Line) (p : PositionId) (path : Path) : Prop :=
  ∃ y ∈ x.parties, y.position = p ∧ y.path = path

theorem Line.party?_isSome {x : Line} {p : PositionId} {path : Path} :
    (x.party? p path).isSome = true ↔ x.seats p path := by
  simp [Line.party?, Line.seats]

theorem Line.party?_eq_none {x : Line} {p : PositionId} {path : Path} :
    x.party? p path = none ↔ ¬x.seats p path := by
  simp [← Line.party?_isSome]

theorem Line.of_party? {x : Line} {p : PositionId} {path : Path} {y : Party} (h : x.party? p path = some y) :
    y ∈ x.parties ∧ y.position = p ∧ y.path = path :=
  ⟨List.mem_of_find?_eq_some h, by simpa using List.find?_some h⟩

theorem Line.mem_without {x : Line} {p : PositionId} {path : Path} {y : Party} :
    y ∈ x.without p path ↔ y ∈ x.parties ∧ ¬(y.position = p ∧ y.path = path) := by
  simp [Line.without, ← Party.is_iff]

theorem Line.isPrincipal_iff {x : Line} {p : PositionId} {path : Path} :
    x.isPrincipal p path = true ↔ ∃ y, x.principal = some y ∧ y.position = p ∧ y.path = path := by
  unfold Line.isPrincipal
  cases x.principal <;> simp

/-- On a well-formed line position and path name one party. -/
theorem Line.ok.unique {x : Line} (h : x.ok) {y z : Party} (hy : y ∈ x.parties) (hz : z ∈ x.parties)
    (position : y.position = z.position) (path : y.path = z.path) : y = z :=
  List.inj_on_of_nodup_map h.distinct hy hz (by rw [position, path])

theorem Line.ok.party? {x : Line} (h : x.ok) {y : Party} (hy : y ∈ x.parties) :
    x.party? y.position y.path = some y := by
  have found : (x.party? y.position y.path).isSome = true := Line.party?_isSome.2 ⟨y, hy, rfl, rfl⟩
  obtain ⟨z, hz⟩ := Option.isSome_iff_exists.1 found
  obtain ⟨mem, position, path⟩ := Line.of_party? hz
  rw [hz, h.unique mem hy position path]

theorem Line.ok.no_parties {x : Line} (h : x.ok) (state : x.state.partyless = true) : x.parties = [] := by
  simpa [state] using h.partyless

theorem Line.ok.no_owner {x : Line} (h : x.ok) (state : x.state.hasOwner = false) : x.holdOwner = none := by
  simpa [state] using h.holdOwner

theorem Line.ok.not_privateHold {x : Line} (h : x.ok) (state : x.state.hasOwner = false) : x.privateHold = false := by
  rw [Bool.eq_false_iff]
  intro e
  simpa [h.no_owner state] using h.privateHold e

/-- A line with a party is in a call (R4). -/
theorem Line.ok.in_call {x : Line} (h : x.ok) {y : Party} (hy : y ∈ x.parties) :
    x.state = .calling ∨ x.state = .active := by
  have call : x.state.partyless = false := by
    rw [← h.partyless]
    exact List.isEmpty_eq_false_iff.2 (List.ne_nil_of_mem hy)
  cases e : x.state <;> simp_all [LineState.partyless]

theorem Line.ok.no_privacy {x : Line} (h : x.ok) (state : x.state.partyless = true) : x.privacy = false := by
  rw [Bool.eq_false_iff]
  intro e
  simpa [Line.principal, h.no_parties state] using h.privacy e

/-! ### Records that stay well-formed -/

/-- A change of a record that keeps its parties and its hold owner keeps it well-formed, if its new state admits its other
new values. -/
theorem Line.ok.changed {x y : Line} (h : x.ok) (parties : y.parties = x.parties)
    (owner : y.holdOwner = x.holdOwner) (privateHold : y.privateHold = x.privateHold)
    (partyless : y.state.partyless = x.state.partyless) (hasOwner : y.state.hasOwner = x.state.hasOwner)
    (privacy : y.privacy = true → x.principal.isSome = true) (seized : y.sz = y.state.seizes)
    (rings : y.rg = true → y.state = .calling ∨ y.state = .active)
    (timer : ∀ t, y.timer = some t → y.state.mayRun t.purpose = true)
    (guardTimed : y.state = .guard → y.timer.isSome = true) (missed : y.missed ≤ 15) : y.ok where
  atMostEight := parties ▸ h.atMostEight
  distinct := parties ▸ h.distinct
  keyOfHandset := parties ▸ h.keyOfHandset
  handsetTalkCapable := parties ▸ h.handsetTalkCapable
  partyless := by rw [parties, partyless, h.partyless]
  holdOwner := by rw [owner, hasOwner, h.holdOwner]
  privateHold := by rw [privateHold, owner]; exact h.privateHold
  privacy := by simpa only [Line.principal, parties] using privacy
  seized := seized
  rings := rings
  timer := timer
  guardTimed := guardTimed
  missed := missed

/-- Every record without parties, hold owner and call signals is well-formed in a state that asks for none of them. -/
theorem Line.ok.cleared {y : Line} (parties : y.parties = []) (owner : y.holdOwner = none)
    (privateHold : y.privateHold = false) (partyless : y.state.partyless = true) (hasOwner : y.state.hasOwner = false)
    (privacy : y.privacy = false) (sz : y.sz = y.state.seizes) (rg : y.rg = false)
    (timer : ∀ t, y.timer = some t → y.state.mayRun t.purpose = true)
    (guardTimed : y.state = .guard → y.timer.isSome = true) (missed : y.missed ≤ 15) : y.ok where
  atMostEight := by simp [parties]
  distinct := by simp [parties]
  keyOfHandset := by simp [parties]
  handsetTalkCapable := by simp [parties]
  partyless := by simp [parties, partyless]
  holdOwner := by simp [owner, hasOwner]
  privateHold := by simp [privateHold]
  privacy := by simp [privacy]
  seized := sz
  rings := by simp [rg]
  timer := timer
  guardTimed := guardTimed
  missed := missed

theorem Line.ok.configured {x : Line} (h : x.ok) (k : LineClass) (b : BargePolicy) (r : Ringdown) :
    ({ x with cls := k, barge := b, ringdown := r } : Line).ok :=
  h.changed rfl rfl rfl rfl rfl h.privacy h.seized h.rings h.timer h.guardTimed h.missed

theorem Line.ok.signalled {x : Line} (h : x.ok) (now : Signals) : ({ x with signals := now } : Line).ok :=
  h.changed rfl rfl rfl rfl rfl h.privacy h.seized h.rings h.timer h.guardTimed h.missed

theorem Line.ok.missedCleared {x : Line} (h : x.ok) : ({ x with missed := 0 } : Line).ok :=
  h.changed rfl rfl rfl rfl rfl h.privacy h.seized h.rings h.timer h.guardTimed (Nat.zero_le _)

/-- Entry to GUARD of a line without parties and hold owner (R9). -/
theorem Line.ok.guarded {x : Line} (parties : x.parties = []) (owner : x.holdOwner = none)
    (privateHold : x.privateHold = false) (missed : x.missed ≤ 15) (due : Nat) :
    (x.guarded (some ⟨.guard, due⟩)).ok :=
  .cleared parties owner privateHold rfl rfl rfl rfl rfl
    (by rintro t ⟨⟩; rfl) (fun _ => rfl) missed

theorem Line.ok.guarded_of_state {x : Line} (h : x.ok) (partyless : x.state.partyless = true)
    (hasOwner : x.state.hasOwner = false) (due : Nat) : (x.guarded (some ⟨.guard, due⟩)).ok :=
  .guarded (h.no_parties partyless) (h.no_owner hasOwner) (h.not_privateHold hasOwner) h.missed due

/-- A change of the flags of one channel party keeps position, path and key of every party. -/
theorem Line.mapParty_seats (x : Line) (p : PositionId) (path : Path) (f : Party → Party)
    (keeps : ∀ y, (f y).position = y.position ∧ (f y).path = y.path ∧ (f y).key = y.key) :
    (x.mapParty p path f).parties.map (fun y => (y.position, y.path, y.key)) =
      x.parties.map fun y => (y.position, y.path, y.key) := by
  simp only [Line.mapParty, List.map_map]
  apply List.map_congr_left
  intro y _
  simp only [Function.comp_apply]
  split <;> simp [keeps]

/-- A change of party flags keeps a record well-formed when handset parties stay talk-capable. -/
theorem Line.ok.mapParty {x : Line} (h : x.ok) (p : PositionId) (path : Path) (f : Party → Party)
    (keeps : ∀ y, (f y).position = y.position ∧ (f y).path = y.path ∧ (f y).key = y.key)
    (capable : ∀ y, y.path = path → path.isHandset = true → (f y).talkCapable = y.talkCapable) :
    (x.mapParty p path f).ok := by
  have path_eq : ∀ y : Party, (if y.is p path then f y else y).path = y.path := by
    intro y; split <;> simp [keeps]
  have seat_eq : ∀ y : Party, ((if y.is p path then f y else y).position, (if y.is p path then f y else y).path) =
      (y.position, y.path) := by
    intro y; split <;> simp [keeps]
  have principal : (x.mapParty p path f).principal.isSome = x.principal.isSome := by
    simp only [Line.principal, Line.mapParty, List.find?_map, Option.isSome_map]
    congr 2
    funext y
    rw [Function.comp_apply, path_eq]
  exact {
    atMostEight := by simpa [Line.mapParty] using h.atMostEight
    distinct := by
      have : (x.mapParty p path f).parties.map (fun y => (y.position, y.path)) =
          x.parties.map fun y => (y.position, y.path) := by
        simp only [Line.mapParty, List.map_map]
        exact List.map_congr_left fun y _ => seat_eq y
      rw [this]; exact h.distinct
    keyOfHandset := by
      intro y hy
      obtain ⟨z, hz, rfl⟩ := List.mem_map.1 hy
      have := h.keyOfHandset z hz
      split <;> simp [keeps, this]
    handsetTalkCapable := by
      intro y hy
      obtain ⟨z, hz, rfl⟩ := List.mem_map.1 hy
      have talks := h.handsetTalkCapable z hz
      split
      · next e =>
        obtain ⟨-, zpath⟩ := Party.is_iff.1 e
        intro hs
        rw [(keeps z).2.1] at hs
        rw [capable z zpath (zpath ▸ hs), talks hs]
      · exact talks
    partyless := by simpa [Line.mapParty] using h.partyless
    holdOwner := h.holdOwner
    privateHold := h.privateHold
    privacy := by rw [principal]; exact h.privacy
    seized := h.seized
    rings := h.rings
    timer := h.timer
    guardTimed := h.guardTimed
    missed := h.missed }

/-! ### Takes -/

/-- A taken take of a well-formed line in a call finds no such party, and room for it (R14). -/
theorem judgeBarge_ok {x : Line} {t : Take} (h : judgeBarge x t = .ok) :
    ¬x.seats t.position t.path ∧ x.barge = .openPolicy ∧ x.privacy = false ∧ x.parties.length < Config.maxParties := by
  unfold judgeBarge at h
  rw [← Line.party?_eq_none]
  cases party : x.party? t.position t.path <;> cases barge : x.barge <;> cases privacy : x.privacy <;>
    simp [party, barge, privacy] at h ⊢
  grind

/-- The states in which a take can be taken (R11). -/
theorem judgeTake_ok {x : Line} {t : Take} (h : judgeTake x t = .ok) :
    x.state = .idle ∨ x.state = .ringing ∨
      ((x.state = .calling ∨ x.state = .active) ∧ judgeBarge x t = .ok) ∨
      ((x.state = .held ∨ x.state = .recall) ∧ judgePickup x t = .ok) := by
  unfold judgeTake at h
  cases e : x.state <;> simp_all

/-- A taken take appends its party: outside a call a well-formed line has none (R4, R12 to R15). -/
theorem Line.ok.afterTake_parties {x : Line} (h : x.ok) {t : Take} (judged : judgeTake x t = .ok)
    (burst : Option LineTimer) : (x.afterTake burst t).parties = x.parties ++ [t.party] := by
  have none_of : x.state.partyless = true → x.parties = [] := h.no_parties
  rcases judgeTake_ok judged with e | e | ⟨e | e, -⟩ | ⟨e | e, -⟩ <;>
    simp [Line.afterTake, e, none_of, LineState.partyless]
  split <;> rfl

/-- A taken take finds no party with its position and path. -/
theorem Line.ok.not_seats_of_judgeTake {x : Line} (h : x.ok) {t : Take} (judged : judgeTake x t = .ok) :
    ¬x.seats t.position t.path := by
  rintro ⟨y, hy, seat⟩
  have call := h.in_call hy
  rcases judgeTake_ok judged with e | e | ⟨-, barge⟩ | ⟨e, -⟩
  · simp [e] at call
  · simp [e] at call
  · exact (judgeBarge_ok barge).1 ⟨y, hy, seat⟩
  · rcases e with e | e <;> simp [e] at call

/-- A taken take leaves a well-formed line: it seizes, its party is new, and a burst runs its timer (R12 to R15). -/
theorem Line.ok.afterTake {x : Line} (h : x.ok) {t : Take} (judged : judgeTake x t = .ok)
    (key : t.key.isSome = t.path.isHandset) (capable : t.path.isHandset = true → t.talkCapable = true) (due : Nat) :
    (x.afterTake (some ⟨.burst, due⟩) t).ok := by
  have new := h.not_seats_of_judgeTake judged
  have alone : ∀ y : Line, y.parties = [t.party] → y.privacy = false → y.holdOwner = none → y.privateHold = false →
      y.state = .calling ∨ y.state = .active → y.sz = true →
      (∀ u, y.timer = some u → y.state.mayRun u.purpose = true) → y.missed ≤ 15 → y.ok := by
    intro y parties privacy owner privateHold call sz timer missed
    exact {
      atMostEight := by simp [parties, Config.maxParties]
      distinct := by simp [parties]
      keyOfHandset := by simpa [parties, Take.party] using key
      handsetTalkCapable := by simpa [parties, Take.party] using capable
      partyless := by rcases call with e | e <;> simp [parties, e, LineState.partyless]
      holdOwner := by rcases call with e | e <;> simp [owner, e, LineState.hasOwner]
      privateHold := by simp [privateHold]
      privacy := by simp [privacy]
      seized := by rcases call with e | e <;> simp [sz, e, LineState.seizes]
      rings := fun _ => call
      timer := timer
      guardTimed := by rcases call with e | e <;> simp [e]
      missed := missed }
  have missed := h.missed
  rcases judgeTake_ok judged with e | e | ⟨call, barge⟩ | ⟨e, -⟩
  · have owner := h.no_owner (by simp [e, LineState.hasOwner])
    have notPrivate := h.not_privateHold (by simp [e, LineState.hasOwner])
    unfold Line.afterTake
    simp only [e]
    split <;> apply alone <;> simp [owner, notPrivate, LineState.mayRun]
  · have owner := h.no_owner (by simp [e, LineState.hasOwner])
    have notPrivate := h.not_privateHold (by simp [e, LineState.hasOwner])
    unfold Line.afterTake
    simp only [e]
    apply alone <;> simp [owner, notPrivate]
  · have joined : x.afterTake (some ⟨.burst, due⟩) t = { x with parties := x.parties ++ [t.party] } := by
      rcases call with e | e <;> simp [Line.afterTake, e]
    obtain ⟨-, -, notPrivate, room⟩ := judgeBarge_ok barge
    rw [joined]
    exact { h with
      atMostEight := by simpa using room
      distinct := by
        rw [List.map_append, List.nodup_append]
        refine ⟨h.distinct, by simp, ?_⟩
        rintro a ha b hb rfl
        obtain ⟨y, hy, e⟩ := List.mem_map.1 ha
        have : (y.position, y.path) = (t.position, t.path) := by simpa [Take.party, e] using hb
        exact new ⟨y, hy, (Prod.mk.inj this).1, (Prod.mk.inj this).2⟩
      keyOfHandset := by
        simpa only [List.forall_mem_append, List.forall_mem_singleton] using ⟨h.keyOfHandset, key⟩
      handsetTalkCapable := by
        simpa only [List.forall_mem_append, List.forall_mem_singleton] using ⟨h.handsetTalkCapable, capable⟩
      partyless := by rcases call with e | e <;> simp [e, LineState.partyless]
      privacy := by simp [notPrivate] }
  · have sz : x.sz = true := by rw [h.seized]; rcases e with e | e <;> simp [e, LineState.seizes]
    have taken : x.afterTake (some ⟨.burst, due⟩) t = { x with
        state := .active, parties := [t.party], privacy := false, holdOwner := none, privateHold := false
        timer := none } := by
      rcases e with e | e <;> simp [Line.afterTake, e]
    rw [taken]
    apply alone <;> simp [sz, missed]

/-! ### Leaves and holds -/

/-- A leave leaves the other parties in their order. -/
@[simp] theorem Line.afterLeave_parties (x : Line) (timer : Option LineTimer) (p : PositionId) (path : Path) :
    (x.afterLeave timer p path).parties = x.without p path := by
  unfold Line.afterLeave
  dsimp only
  split <;> rename_i e <;> simp [Line.guarded, e]

@[simp] theorem Line.afterLeave_holdOwner (x : Line) (timer : Option LineTimer) (p : PositionId) (path : Path) :
    (x.afterLeave timer p path).holdOwner = x.holdOwner := by
  unfold Line.afterLeave
  dsimp only
  split <;> rfl

/-- The principal stays while another party leaves. -/
theorem Line.principal_without {x : Line} {p : PositionId} {path : Path} {y : Party} (h : x.principal = some y)
    (other : ¬(y.position = p ∧ y.path = path)) :
    ((x.without p path).find? fun z => z.path.isHandset).isSome = true := by
  rw [List.find?_isSome]
  exact ⟨y, Line.mem_without.2 ⟨List.mem_of_find?_eq_some h, other⟩, by simpa using List.find?_some h⟩

theorem Line.ok.afterLeave {x : Line} (h : x.ok) {p : PositionId} {path : Path} (seat : x.seats p path) (due : Nat) :
    (x.afterLeave (some ⟨.guard, due⟩) p path).ok := by
  obtain ⟨y, hy, -⟩ := seat
  have call := h.in_call hy
  have noOwner : x.state.hasOwner = false := by rcases call with e | e <;> simp [e, LineState.hasOwner]
  unfold Line.afterLeave
  dsimp only
  split
  · next e =>
    exact Line.ok.guarded (x := { x with
      parties := x.without p path, privacy := x.privacy && !x.isPrincipal p path }) e
      (h.no_owner noOwner) (h.not_privateHold noOwner) h.missed due
  · next z zs e =>
    have sub : List.Sublist (x.without p path) x.parties := List.filter_sublist
    exact { h with
      atMostEight := sub.length_le.trans h.atMostEight
      distinct := h.distinct.sublist (sub.map _)
      keyOfHandset := fun a ha => h.keyOfHandset a (sub.subset ha)
      handsetTalkCapable := fun a ha => h.handsetTalkCapable a (sub.subset ha)
      partyless := by rcases call with s | s <;> simp [s, e, LineState.partyless]
      privacy := by
        intro pr
        obtain ⟨on, notPrincipal⟩ : x.privacy = true ∧ x.isPrincipal p path = false := by simpa using pr
        obtain ⟨w, hw⟩ := Option.isSome_iff_exists.1 (h.privacy on)
        refine Line.principal_without hw fun same => ?_
        rw [Line.isPrincipal_iff.2 ⟨w, hw, same⟩] at notPrincipal
        cases notPrincipal }

theorem Line.ok.onHold {x : Line} (h : x.ok) {y : Party} (hy : y ∈ x.parties) (o : KeyRef) {timer : Option LineTimer}
    (purpose : ∀ t, timer = some t → t.purpose = .hold) : (x.onHold timer (some o)).ok := by
  have sz : x.sz = true := by
    rw [h.seized]
    rcases h.in_call hy with e | e <;> simp [e, LineState.seizes]
  exact {
    atMostEight := by simp [Line.onHold]
    distinct := by simp [Line.onHold]
    keyOfHandset := by simp [Line.onHold]
    handsetTalkCapable := by simp [Line.onHold]
    partyless := rfl
    holdOwner := rfl
    privateHold := fun _ => rfl
    privacy := by simp [Line.onHold]
    seized := by simp [Line.onHold, sz, LineState.seizes]
    rings := by simp [Line.onHold]
    timer := by
      intro t ht
      rw [purpose t ht]; rfl
    guardTimed := by simp [Line.onHold]
    missed := h.missed }

end Sys2Proof.Machine
end

section
/-! PROOFS. The floor of a group: each change of it as one written group record with its notices, and that the record
keeps R74 and R75. -/

namespace Sys2Proof.Machine

-- One theorem after another: side by side they hold the memory of too many stacks.
set_option Elab.async false

/-! ### Order by class -/

/-- An entry inserted by class is added, and no other entry changes. -/
theorem insertByClass_perm {α : Type} (cls : α → LineClass) (e : α) (q : List α) :
    (insertByClass cls e q).Perm (e :: q) := by
  unfold insertByClass
  split
  · refine List.perm_middle.trans (List.Perm.cons e ?_)
    rw [List.takeWhile_append_dropWhile]
  · exact List.perm_append_comm

theorem mem_insertByClass {α : Type} {cls : α → LineClass} {e x : α} {q : List α} :
    x ∈ insertByClass cls e q ↔ x = e ∨ x ∈ q := by
  rw [(insertByClass_perm cls e q).mem_iff, List.mem_cons]

theorem byClass.filter {α : Type} {cls : α → LineClass} {q : List α} (h : byClass cls q) (f : α → Bool) :
    byClass cls (q.filter f) := List.Pairwise.filter f h

/-- Inserting by class keeps the order by class (R50, R83). -/
theorem byClass.insert {α : Type} {cls : α → LineClass} {q : List α} (h : byClass cls q) (e : α) :
    byClass cls (insertByClass cls e q) := by
  unfold insertByClass byClass
  split
  · next he =>
    refine List.pairwise_append.2 ⟨h.sublist (List.takeWhile_sublist _), List.pairwise_cons.2 ⟨?_, ?_⟩, ?_⟩
    · exact fun _ _ _ => he
    · exact h.sublist (List.dropWhile_sublist _)
    · intro a ha b _ _
      simpa using List.mem_takeWhile_imp ha
  · next he =>
    refine List.pairwise_append.2 ⟨h, List.pairwise_singleton _ _, ?_⟩
    intro a _ b hb hp
    simp_all

/-! ### Removing entries and granting the head -/

/-- The head of the waiting queue, if there is one, takes the floor with the floor timer `due` (R86). -/
def Group.headGranted (due : Option Nat) (x : Group) : Group :=
  match x.waiting with
  | [] => x
  | w :: rest => { x with talkers := x.talkers ++ [⟨w.position, w.source, due⟩], waiting := rest }

/-- The notice of the grant of the head (R86). -/
def Group.headNotices (g : GroupId) (x : Group) : List NoticeBody :=
  match x.waiting with
  | [] => []
  | w :: _ => [.floorGrant g w.position w.source true]

/-- The floor without the entries of `p`; a removed talker makes room for the head of the queue (R80, R86, R89). -/
def Group.withoutEntries (due : Option Nat) (p : PositionId) (x : Group) : Group :=
  if (x.talker? p).isSome then ((x.withoutWaiter p).withoutTalker p).headGranted due else x.withoutWaiter p

theorem grantHead_is (s : State) (g : GroupId) :
    s.grantHead g = ((s.group g).headNotices g).foldl State.raise
      (s.setGroup g ((s.group g).headGranted (s.floorDue (s.group g)))) := by
  unfold State.grantHead Group.headGranted Group.headNotices
  cases (s.group g).waiting <;> simp [State.grant, State.floorDue, State.dueIn]

theorem endTalker_is (s : State) (g : GroupId) (p : PositionId) :
    s.endTalker g p = (((s.group g).withoutTalker p).headNotices g).foldl State.raise
      (s.setGroup g (((s.group g).withoutTalker p).headGranted (s.floorDue (s.group g)))) := by
  rw [State.endTalker, grantHead_is, State.setGroup_group, State.setGroup_setGroup]
  rfl

theorem withoutWaiter_of_none {x : Group} {p : PositionId} (h : (x.waiter? p).isSome = false) : x.withoutWaiter p = x := by
  have none_of : ∀ w ∈ x.waiting, decide (w.position ≠ p) = true := by
    simpa [Group.waiter?] using h
  rw [Group.withoutWaiter, List.filter_eq_self.2 none_of]

/-- The notices of the removal of the entries of `p` (R86). -/
def Group.withoutNotices (g : GroupId) (p : PositionId) (x : Group) : List NoticeBody :=
  if (x.talker? p).isSome then ((x.withoutWaiter p).withoutTalker p).headNotices g else []

theorem removeEntries_is (s : State) (g : GroupId) (p : PositionId) :
    State.removeEntries p s g = ((s.group g).withoutNotices g p).foldl State.raise
      (s.setGroup g ((s.group g).withoutEntries (s.floorDue (s.group g)) p)) := by
  have withdrawn : (if ((s.group g).waiter? p).isSome then s.withdraw g p else s) =
      s.setGroup g ((s.group g).withoutWaiter p) := by
    split
    · rfl
    · next h => rw [withoutWaiter_of_none (by simpa using h), State.setGroup_group_self]
  unfold State.removeEntries
  simp only [withdrawn, State.setGroup_group]
  have same : ((s.group g).withoutWaiter p).talker? p = (s.group g).talker? p := rfl
  rw [same, Group.withoutEntries, Group.withoutNotices]
  split
  · rw [endTalker_is, State.setGroup_group, State.setGroup_setGroup]
    rfl
  · rfl

/-! ### The floor stays well-formed -/

/-- Of entries with different positions, the ones at other positions than a present `p` are one fewer. -/
theorem length_filter_position {α : Type} (f : α → PositionId) {xs : List α} {p : PositionId} (nd : (xs.map f).Nodup)
    (h : p ∈ xs.map f) : (xs.filter fun x => decide (f x ≠ p)).length + 1 = xs.length := by
  have one : xs.countP (fun x => decide (f x = p)) = 1 := by
    have := List.count_eq_one_of_mem nd h
    rwa [List.count_eq_countP, List.countP_map] at this
  have split := List.length_eq_countP_add_countP (fun x => decide (f x = p)) (l := xs)
  have others : xs.countP (fun x => decide ¬(decide (f x = p)) = true) = (xs.filter fun x => decide (f x ≠ p)).length := by
    rw [List.countP_eq_length_filter]
    simp
  omega

/-- A group that is well-formed but for one free place on the floor becomes well-formed by the grant of the head. -/
theorem headGranted_ok {x : Group} (due : Option Nat) (limit : 1 ≤ x.talkerLimit ∧ x.talkerLimit ≤ 8)
    (talkers : x.talkers.length + 1 ≤ x.talkerLimit) (waiting : x.waiting.length ≤ Config.maxWaiting)
    (waitsWhenFull : x.waiting ≠ [] → x.talkers.length + 1 = x.talkerLimit)
    (oneEntry : (x.talkers.map Talker.position ++ x.waiting.map Waiter.position).Nodup)
    (membersOnce : (x.members.map Member.position).Nodup)
    (talkersMembers : ∀ t ∈ x.talkers, t.position ∈ x.members.map Member.position)
    (waitersMembers : ∀ w ∈ x.waiting, w.position ∈ x.members.map Member.position)
    (ordered : byClass Waiter.cls x.waiting) (undefinedEmpty : x.defined = false → x.members = []) :
    (x.headGranted due).ok := by
  unfold Group.headGranted
  cases e : x.waiting with
  | nil =>
    exact ⟨limit, Nat.le_of_succ_le talkers, waiting, fun h => absurd e h, oneEntry, membersOnce, talkersMembers,
      waitersMembers, ordered, undefinedEmpty⟩
  | cons w rest =>
    rw [e] at waiting oneEntry waitersMembers ordered
    have full := waitsWhenFull (by simp [e])
    exact {
      limit := limit
      talkers := by simp; omega
      waiting := by simp only [List.length_cons] at waiting; dsimp only; omega
      waitsWhenFull := fun _ => by simpa using full
      oneEntry := by simpa [List.append_assoc] using oneEntry
      membersOnce := membersOnce
      talkersMembers := by
        intro t ht
        rcases List.mem_append.1 ht with h | h
        · exact talkersMembers t h
        · rw [List.mem_singleton.1 h]; exact waitersMembers w (by simp)
      waitersMembers := fun w' h => waitersMembers w' (List.mem_cons_of_mem _ h)
      ordered := (List.pairwise_cons.1 ordered).2
      undefinedEmpty := undefinedEmpty }

/-- Removing the entries of `p`, and with them possibly `p` from the members, keeps the floor well-formed (R80, R89). -/
theorem Group.ok.withoutEntries {x : Group} (h : x.ok) (due : Option Nat) (p : PositionId) {ms : List Member}
    (sub : List.Sublist ms x.members) (others : ∀ m ∈ x.members, m.position ≠ p → m ∈ ms) :
    (Group.withoutEntries due p { x with members := ms }).ok := by
  have member : ∀ q, q ≠ p → q ∈ x.members.map Member.position → q ∈ ms.map Member.position := by
    intro q hq hm
    obtain ⟨m, mem, rfl⟩ := List.mem_map.1 hm
    exact List.mem_map.2 ⟨m, others m mem hq, rfl⟩
  have once : (ms.map Member.position).Nodup := h.membersOnce.sublist (sub.map _)
  have noMembers : x.defined = false → ms = [] := fun e => List.eq_nil_of_sublist_nil (h.undefinedEmpty e ▸ sub)
  have waits : ∀ w ∈ x.waiting.filter (fun w => decide (w.position ≠ p)), w.position ∈ ms.map Member.position := by
    intro w hw
    obtain ⟨hw, ne⟩ := List.mem_filter.1 hw
    exact member _ (by simpa using ne) (h.waitersMembers w hw)
  have shorter := (List.length_filter_le (fun w : Waiter => decide (w.position ≠ p)) x.waiting).trans h.waiting
  have stillWaiting : x.waiting.filter (fun w => decide (w.position ≠ p)) ≠ [] → x.waiting ≠ [] := by
    rintro hw e; rw [e] at hw; exact hw rfl
  unfold Group.withoutEntries
  split
  · next talks =>
    have talks : p ∈ x.talkers.map Talker.position := by
      rw [Group.talker?_isSome] at talks
      simpa using talks
    have count := length_filter_position Talker.position (List.Nodup.of_append_left h.oneEntry) talks
    have atMost := h.talkers
    refine headGranted_ok due h.limit ?_ shorter ?_ ?_ once ?_ waits (h.ordered.filter _) noMembers
    · change (x.talkers.filter _).length + 1 ≤ x.talkerLimit
      omega
    · intro hw
      have := h.waitsWhenFull (stillWaiting hw)
      change (x.talkers.filter _).length + 1 = x.talkerLimit
      omega
    · exact h.oneEntry.sublist ((List.filter_sublist.map _).append (List.filter_sublist.map _))
    · intro t ht
      obtain ⟨ht, ne⟩ := List.mem_filter.1 ht
      exact member _ (by simpa using ne) (h.talkersMembers t ht)
  · next silent =>
    have silent : p ∉ x.talkers.map Talker.position := by
      rw [Group.talker?_isSome] at silent
      simpa using silent
    refine ⟨h.limit, h.talkers, shorter, fun hw => h.waitsWhenFull (stillWaiting hw), ?_, once, ?_, waits,
      h.ordered.filter _, noMembers⟩
    · exact h.oneEntry.sublist ((List.Sublist.refl _).append (List.filter_sublist.map _))
    · intro t ht
      exact member _ (fun e => silent (List.mem_map.2 ⟨t, ht, e⟩)) (h.talkersMembers t ht)

theorem Group.ok.entriesRemoved {x : Group} (h : x.ok) (due : Option Nat) (p : PositionId) :
    (x.withoutEntries due p).ok :=
  h.withoutEntries due p (ms := x.members) (List.Sublist.refl _) fun _ hm _ => hm

/-- A position has at most one entry in a group: a talker does not wait. -/
theorem Group.ok.talker_not_waiting {x : Group} (h : x.ok) {p : PositionId} (talks : (x.talker? p).isSome = true) :
    (x.waiter? p).isSome = false := by
  rw [Group.talker?_isSome] at talks
  rw [Group.waiter?_isSome]
  have apart := List.disjoint_of_nodup_append h.oneEntry
  simpa using fun hw => apart (by simpa using talks) hw

theorem Group.ok.talkerEnded {x : Group} (h : x.ok) (due : Option Nat) {p : PositionId}
    (talks : (x.talker? p).isSome = true) : ((x.withoutTalker p).headGranted due).ok := by
  have := h.entriesRemoved due p
  rwa [Group.withoutEntries, if_pos talks, withoutWaiter_of_none (h.talker_not_waiting talks)] at this

theorem Group.ok.withdrawn {x : Group} (h : x.ok) {p : PositionId} (waits : (x.waiter? p).isSome = true) :
    (x.withoutWaiter p).ok := by
  have silent : (x.talker? p).isSome = false := by
    rw [Bool.eq_false_iff]
    intro talks
    rw [h.talker_not_waiting talks] at waits
    cases waits
  have := h.entriesRemoved none p
  rwa [Group.withoutEntries, if_neg (by simp [silent])] at this

/-- A position without an entry can take one: its position stands among neither talkers nor waiters. -/
theorem Group.no_entry {x : Group} {p : PositionId} (h : ¬((x.talker? p).isSome || (x.waiter? p).isSome) = true) :
    p ∉ x.talkers.map Talker.position ∧ p ∉ x.waiting.map Waiter.position := by
  rw [Group.talker?_isSome, Group.waiter?_isSome] at h
  simpa only [Bool.or_eq_true, decide_eq_true_eq, not_or] using h

theorem Group.member_of_member? {x : Group} {p : PositionId} {m : Member} (h : x.member? p = some m) :
    p ∈ x.members.map Member.position :=
  List.mem_map.2 ⟨m, List.mem_of_find?_eq_some h, by simpa using List.find?_some h⟩

theorem Group.ok.granted {x : Group} (h : x.ok) {p : PositionId} {m : Member} (member : x.member? p = some m)
    (fresh : ¬((x.talker? p).isSome || (x.waiter? p).isSome) = true)
    (room : (decide (x.talkers.length < x.talkerLimit) && x.waiting.isEmpty) = true) (src : Path) (due : Option Nat) :
    ({ x with talkers := x.talkers ++ [⟨p, src, due⟩] } : Group).ok := by
  obtain ⟨free, empty⟩ : x.talkers.length < x.talkerLimit ∧ x.waiting = [] := by simpa using room
  exact { h with
    talkers := by simpa using free
    waitsWhenFull := fun e => absurd empty e
    oneEntry := by
      have := List.nodup_append.1 h.oneEntry
      simpa [empty, List.nodup_append] using ⟨this.1, (by simpa using (Group.no_entry fresh).1)⟩
    talkersMembers := by
      intro t ht
      rcases List.mem_append.1 ht with ht | ht
      · exact h.talkersMembers t ht
      · rw [List.mem_singleton.1 ht]; exact Group.member_of_member? member }

theorem Group.ok.queued {x : Group} (h : x.ok) {p : PositionId} {m : Member} (member : x.member? p = some m)
    (fresh : ¬((x.talker? p).isSome || (x.waiter? p).isSome) = true)
    (full : ¬(decide (x.talkers.length < x.talkerLimit) && x.waiting.isEmpty) = true)
    (room : x.waiting.length < Config.maxWaiting) (src : Path) :
    ({ x with waiting := insertByClass Waiter.cls ⟨p, src, m.cls⟩ x.waiting } : Group).ok := by
  have perm := insertByClass_perm Waiter.cls ⟨p, src, m.cls⟩ x.waiting
  obtain ⟨notTalking, notWaiting⟩ := Group.no_entry fresh
  exact { h with
    waiting := by rw [perm.length_eq]; exact room
    waitsWhenFull := by
      intro _
      by_cases e : x.waiting = []
      · have : ¬x.talkers.length < x.talkerLimit := by simpa [e] using full
        have := h.talkers
        dsimp only
        omega
      · exact h.waitsWhenFull e
    oneEntry := by
      refine (List.Perm.nodup_iff (((perm.map _).append_left _).trans List.perm_middle)).2 ?_
      refine List.nodup_cons.2 ⟨?_, h.oneEntry⟩
      rw [List.mem_append]
      exact fun e => e.elim notTalking notWaiting
    waitersMembers := by
      intro w hw
      rcases mem_insertByClass.1 hw with rfl | hw
      · exact Group.member_of_member? member
      · exact h.waitersMembers w hw
    ordered := h.ordered.insert _ }

/-- A defined group without members and entries is well-formed with any limit of 1 to 8 (R77, R78). -/
theorem Group.ok_empty (d : Bool) {t : Nat} (f : Nat) (limit : 1 ≤ t ∧ t ≤ 8) : (Group.mk d t f [] [] []).ok where
  limit := limit
  talkers := by simp
  waiting := by simp
  waitsWhenFull := by simp
  oneEntry := by simp
  membersOnce := by simp
  talkersMembers := by simp
  waitersMembers := by simp
  ordered := List.Pairwise.nil
  undefinedEmpty := fun _ => rfl

/-- New members leave the floor as it is (R79). -/
theorem Group.ok.members {x : Group} (h : x.ok) {ms : List Member} (defined : x.defined = true)
    (once : (ms.map Member.position).Nodup)
    (kept : ∀ q ∈ x.members.map Member.position, q ∈ ms.map Member.position) : ({ x with members := ms } : Group).ok :=
  { h with
    membersOnce := once
    talkersMembers := fun t ht => kept _ (h.talkersMembers t ht)
    waitersMembers := fun w hw => kept _ (h.waitersMembers w hw)
    undefinedEmpty := by simp [defined] }

end Sys2Proof.Machine
end

section
/-! PROOFS. Which notices an operation raises (R176, R183), and its links. -/

namespace Sys2Proof.Machine

-- One theorem after another: side by side they hold the memory of too many stacks.
set_option Elab.async false

/-! ### Raising notices -/

theorem Raised.of_notices {s t : State} (h : t.notices = s.notices) : Raised [] s t := by
  intro c
  simp [State.noticeQueue, h]

theorem Raised.refl (s : State) : Raised [] s s := .of_notices rfl

theorem Raised.of_frame {ch : List Part} {s t : State} (h : SameExcept ch s t)
    (hn : Part.notices ∉ ch := by decide) : Raised [] s t := .of_notices (h .notices hn)

theorem raise_raised (s : State) (b : NoticeBody) : Raised [b] s (s.raise b) := by
  intro c
  simp [State.noticeQueue, State.raise, State.dueIn]

/-- Notices raised one after the other at one clock. -/
theorem Raised.trans {as bs : List NoticeBody} {s t u : State} (h1 : Raised as s t) (h2 : Raised bs t u)
    (clock : u.clock = t.clock) : Raised (as ++ bs) s u := by
  intro c
  rw [h2 c, h1 c, List.foldl_append, clock]

theorem Raised.congr {bs : List NoticeBody} {s s' t t' : State} (h : Raised bs s t) (before : s'.notices = s.notices)
    (after : t'.notices = t.notices) (clock : t'.clock = t.clock) : Raised bs s' t' := by
  intro c
  have := h c
  simp only [State.noticeQueue] at this ⊢
  rw [before, after, clock, this]

/-- What a change that leaves the notices and the clock adds to notices that were raised before it. -/
theorem Raised.then {bs : List NoticeBody} {ch : List Part} {s t u : State} (h : Raised bs s t) (frame : SameExcept ch t u)
    (notices : Part.notices ∉ ch := by decide) (clock : Part.clock ∉ ch := by decide) : Raised bs s u :=
  h.congr rfl (frame .notices notices) (frame .clock clock)

/-- Notices raised after a change that leaves the notices. -/
theorem Raised.after {bs : List NoticeBody} {ch : List Part} {s t u : State} (frame : SameExcept ch s t)
    (h : Raised bs t u) (notices : Part.notices ∉ ch := by decide) : Raised bs s u :=
  h.congr (frame .notices notices).symm rfl rfl

theorem foldl_raise_frame (bs : List NoticeBody) (s : State) : SameExcept [.notices] s (bs.foldl State.raise s) :=
  SameExcept.foldl (fun s b => raise_frame s b) bs s

theorem foldl_raise_raised (bs : List NoticeBody) (s : State) : Raised bs s (bs.foldl State.raise s) := by
  induction bs generalizing s with
  | nil => exact Raised.refl s
  | cons b bs ih =>
    exact Raised.trans (raise_raised s b) (ih _) (foldl_raise_frame bs _ .clock (by decide))

/-- The notice of a move of a line from state `a` to state `b` (R6). -/
def stateNotices (l : LineId) (a b : LineState) : List NoticeBody := if a = b then [] else [.lineState l a b]

@[simp] theorem stateNotices_same (l : LineId) (a : LineState) : stateNotices l a a = [] := by simp [stateNotices]

theorem stateNotices_ne {a b : LineState} (l : LineId) (h : a ≠ b) : stateNotices l a b = [.lineState l a b] := by
  simp [stateNotices, h]

theorem raiseLineState_raised (s : State) (l : LineId) (a b : LineState) :
    Raised (stateNotices l a b) s (s.raiseLineState l a b) := by
  unfold State.raiseLineState stateNotices
  split
  · exact Raised.refl s
  · exact raise_raised s _

/-- A move of a line raises LINE_STATE for a change of state and nothing else (R6). -/
theorem moveLine_raised (s : State) (l : LineId) (x : Line) :
    Raised (stateNotices l (s.line l).state x.state) s (s.moveLine l x) := by
  unfold State.moveLine
  have before : SameExcept [.lines, .positions] s ((s.setLine l x).leaveRings l (s.line l).state x.state) :=
    SameExcept.step (setLine_frame s _ _) (leaveRings_frame _ _ _ _)
  have raised := (Raised.after before (raiseLineState_raised _ l (s.line l).state x.state)).then
    (joinRings_frame _ l (s.line l).state x.state)
  dsimp only
  split
  · exact raised.then (offer_frame _ _)
  · exact raised

theorem moveLine_clock (s : State) (l : LineId) (x : Line) : (s.moveLine l x).clock = s.clock :=
  moveLine_frame s l x .clock (by decide)

/-- Some notices were raised, one after the other, and no time passed. -/
def Told (s t : State) : Prop := t.clock = s.clock ∧ ∃ bs, Raised bs s t

theorem Told.refl (s : State) : Told s s := ⟨rfl, [], Raised.refl s⟩

theorem Told.trans {s t u : State} (h1 : Told s t) (h2 : Told t u) : Told s u := by
  obtain ⟨clock1, as, ha⟩ := h1
  obtain ⟨clock2, bs, hb⟩ := h2
  exact ⟨clock2.trans clock1, _, ha.trans hb clock2⟩

theorem Told.of_frame {ch : List Part} {s t : State} (h : SameExcept ch s t)
    (notices : Part.notices ∉ ch := by decide) (clock : Part.clock ∉ ch := by decide) : Told s t :=
  ⟨h .clock clock, [], .of_frame h notices⟩

theorem Told.foldl {α : Type} {f : State → α → State} (h : ∀ s a, Told s (f s a)) (xs : List α) (s : State) :
    Told s (xs.foldl f s) := by
  induction xs generalizing s with
  | nil => exact Told.refl s
  | cons x xs ih => exact (h s x).trans (ih (f s x))

variable (s : State)

theorem raise_told (b : NoticeBody) : Told s (s.raise b) := ⟨rfl, _, raise_raised s b⟩

theorem moveLine_told (l : LineId) (x : Line) : Told s (s.moveLine l x) := ⟨moveLine_clock s l x, _, moveLine_raised s l x⟩

theorem install_told (p : PositionId) (k : Key) (c : Content) : Told s (s.install p k c) :=
  ((Told.of_frame (setEntry_frame s _ _ _)).trans (Told.of_frame (directoryChanged_frame _ _ _))).trans (raise_told _ _)

theorem reportEnd_told (p : PositionId) (k : Key) : Told s (s.reportEnd p k) := by
  unfold State.reportEnd
  repeat' split
  · exact Told.refl s
  · exact install_told s _ _ _
  · exact Told.refl s

theorem reportSlot_told (p : PositionId) (old : Option Held) : Told s (s.reportSlot p old) := by
  unfold State.reportSlot
  split
  · exact reportEnd_told s _ _
  · exact Told.refl s

theorem reportOwner_told (o : Option KeyRef) : Told s (s.reportOwner o) := by
  unfold State.reportOwner
  split
  · exact reportEnd_told s _ _
  · exact Told.refl s

theorem take_told (l : LineId) (t : Take) : Told s (s.take l t).1 := by
  unfold State.take
  split
  · exact moveLine_told s _ _
  · exact Told.refl s

theorem leave_told (l : LineId) (p : PositionId) (x : Path) : Told s (s.leave l p x).1 := by
  unfold State.leave
  split
  · exact Told.refl s
  · exact moveLine_told s _ _

theorem hold_told (l : LineId) (p : PositionId) (h : Handset) : Told s (s.hold l p h).1 := by
  unfold State.hold
  repeat' split
  · exact Told.refl s
  · exact moveLine_told s _ _
  · exact leave_told s _ _ _

theorem talkRelease_told (g : GroupId) (p : PositionId) (x : Path) : Told s (s.talkRelease g p x).1 := by
  rw [talkRelease_is]
  exact (Told.of_frame (setGroup_frame s _ _)).trans (Told.foldl raise_told _ _)

theorem switchAway_told (p : PositionId) (h : Handset) (old : Option Held) : Told s (s.switchAway p h old) := by
  unfold State.switchAway
  repeat' split
  · exact Told.refl s
  · exact talkRelease_told s _ _ _
  · exact hold_told s _ _ _
  · exact leave_told s _ _ _

theorem replaceSlot_told (p : PositionId) (h : Handset) (old : Option Held) (new : Held) :
    Told s (s.replaceSlot p h old new) :=
  ((switchAway_told s p h old).trans (Told.of_frame (setSlot_frame _ _ _ _))).trans (reportSlot_told _ _ _)

theorem releaseSlot_told (p : PositionId) (h : Handset) : Told s (s.releaseSlot p h).1 := by
  unfold State.releaseSlot
  split
  · exact Told.refl s
  · exact ((leave_told s _ _ _).trans (Told.of_frame (setSlot_frame _ _ _ _))).trans (reportEnd_told _ _ _)
  · exact ((talkRelease_told s _ _ _).trans (Told.of_frame (setSlot_frame _ _ _ _))).trans (reportEnd_told _ _ _)

theorem sendTake_told (p : PositionId) (n : ChannelId) : Told s (State.sendTake p s n) := by
  unfold State.sendTake
  dsimp only
  split
  · split
    · rename_i l _ _
      have h := take_told s l (speakerTake p n (s.channel p n).talkback)
      split
      · rename_i s1 heq
        rw [heq] at h
        exact h.trans (Told.of_frame (setChannel_frame _ _ _ _))
      · exact Told.of_frame (setChannel_frame s _ _ _)
    · exact Told.refl s
  all_goals exact Told.refl s

theorem channelLinkLoss_told (p : PositionId) (n : ChannelId) : Told s (State.channelLinkLoss p s n) := by
  unfold State.channelLinkLoss
  dsimp only
  split
  · refine Told.trans ?_ (Told.of_frame (setChannel_frame _ _ _ _))
    split
    · exact leave_told s _ _ _
    · exact Told.refl s
  · refine Told.trans ?_ (Told.of_frame (setChannel_frame _ _ _ _))
    split
    · exact talkRelease_told s _ _ _
    · exact Told.refl s
  · exact Told.of_frame (setChannel_frame s _ _ _)

theorem removeEntries_told (p : PositionId) (g : GroupId) : Told s (State.removeEntries p s g) := by
  rw [removeEntries_is]
  exact (Told.of_frame (setGroup_frame s _ _)).trans (Told.foldl raise_told _ _)

/-- The live state of a position is cleared in one event at one clock. -/
theorem positionLinkLoss_told (p : PositionId) : Told s (s.positionLinkLoss p) := by
  unfold State.positionLinkLoss
  refine Told.trans ?_ (Told.of_frame (setPosition_frame _ _ _))
  refine Told.trans ?_ (Told.foldl (fun t g => removeEntries_told t p g) _ _)
  refine Told.trans ?_ (Told.foldl (fun t n => channelLinkLoss_told t p n) _ _)
  exact ((Told.of_frame (setPosition_frame s _ _)).trans (releaseSlot_told _ _ _)).trans (releaseSlot_told _ _ _)

end Sys2Proof.Machine
end

section
/-! PROOFS. The transactions of the part: every command other than POWER ON RESET and the requests about notice queues is
a sequence of them, each of which an invariant can be shown to survive once. -/

namespace Sys2Proof.Machine

-- One theorem after another: side by side they hold the memory of too many stacks.
set_option Elab.async false

/-! ### Transactions -/

/-- The parts that lines, slots, channels, bindings, ring queues, floors and knobs do not read. -/
abbrev asideParts : List Part :=
  [.pending, .clock, .offers, .lamps, .quiet, .quietPin, .mntPin, .termCount, .lineClip, .positionClip, .guards, .staging,
    .links, .turretOut, .highway, .highwayOut, .ports, .params, .notices]

/-- A position record with the slots and the ring queue as they were, and residues in range if they were. -/
structure Position.SameCore (x y : Position) : Prop where
  slot0 : y.h0.slot = x.h0.slot
  slot1 : y.h1.slot = x.h1.slot
  ringQueue : y.ringQueue = x.ringQueue
  knobs : x.knob0.ok ∧ x.knob1.ok → y.knob0.ok ∧ y.knob1.ok

/-- A line record with the same seats, hold owner and class, that is well-formed if the old one was. -/
structure Line.SameCore (x y : Line) : Prop where
  seats : y.parties.map (fun z => (z.position, z.path, z.key)) = x.parties.map fun z => (z.position, z.path, z.key)
  holdOwner : y.holdOwner = x.holdOwner
  cls : y.cls = x.cls
  ok : x.ok → y.ok

/-- One transaction: a change that the invariants of lines, slots, channels, bindings, ring queues, floors and knobs
survive. -/
inductive Moves : State → State → Prop where
  | aside {s t : State} (frame : SameExcept asideParts s t) : Moves s t
  | posted {s t : State} (frame : SameExcept [.positions] s t)
      (core : ∀ p, (s.position p).SameCore (t.position p)) : Moves s t
  | spoken {s : State} (p : PositionId) (x : Speaker) (channels : x.channels = (s.speaker p).channels)
      (steps : (s.speaker p).stepsOk → x.stepsOk) : Moves s (s.setSpeaker p x)
  | keyed {s : State} (p : PositionId) (n : ChannelId) (x : Channel) (source : x.source = (s.channel p n).source)
      (attach : x.attach = (s.channel p n).attach) (waitReason : x.waitReason = (s.channel p n).waitReason) :
      Moves s (s.setChannel p n x)
  | grouped {s : State} (g : GroupId) (x : Group) (ok : (s.group g).ok → x.ok) : Moves s (s.setGroup g x)
  | touched {s : State} (l : LineId) (x : Line) (core : (s.line l).SameCore x) (state : x.state = (s.line l).state) :
      Moves s (s.setLine l x)
  | moved {s : State} (l : LineId) (x : Line) (core : (s.line l).SameCore x) : Moves s (s.moveLine l x)
  | configured {s : State} (l : LineId) (k : LineClass) (b : BargePolicy) (r : Ringdown) :
      Moves s (s.configureLine l k b r)
  | seated {s : State} (p : PositionId) (h : Handset) (l : LineId) (k : Key) (o : Origin)
      (judged : judgeTake (s.line l) (s.handsetTake p h k o) = .ok) :
      Moves s (((s.take l (s.handsetTake p h k o)).1.replaceSlot p h (s.slot p h) ⟨.line l, k⟩).reportOwner
        (s.line l).pickedUpOwner)
  | joined {s : State} (p : PositionId) (h : Handset) (g : GroupId) (k : Key) :
      Moves s (s.replaceSlot p h (s.slot p h) ⟨.group g, k⟩)
  | released {s : State} (p : PositionId) (h : Handset) : Moves s (s.releaseSlot p h).1
  | held {s : State} (p : PositionId) (h : Handset) (l : LineId) (k : Key) (slot : s.slot p h = some ⟨.line l, k⟩) :
      Moves s (((s.hold l p h).1.setSlot p h none).reportEnd p k)
  | dropped {s : State} (g : GroupId) (p : PositionId) (h : Handset) : Moves s (State.dropGroupSlot g p s h)
  | attached {s : State} (p : PositionId) (n : ChannelId) : Moves s (State.sendTake p s n)
  | planned {s : State} (p : PositionId) (old new : Nat) : Moves s (s.installPlan p old new)
  | detached {s : State} (p : PositionId) (n : ChannelId) : Moves s (State.channelLinkLoss p s n)
  | cleared {s : State} (l : LineId) (e : LineState) (r : ResultCode) (entered : e = .fault ∨ e = .outOfService) :
      Moves s (s.clearLine l e r)
  | abandoned {s : State} (l : LineId) (onHold : (s.line l).state = .held ∨ (s.line l).state = .recall) :
      Moves s (s.abandon l)
  | committed {s : State} (c : Port) (page : Fin 128) : Moves s (s.applyPage c page).1
  | wiped {s : State} (p : PositionId) (unbound : s.anyBound p = false) : Moves s (s.wipe p)

/-- A sequence of transactions. -/
def Evolves : State → State → Prop := Relation.ReflTransGen Moves

theorem Moves.evolves {s t : State} (h : Moves s t) : Evolves s t := Relation.ReflTransGen.single h

theorem Evolves.refl {s : State} : Evolves s s := Relation.ReflTransGen.refl

theorem Evolves.trans {s t u : State} (h : Evolves s t) (k : Evolves t u) : Evolves s u := Relation.ReflTransGen.trans h k

theorem Evolves.step {s t u : State} (h : Evolves s t) (m : Moves t u) : Evolves s u := Relation.ReflTransGen.tail h m

theorem Evolves.foldl {α : Type} {f : State → α → State} (h : ∀ s a, Evolves s (f s a)) (xs : List α) (s : State) :
    Evolves s (xs.foldl f s) := by
  induction xs generalizing s with
  | nil => exact .refl
  | cons x xs ih => exact (h s x).trans (ih (f s x))

/-- A property that every transaction keeps is kept by a sequence of them. -/
theorem Evolves.keeps {P : State → Prop} (h : ∀ s t, Moves s t → P s → P t) {s t : State} (e : Evolves s t) (hs : P s) :
    P t := by
  unfold Evolves at e
  induction e with
  | refl => exact hs
  | tail _ m ih => exact h _ _ m ih

/-- A frame of parts that no invariant reads. -/
theorem Evolves.of_frame {ch : List Part} {s t : State} (h : SameExcept ch s t)
    (sub : ∀ q ∈ ch, q ∈ asideParts := by decide) : Evolves s t := (Moves.aside (h.mono sub)).evolves

theorem Position.SameCore.refl (x : Position) : x.SameCore x := ⟨rfl, rfl, rfl, id⟩

theorem Line.SameCore.of {x y : Line} (parties : y.parties = x.parties) (holdOwner : y.holdOwner = x.holdOwner)
    (cls : y.cls = x.cls) (ok : x.ok → y.ok) : x.SameCore y := ⟨by rw [parties], holdOwner, cls, ok⟩

/-- One position record written. -/
theorem Moves.position {s : State} (p : PositionId) (x : Position) (core : (s.position p).SameCore x) :
    Moves s (s.setPosition p x) := by
  refine .posted (setPosition_frame s p x) fun q => ?_
  by_cases e : q = p
  · subst e; simpa using core
  · simpa [e] using Position.SameCore.refl _

variable (s : State)

/-- A line record of the same core, through a move of the line. -/
theorem moved_evolves (l : LineId) (x : Line) (parties : x.parties = (s.line l).parties)
    (holdOwner : x.holdOwner = (s.line l).holdOwner) (cls : x.cls = (s.line l).cls) (ok : (s.line l).ok → x.ok) :
    Evolves s (s.moveLine l x) := (Moves.moved l x (.of parties holdOwner cls ok)).evolves

/-- A position record of the same slots, ring queue and residues. -/
theorem position_evolves (p : PositionId) (x : Position) (core : (s.position p).SameCore x) :
    Evolves s (s.setPosition p x) := (Moves.position p x core).evolves

/-- A channel record of the same source and attach state. -/
theorem keyed_evolves (p : PositionId) (n : ChannelId) (x : Channel) (source : x.source = (s.channel p n).source)
    (attach : x.attach = (s.channel p n).attach) (waitReason : x.waitReason = (s.channel p n).waitReason) :
    Evolves s (s.setChannel p n x) := (Moves.keyed p n x source attach waitReason).evolves

theorem raise_evolves (b : NoticeBody) : Evolves s (s.raise b) := .of_frame (raise_frame s b)

theorem foldl_raise_evolves (bs : List NoticeBody) : Evolves s (bs.foldl State.raise s) :=
  .of_frame (foldl_raise_frame bs s)

/-! ### The end of an event -/

theorem attachOpportunity_evolves (l : LineId) : Evolves s (s.attachOpportunity l) := by
  refine .foldl (fun s p => .foldl (fun s n => ?_) _ s) _ s
  unfold State.attachOne
  split
  · exact (Moves.attached p n).evolves
  · exact .refl

theorem offersCleared_evolves : Evolves s { s with offers := [] } := by
  refine (Moves.aside fun q hq => ?_).evolves
  cases q <;> first | rfl | simp at hq

theorem takeOffers_evolves : Evolves s s.takeOffers :=
  ((offersCleared_evolves s).trans (.foldl (fun s l => attachOpportunity_evolves s l) _ _)).trans
    (offersCleared_evolves _)

theorem finish_evolves : Evolves s s.finish := (takeOffers_evolves s).trans (.of_frame (sendLamps_frame _))

theorem linkUpTakes_evolves (p : PositionId) : Evolves s (s.linkUpTakes p) := by
  unfold State.linkUpTakes
  split
  · exact .foldl (fun s n => (Moves.attached p n).evolves) _ s
  · exact .refl

/-! ### Groups -/

theorem grouped_raised_evolves (g : GroupId) (x : Group) (bs : List NoticeBody) (ok : (s.group g).ok → x.ok) :
    Evolves s (bs.foldl State.raise (s.setGroup g x)) :=
  (Moves.grouped g x ok).evolves.trans (foldl_raise_evolves _ bs)

theorem talkRequest_evolves (g : GroupId) (p : PositionId) (src : Path) : Evolves s (s.talkRequest g p src).1 := by
  unfold State.talkRequest
  dsimp only
  split
  · exact .refl
  split
  · exact .refl
  · next m member =>
    split
    · exact .refl
    next fresh =>
    split
    · next room =>
      exact (Moves.grouped g _ fun h => h.granted member fresh room src _).evolves.trans (raise_evolves _ _)
    next full =>
    split
    · next room => exact (Moves.grouped g _ fun h => h.queued member fresh full room src).evolves
    · exact .refl

theorem talkRelease_evolves (g : GroupId) (p : PositionId) (src : Path) : Evolves s (s.talkRelease g p src).1 := by
  unfold State.talkRelease
  split
  · next w waits =>
    split
    · exact (Moves.grouped g _ fun h => h.withdrawn (by simp [waits])).evolves
    · exact .refl
  · split
    · next y talks =>
      split
      · rw [endTalker_is]
        exact grouped_raised_evolves s g _ _ fun h => h.talkerEnded _ (by simp [talks])
      · exact .refl
    · exact .refl

theorem removeEntries_evolves (p : PositionId) (g : GroupId) : Evolves s (State.removeEntries p s g) := by
  rw [removeEntries_is]
  exact grouped_raised_evolves s g _ _ fun h => h.entriesRemoved _ p

theorem handTimeout_setGroup_raise (g : GroupId) (x : Group) (b : NoticeBody) (p : PositionId) (src : Path) :
    ((s.setGroup g x).raise b).handTimeout p src = ((s.handTimeout p src).setGroup g x).raise b := by
  cases src with
  | handset h => rfl
  | channel n =>
    change ite ((s.channel p n).ptt = true) _ _ = State.raise (State.setGroup (ite ((s.channel p n).ptt = true) _ _) g x) b
    split <;> rfl

/-- The timeout takes the talker and its channel's hand first: only then is the head granted (R87). -/
theorem floorTimeout_is (g : GroupId) (p : PositionId) (src : Path) :
    s.floorTimeout g p src =
      (((s.group g).withoutTalker p).headNotices g).foldl State.raise
        ((((s.handTimeout p src).setGroup g ((s.group g).withoutTalker p)).raise (.floorTimeout g p src)).setGroup g
          (((s.group g).withoutTalker p).headGranted
            ((((s.handTimeout p src).setGroup g ((s.group g).withoutTalker p)).raise (.floorTimeout g p src)).floorDue
              ((s.group g).withoutTalker p)))) := by
  have same (t : State) (x : Group) (b : NoticeBody) : ((t.setGroup g x).raise b).group g = x := by simp
  rw [State.floorTimeout, handTimeout_setGroup_raise, grantHead_is, same]

theorem handTimeout_evolves (p : PositionId) (src : Path) : Evolves s (s.handTimeout p src) := by
  unfold State.handTimeout State.setMustRelease
  split
  · exact .refl
  · dsimp only
    split
    · exact keyed_evolves s _ _ _ rfl rfl rfl
    · exact .refl

theorem floorTimeout_evolves (g : GroupId) (p : PositionId) (src : Path) (talks : ((s.group g).talker? p).isSome = true) :
    Evolves s (s.floorTimeout g p src) := by
  have swap (t : State) (x y : Group) (b : NoticeBody) : ((t.setGroup g x).raise b).setGroup g y = (t.setGroup g y).raise b := by
    change State.raise ((t.setGroup g x).setGroup g y) b = _
    rw [State.setGroup_setGroup]
  rw [floorTimeout_is, swap]
  refine (handTimeout_evolves s p src).trans (Evolves.trans ?_ (foldl_raise_evolves _ _))
  have same : (s.handTimeout p src).group g = s.group g := by
    cases src with
    | handset h => rfl
    | channel n =>
      change (ite ((s.channel p n).ptt = true) _ s : State).group g = _
      split <;> rfl
  refine Evolves.trans (Moves.evolves (.grouped g _ fun h => ?_)) (raise_evolves _ _)
  rw [same] at h
  exact h.talkerEnded _ talks

/-- The removal of a member as one written group record, its notices and the emptied slots (R80). -/
theorem removeMember_evolves (g : GroupId) (p : PositionId) : Evolves s (s.removeMember g p) := by
  unfold State.removeMember
  refine Evolves.trans ?_ (.foldl (fun t h => (Moves.dropped g p h).evolves) _ _)
  rw [removeEntries_is, State.setGroup_group, State.setGroup_setGroup]
  refine grouped_raised_evolves s g _ _ fun h => h.withoutEntries _ p List.filter_sublist fun m hm ne => ?_
  exact List.mem_filter.2 ⟨hm, by simpa using ne⟩

theorem termCount_evolves (c : Nat) : Evolves s { s with termCount := c } := by
  refine (Moves.aside fun q hq => ?_).evolves
  cases q <;> first | rfl | simp at hq

theorem defineGroup_evolves (g : GroupId) (t f : Nat) (limit : 1 ≤ t ∧ t ≤ 8) : Evolves s (s.defineGroup g t f).1 := by
  have defined : Evolves s { s.setGroup g ⟨true, t, floorTaken f, [], [], []⟩ with termCount := s.termCount + t } :=
    (Moves.grouped g _ fun _ => Group.ok_empty true _ limit).evolves.trans (termCount_evolves _ _)
  unfold State.defineGroup
  dsimp only
  repeat' split
  · exact .refl
  · exact .refl
  · exact defined
  · exact defined

theorem addMember_evolves (g : GroupId) (p : PositionId) (k : LineClass) : Evolves s (s.addMember g p k).1 := by
  unfold State.addMember
  dsimp only
  split
  · exact .refl
  next d =>
  have defined : (s.group g).defined = true := by simpa using d
  split
  · split
    · exact .refl
    · have same : ((s.group g).members.map fun y => if y.position = p then { y with cls := k } else y).map Member.position =
          (s.group g).members.map Member.position := by
        rw [List.map_map]
        refine List.map_congr_left fun y _ => ?_
        simp only [Function.comp_apply]
        split <;> rfl
      refine (Moves.grouped g _ fun h => h.members defined ?_ fun q hq => ?_).evolves
      · rw [same]; exact h.membersOnce
      · rwa [same]
  · next absent =>
    split
    · exact .refl
    · refine (Moves.grouped g _ fun h => h.members defined ?_ fun q hq => ?_).evolves
      · have new : ∀ m ∈ (s.group g).members, m.position ≠ p := by simpa [Group.member?] using absent
        rw [List.map_append, List.nodup_append]
        exact ⟨h.membersOnce, by simp, by simpa using new⟩
      · rw [List.map_append]; exact List.mem_append_left _ hq

/-! ### Denials and keys -/

theorem denyKey_evolves (p : PositionId) (x : Option LampId) (r : ResultCode) (o : Origin) :
    Evolves s (s.denyKey p x r o) := by
  unfold State.denyKey
  dsimp only
  split
  · exact (raise_evolves s _).step (.position _ _ ⟨rfl, rfl, rfl, id⟩)
  · exact raise_evolves s _

theorem takeIntoSlot_evolves (p : PositionId) (h : Handset) (l : LineId) (k : Key) (o : Origin) :
    Evolves s (s.takeIntoSlot p h l k o).1 := by
  unfold State.takeIntoSlot
  dsimp only
  split
  · dsimp only; exact denyKey_evolves s _ _ _ _
  · by_cases judged : judgeTake (s.line l) (s.handsetTake p h k o) = .ok
    · have seated := Moves.seated p h l k o judged
      rw [take_ok s judged] at seated ⊢
      exact seated.evolves
    · rw [take_refused s judged]
      split <;> rename_i e
      · exact absurd (Prod.mk.inj e).2 judged
      · dsimp only; exact denyKey_evolves s _ _ _ _

theorem groupKey_evolves (p : PositionId) (h : Handset) (g : GroupId) (k : Key) (o : Origin) :
    Evolves s (s.groupKey p h g k o).1 := by
  unfold State.groupKey
  dsimp only
  repeat' split
  case isTrue => exact .refl
  case isFalse.isTrue => dsimp only; exact denyKey_evolves s _ _ _ _
  case isFalse.isFalse.isTrue => dsimp only; exact denyKey_evolves s _ _ _ _
  case isFalse.isFalse.isFalse.isTrue => dsimp only; exact denyKey_evolves s _ _ _ _
  all_goals
    rename_i heq
    have asked := (Moves.joined p h g k (s := s)).evolves.trans (talkRequest_evolves _ g p (.handset h))
    rw [heq] at asked
  · exact asked.trans (show Evolves _ (_ : State) by dsimp only; exact denyKey_evolves _ _ _ _ _)
  · exact asked

theorem reRing_evolves (l : LineId) (p : PositionId) (h : Handset) : Evolves s (s.reRing l p h).1 := by
  unfold State.reRing
  split
  · exact .refl
  split
  · next e =>
    refine moved_evolves s l _ rfl rfl rfl fun ok => ?_
    exact ok.changed rfl rfl rfl rfl rfl ok.privacy ok.seized (fun _ => .inl e)
      (by rintro t ⟨⟩; simp [e, LineState.mayRun]) (by simp [e]) ok.missed
  · next e =>
    split
    · refine moved_evolves s l _ rfl rfl rfl fun ok => ?_
      exact ok.changed rfl rfl rfl rfl rfl ok.privacy ok.seized (fun _ => .inr e)
        (by rintro t ⟨⟩; simp [e, LineState.mayRun]) (by simp [e]) ok.missed
    · exact .refl
  all_goals exact .refl

theorem privacyRequest_evolves (l : LineId) (p : PositionId) (h : Handset) :
    Evolves s (s.privacyRequest l p h).1 := by
  unfold State.privacyRequest
  split
  · next principal =>
    obtain ⟨y, hy, -⟩ := Line.isPrincipal_iff.1 principal
    refine moved_evolves s l _ rfl rfl rfl fun ok => ?_
    exact ok.changed rfl rfl rfl rfl rfl (fun _ => by simp [hy]) ok.seized ok.rings ok.timer ok.guardTimed ok.missed
  · split <;> exact .refl

theorem pressKey_evolves (p : PositionId) (k : Key) (o : Origin) : Evolves s (s.pressKey p k o).1 := by
  unfold State.pressKey
  dsimp only
  repeat' split
  · dsimp only; exact denyKey_evolves s _ _ _ _
  · exact reRing_evolves s _ _ _
  · exact takeIntoSlot_evolves s _ _ _ _ _
  · exact groupKey_evolves s _ _ _ _ _

theorem holdKey_evolves (p : PositionId) (o : Origin) : Evolves s (s.holdKey p o).1 := by
  unfold State.holdKey
  dsimp only
  split
  · dsimp only; exact denyKey_evolves s _ _ _ _
  · next slot => exact (Moves.held p _ _ _ slot).evolves
  · exact (Moves.released p _).evolves

theorem answerHead_evolves (p : PositionId) (h : Handset) (o : Origin) : Evolves s (s.answerHead p h o).1 := by
  unfold State.answerHead
  split
  · dsimp only; exact denyKey_evolves s _ _ _ _
  · exact takeIntoSlot_evolves s _ _ _ _ _

theorem privacyKey_evolves (p : PositionId) (o : Origin) : Evolves s (s.privacyKey p o).1 := by
  unfold State.privacyKey
  dsimp only
  split
  · dsimp only; exact denyKey_evolves s _ _ _ _
  · dsimp only; exact denyKey_evolves s _ _ _ _
  · rename_i l _ _
    have asked := privacyRequest_evolves s l p (s.selected p)
    split <;> rename_i heq
    · rwa [heq] at asked
    · dsimp only; exact denyKey_evolves s _ _ _ _

theorem selectKey_evolves (p : PositionId) (h : Handset) : Evolves s (s.selectKey p h).1 := by
  unfold State.selectKey
  split
  · exact .refl
  · exact position_evolves s p _ ⟨rfl, rfl, rfl, id⟩

theorem silenceKey_evolves (p : PositionId) : Evolves s (s.silenceKey p).1 := by
  unfold State.silenceKey
  dsimp only
  split
  · exact .refl
  · exact position_evolves s p _ ⟨rfl, rfl, rfl, id⟩

theorem channelResult_evolves (p : PositionId) (n : ChannelId) (o : Origin) {x : State × ResultCode}
    (h : Evolves s x.1) : Evolves s (State.channelResult p n o x).1 := by
  unfold State.channelResult
  split
  case h_6 => exact h
  all_goals dsimp only; exact h.trans (denyKey_evolves _ _ _ _ _)

theorem muteKey_evolves (p : PositionId) (n : ChannelId) : Evolves s (s.muteKey p n).1 := by
  unfold State.muteKey
  dsimp only
  split
  · exact .refl
  · exact keyed_evolves s p n _ rfl rfl rfl

theorem updateTalking_moves (l : LineId) (p : PositionId) (path : Path) (v : Bool) :
    Moves s (s.updateTalking l p path v) := by
  have keeps : ∀ y : Party, ({ y with talking := v } : Party).position = y.position ∧
      ({ y with talking := v } : Party).path = y.path ∧ ({ y with talking := v } : Party).key = y.key :=
    fun _ => ⟨rfl, rfl, rfl⟩
  exact .touched l _ ⟨Line.mapParty_seats _ p path _ keeps, rfl, rfl, fun h => h.mapParty p path _ keeps fun _ _ _ => rfl⟩ rfl

theorem setChannel_keyed_evolves {t : State} (p : PositionId) (n : ChannelId) (x : Channel) (h : Evolves s t)
    (same : t.speakers = s.speakers) (source : x.source = (s.channel p n).source)
    (attach : x.attach = (s.channel p n).attach) (waitReason : x.waitReason = (s.channel p n).waitReason) :
    Evolves s (t.setChannel p n x) := by
  have channel : t.channel p n = s.channel p n := by simp [State.channel, State.speaker, same]
  exact h.step (.keyed p n x (by rw [channel, source]) (by rw [channel, attach]) (by rw [channel, waitReason]))

theorem talkKeyDown_evolves (p : PositionId) (n : ChannelId) : Evolves s (s.talkKeyDown p n).1 := by
  unfold State.talkKeyDown
  dsimp only
  split
  · exact .refl
  split
  · exact .refl
  · split
    · exact setChannel_keyed_evolves s p n _ (updateTalking_moves s _ _ _ _).evolves rfl rfl rfl rfl
    · exact .refl
  · next g _ =>
    have asked := talkRequest_evolves s g p (.channel n)
    have same : (s.talkRequest g p (.channel n)).1.speakers = s.speakers :=
      talkRequest_frame s g p (.channel n) .speakers (by decide)
    split <;> rename_i heq <;> rw [heq] at asked same
    · exact setChannel_keyed_evolves s p n _ asked same rfl rfl rfl
    · exact setChannel_keyed_evolves s p n _ asked same rfl rfl rfl
    · exact setChannel_keyed_evolves s p n _ asked same rfl rfl rfl
    · exact asked

theorem talkKeyUp_evolves (p : PositionId) (n : ChannelId) : Evolves s (s.talkKeyUp p n).1 := by
  have up := (Moves.keyed (s := s) p n { s.channel p n with ptt := false, mustRelease := false } rfl rfl rfl).evolves
  unfold State.talkKeyUp
  dsimp only
  repeat' split
  · exact .refl
  · exact up.trans (talkRelease_evolves _ _ _ _)
  · exact up.step (updateTalking_moves _ _ _ _ _)
  · exact up
  · exact up

theorem hookOnEvent_evolves (p : PositionId) (h : Handset) : Evolves s (s.hookOnEvent p h) := by
  unfold State.hookOnEvent
  split
  · exact .refl
  · refine Evolves.step (Moves.position p _ ?_).evolves (.released p h)
    cases h <;> exact ⟨rfl, rfl, rfl, id⟩

theorem hookOffEvent_evolves (p : PositionId) (h : Handset) : Evolves s (s.hookOffEvent p h) := by
  have lifted : Evolves s (s.setPosition p
      { (s.position p).setHandset h { (s.position p).handset h with hook := .off } with selected := h }) := by
    refine (Moves.position p _ ?_).evolves
    cases h <;> exact ⟨rfl, rfl, rfl, id⟩
  unfold State.hookOffEvent
  dsimp only
  repeat' split
  · exact .refl
  · exact lifted.step (updateTalking_moves _ _ _ _ _)
  · exact lifted
  · exact lifted.trans (answerHead_evolves _ _ _ _)
  · exact lifted

theorem funcEvent_evolves (p : PositionId) (f : Func) (n : ChannelId) (down : Bool) (o : Origin) :
    Evolves s (s.funcEvent p f n down o).1 := by
  unfold State.funcEvent
  split
  · exact talkKeyUp_evolves s _ _
  · exact holdKey_evolves s _ _
  · exact (Moves.released p _).evolves
  · exact answerHead_evolves s _ _ _
  · exact privacyKey_evolves s _ _
  · exact selectKey_evolves s _ _
  · exact selectKey_evolves s _ _
  · exact silenceKey_evolves s _
  · exact channelResult_evolves s _ _ _ (muteKey_evolves s _ _)
  · exact channelResult_evolves s _ _ _ (talkKeyDown_evolves s _ _)
  all_goals exact .refl

theorem inject_evolves (p : PositionId) (e : InjectEvent) : Evolves s (s.inject p e).1 := by
  unfold State.inject
  split
  · exact pressKey_evolves s _ _ _
  · exact .refl
  · exact funcEvent_evolves s _ _ _ _ _

/-! ### Knobs -/

/-- A step up stays at or above the knob floor, and so does a step down (R109). -/
theorem stepUp_ge (v : Step) : v ≤ stepUp v := by
  unfold stepUp
  split
  · exact Nat.le_succ _
  · exact le_refl v

theorem stepDown_ge {floor v : Step} (h : floor ≤ v) : floor ≤ stepDown floor v := by
  unfold stepDown
  split
  · exact h
  · next ne =>
    have lt : floor.val < v.val := lt_of_le_of_ne h fun e => ne (Fin.ext e).symm
    exact Nat.le_sub_one_of_lt lt

theorem setStep_channels (x : Speaker) (ls : Loudspeaker) (v : Step) : (x.setStep ls v).channels = x.channels := by
  cases ls <;> rfl

theorem setStep_ok {x : Speaker} (h : x.stepsOk) (ls : Loudspeaker) {v : Step} (floor : x.knobFloor ≤ v) :
    (x.setStep ls v).stepsOk := by
  obtain ⟨one, staged, step0, step1⟩ := h
  cases ls
  · exact ⟨one, staged, floor, step1⟩
  · exact ⟨one, staged, step0, floor⟩

theorem step_floor {x : Speaker} (h : x.stepsOk) (ls : Loudspeaker) : x.knobFloor ≤ x.step ls := by
  obtain ⟨-, -, step0, step1⟩ := h
  cases ls
  · exact step0
  · exact step1

theorem knobStep_evolves (p : PositionId) (ls : Loudspeaker) (v : Step)
    (floor : (s.speaker p).stepsOk → (s.speaker p).knobFloor ≤ v) : Evolves s (s.knobStep p ls v) := by
  unfold State.knobStep
  split
  · exact .refl
  · exact (Moves.spoken p _ (setStep_channels _ _ _) fun h => setStep_ok h ls (floor h)).evolves.trans (raise_evolves _ _)

theorem setKnob_core (x : Position) (j : KnobId) (k : KnobState) (ok : x.knob0.ok ∧ x.knob1.ok → k.ok) :
    x.SameCore (x.setKnob j k) := by
  unfold Position.setKnob
  split
  · exact ⟨rfl, rfl, rfl, fun h => ⟨ok h, h.2⟩⟩
  · exact ⟨rfl, rfl, rfl, fun h => ⟨h.1, ok h⟩⟩

/-- A residue of at most 4 either way is stored within 3: a fourth detent becomes a step and 0 (R108, R109). -/
theorem knobResidue_evolves (p : PositionId) (j : KnobId) (a b : Bool) (r : Int)
    (bound : (s.position p).knob0.ok ∧ (s.position p).knob1.ok → -4 ≤ r ∧ r ≤ 4) :
    Evolves s (s.knobResidue p j a b r) := by
  have stored : ∀ r : Int, ((s.position p).knob0.ok ∧ (s.position p).knob1.ok → (KnobState.mk a b r).ok) →
      Evolves s (s.setPosition p ((s.position p).setKnob j ⟨a, b, r⟩)) :=
    fun r ok => (Moves.position p _ (setKnob_core _ j _ ok)).evolves
  have zero := stored 0 fun _ => ⟨by dsimp only; decide, by dsimp only; decide⟩
  unfold State.knobResidue
  dsimp only
  split
  · exact zero.trans (knobStep_evolves _ _ _ _ fun h => (step_floor h _).trans (stepUp_ge _))
  split
  · exact zero.trans (knobStep_evolves _ _ _ _ fun h => stepDown_ge (step_floor h _))
  · refine stored r fun h => ?_
    have := bound h
    constructor <;> dsimp only <;> omega

theorem knobEvent_evolves (p : PositionId) (j : KnobId) (a b : Bool) : Evolves s (s.knobEvent p j a b) := by
  have ok : (s.position p).knob0.ok ∧ (s.position p).knob1.ok → ((s.position p).knob j).ok := by
    intro h
    unfold Position.knob
    split
    exacts [h.1, h.2]
  unfold State.knobEvent
  dsimp only
  split
  · refine knobResidue_evolves s _ _ _ _ _ fun h => ?_
    obtain ⟨lo, hi⟩ := ok h
    omega
  · refine knobResidue_evolves s _ _ _ _ _ fun h => ?_
    obtain ⟨lo, hi⟩ := ok h
    omega
  · exact knobResidue_evolves s _ _ _ _ _ fun _ => by decide
  · exact .refl

/-! ### Links -/

theorem setLink_evolves (p : PositionId) (x : Link) : Evolves s (s.setLink p x) := .of_frame (setLink_frame s p x)

theorem linkLost_core (x : Position) : x.SameCore x.linkLost :=
  ⟨rfl, rfl, rfl, fun _ => by simp [Position.linkLost, KnobState.ok]⟩

theorem positionLinkLoss_evolves (p : PositionId) : Evolves s (s.positionLinkLoss p) := by
  unfold State.positionLinkLoss
  refine Evolves.step ?_ (.position p _ (linkLost_core _))
  refine Evolves.trans ?_ (.foldl (fun t g => removeEntries_evolves t p g) _ _)
  refine Evolves.trans ?_ (.foldl (fun t n => (Moves.detached p n).evolves) _ _)
  refine Evolves.step (Evolves.step ?_ (.released p .h0)) (.released p .h1)
  exact position_evolves s p _ ⟨rfl, rfl, rfl, id⟩

theorem setLamps_evolves (x : Table 32 LampImage) : Evolves s { s with lamps := x } := by
  refine (Moves.aside fun q hq => ?_).evolves
  cases q <;> first | rfl | simp at hq

theorem linkLoss_evolves (p : PositionId) (cause : LossCause) : Evolves s (s.linkLoss p cause) := by
  unfold State.linkLoss
  refine Evolves.trans ?_ (finish_evolves _)
  refine Evolves.trans ?_ (raise_evolves _ _)
  refine Evolves.trans ?_ (positionLinkLoss_evolves _ p)
  exact (setLink_evolves s _ _).trans (setLamps_evolves _ _)

theorem judgeAnnounce_evolves (p : PositionId) (kc kn : Byte) : Evolves s (s.judgeAnnounce p kc kn) := by
  unfold State.judgeAnnounce
  split
  · exact raise_evolves s _
  · refine Evolves.trans ?_ (finish_evolves _)
    refine Evolves.trans ?_ (raise_evolves _ _)
    refine Evolves.trans ?_ (.of_frame (fullRefresh_frame _ p))
    exact (setLink_evolves s _ _).step (.position p _ ⟨rfl, rfl, rfl, id⟩)

/-! ### Lines -/

theorem guarded_evolves (l : LineId) (state : (s.line l).state = .fault ∨ (s.line l).state = .outOfService) :
    Evolves s (s.moveLine l ((s.line l).guarded (s.startTimer .guard))) := by
  refine moved_evolves s l _ rfl rfl rfl fun ok => ?_
  rcases state with e | e <;>
    exact ok.guarded_of_state (by simp [e, LineState.partyless]) (by simp [e, LineState.hasOwner]) _

theorem serviceLine_evolves (l : LineId) (d : ServiceDirection) : Evolves s (s.serviceLine l d).1 := by
  unfold State.serviceLine
  dsimp only
  split
  case h_10 e =>
    split
    · refine moved_evolves s l _ rfl rfl rfl fun ok => ?_
      have timer : (s.line l).timer = none := by
        cases t : (s.line l).timer with
        | none => rfl
        | some u => simpa [e, LineState.mayRun] using ok.timer u t
      have rg : (s.line l).rg = false := by
        rw [Bool.eq_false_iff]
        intro r
        simpa [e] using ok.rings r
      exact ok.changed rfl rfl rfl (by simp [e, LineState.partyless]) (by simp [e, LineState.hasOwner]) ok.privacy
        (by simp [ok.seized, e, LineState.seizes]) (by simp [rg]) (by simp [timer]) (by simp) ok.missed
    · exact guarded_evolves s l (.inr e)
  case h_1 => exact .refl
  case h_2 => exact (Moves.cleared l _ _ (.inr rfl)).evolves
  case h_3 => exact (Moves.cleared l _ _ (.inr rfl)).evolves
  case h_4 => exact (Moves.cleared l _ _ (.inr rfl)).evolves
  case h_5 => exact (Moves.cleared l _ _ (.inr rfl)).evolves
  case h_6 => exact (Moves.cleared l _ _ (.inr rfl)).evolves
  case h_7 => exact (Moves.cleared l _ _ (.inr rfl)).evolves
  case h_8 => exact (Moves.cleared l _ _ (.inr rfl)).evolves
  case h_9 => exact (Moves.cleared l _ _ (.inr rfl)).evolves
  all_goals exact .refl

theorem answered_evolves (l : LineId) (e : (s.line l).state = .calling) : Evolves s (s.answered l) := by
  refine moved_evolves s l _ rfl rfl rfl fun ok => ?_
  exact ok.changed rfl rfl rfl (by simp [e, LineState.partyless]) (by simp [e, LineState.hasOwner]) ok.privacy
    (by simp [ok.seized, e, LineState.seizes]) (by simp) (by simp) (by simp) ok.missed

/-- From IDLE or GUARD a line enters RINGING or IDLE without a timer (R10, R25). -/
theorem Line.ok.rung {x : Line} (ok : x.ok) (e : x.state = .idle ∨ x.state = .ringing ∨ x.state = .guard) {st : LineState}
    (new : st = .ringing ∨ st = .idle) {n : Nat} (missed : n ≤ 15) :
    ({ x with state := st, timer := none, missed := n } : Line).ok := by
  have from_state : x.state.partyless = true ∧ x.state.hasOwner = false ∧ x.state.seizes = false := by
    rcases e with e | e | e <;> rw [e] <;> exact ⟨rfl, rfl, rfl⟩
  obtain ⟨partyless, hasOwner, seizes⟩ := from_state
  have to_state : st.partyless = true ∧ st.hasOwner = false ∧ st.seizes = false := by
    rcases new with rfl | rfl <;> exact ⟨rfl, rfl, rfl⟩
  obtain ⟨partyless', hasOwner', seizes'⟩ := to_state
  have rg : x.rg = false := by
    rw [Bool.eq_false_iff]
    intro r
    rcases e with e | e | e <;> simpa [e] using ok.rings r
  exact ok.changed rfl rfl rfl (by rw [partyless, partyless']) (by rw [hasOwner, hasOwner']) ok.privacy
    (by rw [ok.seized, seizes, seizes']) (by simp [rg]) (by simp)
    (by rcases new with rfl | rfl <;> simp) missed

/-- A well-formed line that is IDLE or RINGING runs no timer (R5). -/
theorem Line.ok.no_timer {x : Line} (ok : x.ok) (e : x.state = .idle ∨ x.state = .ringing) : x.timer = none := by
  cases t : x.timer with
  | none => rfl
  | some u => rcases e with e | e <;> simpa [e, LineState.mayRun] using ok.timer u t

theorem enterRinging_evolves (l : LineId) (timer : Option LineTimer)
    (e : (s.line l).state = .idle ∧ timer = (s.line l).timer ∨ (s.line l).state = .guard ∧ timer = none) :
    Evolves s (s.enterRinging l timer) := by
  refine Evolves.trans ?_ (raise_evolves _ _)
  refine moved_evolves s l _ rfl rfl rfl fun ok => ?_
  have none_ : timer = none := by
    rcases e with ⟨e, t⟩ | ⟨-, t⟩
    · rw [t, ok.no_timer (.inl e)]
    · exact t
  rw [none_]
  exact ok.rung (e.elim (fun h => .inl h.1) fun h => .inr (.inr h.1)) (.inl rfl) ok.missed

theorem missedCall_evolves (l : LineId) (e : (s.line l).state = .ringing) : Evolves s (s.missedCall l) := by
  refine Evolves.trans ?_ (raise_evolves _ _)
  refine moved_evolves s l _ rfl rfl rfl fun ok => ?_
  have := ok.rung (.inr (.inl e)) (.inr rfl) (Nat.min_le_left 15 ((s.line l).missed + 1))
  simpa [ok.no_timer (.inr e)] using this

theorem flChange_evolves (l : LineId) (v : Bool) : Evolves s (s.flChange l v) := by
  unfold State.flChange
  split
  · next e =>
    split
    · exact answered_evolves s l e
    · exact .refl
  · split
    · exact .refl
    · exact raise_evolves s _
  · next e =>
    split
    · exact .refl
    · exact (Moves.abandoned l (.inl e)).evolves
  · next e =>
    split
    · exact .refl
    · exact (Moves.abandoned l (.inr e)).evolves
  all_goals exact .refl

theorem rdChange_evolves (l : LineId) (v : Bool) : Evolves s (s.rdChange l v) := by
  unfold State.rdChange
  split
  · next e =>
    split
    · exact enterRinging_evolves s l _ (.inl ⟨e, rfl⟩)
    · exact .refl
  · next e =>
    split
    · exact .refl
    · exact missedCall_evolves s l e
  · next e =>
    split
    · exact answered_evolves s l e
    · exact .refl
  · exact raise_evolves s _
  all_goals exact .refl

theorem signalEvent_evolves (l : LineId) (now : Signals) : Evolves s (s.signalEvent l now) := by
  have recorded : Evolves s (s.setLine l { s.line l with signals := now }) :=
    (Moves.touched l { s.line l with signals := now } (.of rfl rfl rfl fun ok => ok.signalled now) rfl).evolves
  unfold State.signalEvent
  dsimp only
  split
  · exact recorded.step (.cleared l _ _ (.inl rfl))
  split
  · next lf =>
    refine recorded.trans (guarded_evolves _ l (.inl ?_))
    simp only [Bool.and_eq_true, decide_eq_true_eq] at lf
    simpa using lf.2
  · have fl : ∀ u, Evolves s u → Evolves s (if (s.line l).signals.fl = now.fl then u else u.flChange l now.fl) := by
      intro u hu
      split
      · exact hu
      · exact hu.trans (flChange_evolves _ _ _)
    split
    · exact fl _ recorded
    · exact (fl _ recorded).trans (rdChange_evolves _ _ _)

end Sys2Proof.Machine
end

section
/-! PROOFS. Every command but POWER ON RESET is a sequence of transactions, so a step keeps what each of them keeps. -/

namespace Sys2Proof.Machine

-- One theorem after another: side by side they hold the memory of too many stacks.
set_option Elab.async false

/-! ### Commands -/

/-- A command's next state, if it has one, is reached by transactions. -/
def NextEvolves (s : State) (o : Host.Outcome State Fault Refusal) : Prop := ∀ t, o = .next t → Evolves s t

theorem nextEvolves {s t : State} (h : Evolves s t) : NextEvolves s (.next t) := by
  rintro u ⟨⟩
  exact h

variable (s : State)

theorem idle_evolves : NextEvolves s (.next s) := nextEvolves .refl

theorem reach_evolves (due : Nat) : Evolves s (s.reach due) := .of_frame (reach_frame s due)

theorem answer_evolves (c : Port) (r : ResultCode) (d : List Byte) : Evolves s (s.answer c r d) :=
  .of_frame (answer_frame s c r d)

theorem setPort_evolves (c : Port) (x : PortRecord) : Evolves s (s.setPort c x) := .of_frame (setPort_frame s c x)

/-- A refused request and a read: nothing but the answer. -/
theorem answered_only_evolves (c : Port) (r : ResultCode) (d : List Byte) : NextEvolves s (.next (s.answer c r d)) :=
  nextEvolves (answer_evolves s c r d)

variable {s}

theorem Evolves.answer {t : State} (h : Evolves s t) (c : Port) (r : ResultCode) (d : List Byte) :
    Evolves s (t.answer c r d) := h.trans (answer_evolves t c r d)

theorem Evolves.finish {t : State} (h : Evolves s t) : Evolves s t.finish := h.trans (finish_evolves t)

/-- A request that was taken answers and ends as an event. -/
theorem Evolves.answered_finish {t : State} (h : Evolves s t) (c : Port) (r : ResultCode) (d : List Byte) :
    NextEvolves s (.next (t.answer c r d).finish) := nextEvolves (h.answer c r d).finish

theorem Evolves.raise {t : State} (h : Evolves s t) (b : NoticeBody) : Evolves s (t.raise b) :=
  h.trans (raise_evolves t b)

variable (s)

theorem turretEvent_evolves (p : PositionId) (ev : TurretEvent) {act : State → State}
    (h : ∀ t : State, Evolves t (act t)) : NextEvolves s (.next (s.turretEvent p ev act)) := by
  have taken : Evolves s (s.takeDelivered p ev) := setLink_evolves s p _
  refine nextEvolves ?_
  unfold State.turretEvent
  dsimp only
  split
  · exact (taken.trans (h _)).finish
  · exact taken

/-! ### Line requests and line timers -/

theorem execLineConfigure_evolves (c : Port) (l k b r : Byte) : NextEvolves s (execLineConfigure c l k b r s) := by
  unfold execLineConfigure
  split
  · exact (Moves.configured _ _ _ _).evolves.answered_finish c _ _
  · exact answered_only_evolves s c _ _

theorem execLineService_evolves (c : Port) (l d : Byte) : NextEvolves s (execLineService c l d s) := by
  unfold execLineService
  split
  · exact (serviceLine_evolves s _ _).answered_finish c _ _
  · exact answered_only_evolves s c _ _

theorem execLineStatusRead_evolves (c : Port) (l : Byte) : NextEvolves s (execLineStatusRead c l s) := by
  unfold execLineStatusRead
  split <;> exact answered_only_evolves s c _ _

theorem execLineClearMissed_evolves (c : Port) (l : Byte) : NextEvolves s (execLineClearMissed c l s) := by
  unfold execLineClearMissed
  split
  · refine Evolves.answered_finish (Moves.evolves (.touched _ _ ?_ ?_)) c _ _
    · exact .of rfl rfl rfl fun ok => ok.missedCleared
    · rfl
  · exact answered_only_evolves s c _ _

theorem execSignalChange_evolves (l : LineId) (now : Signals) : NextEvolves s (execSignalChange l now s) := by
  have taken : Evolves s { s with highway := s.highway.set l ((s.highway.get l).taken now) } := by
    refine (Moves.aside fun q hq => ?_).evolves
    cases q <;> first | rfl | simp at hq
  exact nextEvolves (taken.trans (signalEvent_evolves _ l now)).finish

theorem startTimer_purpose {s : State} {purpose : LinePurpose} {t : LineTimer} (h : s.startTimer purpose = some t) :
    t.purpose = purpose := by
  unfold State.startTimer at h
  split at h <;> grind

/-- A running timer of a given purpose, and the state it runs in. -/
theorem Line.expires_state {x : Line} {purpose : LinePurpose} {st : LineState} {due : Nat}
    (h : x.expires purpose st = some due) : x.state = st := by
  unfold Line.expires at h
  grind

theorem execBurstExpiry_evolves (l : LineId) : NextEvolves s (execBurstExpiry l s) := by
  unfold execBurstExpiry
  split
  · rename_i due h
    have e := Line.expires_state h
    refine nextEvolves (Evolves.finish ((reach_evolves s due).trans ?_))
    refine moved_evolves _ l _ rfl rfl rfl fun ok => ?_
    exact ok.changed rfl rfl rfl rfl rfl ok.privacy ok.seized (by simp) (by rintro t ⟨⟩; simp [e, LineState.mayRun])
      (by simp [e]) ok.missed
  · rename_i due _ h
    have e := Line.expires_state h
    refine nextEvolves (Evolves.finish ((reach_evolves s due).trans ?_))
    refine moved_evolves _ l _ rfl rfl rfl fun ok => ?_
    exact ok.changed rfl rfl rfl rfl rfl ok.privacy ok.seized (by simp) (by simp) (by simp [e]) ok.missed
  · exact idle_evolves s

theorem execAnswerWaitExpiry_evolves (l : LineId) : NextEvolves s (execAnswerWaitExpiry l s) := by
  unfold execAnswerWaitExpiry
  split
  · next due h =>
    have e : (s.line l).state = .calling := Line.expires_state h
    dsimp only
    split
    · refine nextEvolves (Evolves.finish ((reach_evolves s due).trans ?_))
      refine moved_evolves _ l _ rfl rfl rfl fun ok => ?_
      exact ok.changed rfl rfl rfl rfl rfl ok.privacy ok.seized (fun _ => .inl e)
        (by rintro t ⟨⟩; simp [e, LineState.mayRun]) (by simp [e]) ok.missed
    · refine nextEvolves (Evolves.finish (((reach_evolves s due).trans ?_).raise _))
      refine moved_evolves _ l _ rfl rfl rfl fun ok => ?_
      exact ok.changed rfl rfl rfl rfl rfl ok.privacy ok.seized ok.rings (by simp) (by simp [e]) ok.missed
  · exact idle_evolves s

theorem execHoldExpiry_evolves (l : LineId) : NextEvolves s (execHoldExpiry l s) := by
  unfold execHoldExpiry
  split
  · next due h =>
    have e : (s.line l).state = .held := Line.expires_state h
    refine nextEvolves (Evolves.finish (((reach_evolves s due).trans ?_).raise _))
    refine moved_evolves _ l _ rfl rfl rfl fun ok => ?_
    replace ok : (s.line l).ok := ok
    have rg : (s.line l).rg = false := by
      rw [Bool.eq_false_iff]
      intro r
      simpa [e] using ok.rings r
    exact ok.changed rfl rfl rfl (by simp [e, LineState.partyless]) (by simp [e, LineState.hasOwner]) ok.privacy
      (by simp [ok.seized, e, LineState.seizes]) (by simp [rg])
      (fun t (ht : (s.reach due).startTimer .recall = some t) => by rw [startTimer_purpose ht]; rfl) (by simp) ok.missed
  · exact idle_evolves s

theorem execRecallExpiry_evolves (l : LineId) : NextEvolves s (execRecallExpiry l s) := by
  unfold execRecallExpiry
  split
  · next due h =>
    have e : (s.line l).state = .recall := Line.expires_state h
    exact nextEvolves (Evolves.finish ((reach_evolves s due).step (.abandoned l (.inr e))))
  · exact idle_evolves s

theorem execGuardExpiry_evolves (l : LineId) : NextEvolves s (execGuardExpiry l s) := by
  unfold execGuardExpiry
  split
  · next due h =>
    have e : (s.line l).state = .guard := Line.expires_state h
    dsimp only
    split
    · exact nextEvolves ((reach_evolves s due).trans (enterRinging_evolves _ l none (.inr ⟨e, rfl⟩))).finish
    · refine nextEvolves (Evolves.finish ((reach_evolves s due).trans ?_))
      refine moved_evolves _ l _ rfl rfl rfl fun ok => ?_
      exact ok.rung (.inr (.inr e)) (.inr rfl) ok.missed
  · exact idle_evolves s

/-! ### Positions -/

theorem execKeyInject_evolves (c : Port) (p k x n d : Byte) : NextEvolves s (execKeyInject c p k x n d s) := by
  unfold execKeyInject
  repeat' split
  · exact answered_only_evolves s c _ _
  · exact answered_only_evolves s c _ _
  · rename_i p _ _ e _ _ _ _ _ _ heq
    have injected := inject_evolves s p e
    rw [heq] at injected
    exact injected.answered_finish c _ _
  · exact answered_only_evolves s c _ _

theorem execPositionConfigure_evolves (c : Port) (p sw al hs rs : Byte) (t : Half) :
    NextEvolves s (execPositionConfigure c p sw al hs rs t s) := by
  unfold execPositionConfigure
  split
  · dsimp only
    split
    · refine nextEvolves (Evolves.answer ?_ c _ _)
      exact position_evolves s _ _ ⟨rfl, rfl, rfl, id⟩
    · refine nextEvolves (Evolves.answer ?_ c _ _)
      exact position_evolves s _ _ ⟨rfl, rfl, rfl, id⟩
  · exact answered_only_evolves s c _ _

theorem execPositionStatusRead_evolves (c : Port) (p : Byte) : NextEvolves s (execPositionStatusRead c p s) := by
  unfold execPositionStatusRead
  split <;> exact answered_only_evolves s c _ _

theorem execDenyTimerExpiry_evolves (p : PositionId) (x : LampId) : NextEvolves s (execDenyTimerExpiry p x s) := by
  unfold execDenyTimerExpiry
  split
  · next due _ =>
    refine nextEvolves (Evolves.finish ((reach_evolves s due).trans ?_))
    exact position_evolves _ p _ ⟨rfl, rfl, rfl, id⟩
  · exact idle_evolves s

theorem execCadenceTimerExpiry_evolves (p : PositionId) : NextEvolves s (execCadenceTimerExpiry p s) := by
  unfold execCadenceTimerExpiry
  split
  · next c _ =>
    split
    · refine nextEvolves ((reach_evolves s c.due).trans ?_)
      refine position_evolves _ p _ ?_
      unfold Position.changePhase
      split
      · split <;> exact ⟨rfl, rfl, rfl, id⟩
      · exact .refl _
    · exact idle_evolves s
  · exact idle_evolves s

/-! ### Groups -/

theorem execGroupDefine_evolves (c : Port) (g t f : Byte) : NextEvolves s (execGroupDefine c g t f s) := by
  unfold execGroupDefine
  split
  · next limit =>
    refine (defineGroup_evolves s _ _ _ ?_).answered_finish c _ _
    unfold talkerLimitArg at limit
    grind
  · exact answered_only_evolves s c _ _

theorem execGroupUndefine_evolves (c : Port) (g : Byte) : NextEvolves s (execGroupUndefine c g s) := by
  unfold execGroupUndefine
  repeat' split
  · exact answered_only_evolves s c _ _
  · exact answered_only_evolves s c _ _
  · exact answered_only_evolves s c _ _
  · refine Evolves.answered_finish (Evolves.trans ?_ (termCount_evolves _ _)) c _ _
    exact Moves.evolves (.grouped _ _ fun _ => Group.ok_empty _ _ (by simp))

theorem execMemberAdd_evolves (c : Port) (g p k : Byte) : NextEvolves s (execMemberAdd c g p k s) := by
  unfold execMemberAdd
  split
  · exact nextEvolves ((addMember_evolves s _ _ _).answer c _ _)
  · exact answered_only_evolves s c _ _

theorem execMemberRemove_evolves (c : Port) (g p : Byte) : NextEvolves s (execMemberRemove c g p s) := by
  unfold execMemberRemove
  repeat' split
  · exact answered_only_evolves s c _ _
  · exact answered_only_evolves s c _ _
  · exact (removeMember_evolves s _ _).answered_finish c _ _
  · exact answered_only_evolves s c _ _

theorem execGroupStatusRead_evolves (c : Port) (g : Byte) : NextEvolves s (execGroupStatusRead c g s) := by
  unfold execGroupStatusRead
  split <;> exact answered_only_evolves s c _ _

theorem execFloorTimerExpiry_evolves (g : GroupId) (p : PositionId) :
    NextEvolves s (execFloorTimerExpiry g p s) := by
  unfold execFloorTimerExpiry
  split
  · next src due timer =>
    refine nextEvolves (Evolves.finish ((reach_evolves s due).trans (floorTimeout_evolves _ g p src ?_)))
    unfold Group.floorTimer at timer
    show ((s.group g).talker? p).isSome = true
    grind
  · exact idle_evolves s

/-! ### The Speaker Field -/

theorem execPlanSet_evolves (c : Port) (p n sk sn lv ls tb : Byte) :
    NextEvolves s (execPlanSet c p n sk sn lv ls tb s) := by
  unfold execPlanSet
  split
  · have staged (p : PositionId) (x : Table 8 ChannelPlan) :
        Evolves s (s.setSpeaker p { s.speaker p with plan := x }) :=
      (Moves.spoken p { s.speaker p with plan := x } rfl fun h => h).evolves
    dsimp only
    split <;> exact nextEvolves ((staged _ _).answer c _ _)
  · exact answered_only_evolves s c _ _

theorem clampFloor_pos (b : Byte) : 1 ≤ (clampFloor b).val := by
  unfold clampFloor clampStep
  split
  · decide
  · split
    · simp; omega
    · decide

theorem execPlanPosition_evolves (c : Port) (p d f : Byte) : NextEvolves s (execPlanPosition c p d f s) := by
  unfold execPlanPosition
  split
  · next p _ =>
    have staged : Evolves s (s.setSpeaker p { s.speaker p with stagedDuck := clampDuck d, stagedFloor := clampFloor f }) := by
      refine Moves.evolves (.spoken p _ rfl ?_)
      rintro ⟨one, -, step0, step1⟩
      exact ⟨one, clampFloor_pos f, step0, step1⟩
    dsimp only
    split <;> exact nextEvolves (staged.answer c _ _)
  · exact answered_only_evolves s c _ _

theorem mixApply_evolves (p : PositionId) : Evolves s (s.mixApply p).1 := by
  unfold State.mixApply
  dsimp only
  split
  · exact (Moves.planned p _ _).evolves
  · exact .refl

theorem execMixApply_evolves (c : Port) (p : Byte) : NextEvolves s (execMixApply c p s) := by
  unfold execMixApply
  split
  · exact answered_only_evolves s c _ _
  · next p _ =>
    have applied := mixApply_evolves s p
    split <;> rename_i heq <;> rw [heq] at applied
    · exact applied.answered_finish c _ _
    · exact nextEvolves (applied.answer c _ _)

theorem execSpeakerStatusRead_evolves (c : Port) (p : Byte) : NextEvolves s (execSpeakerStatusRead c p s) := by
  unfold execSpeakerStatusRead
  split <;> exact answered_only_evolves s c _ _

theorem setQuiet_evolves (v : Bool) (q : Quiet) : Evolves s { s with quietPin := v, quiet := q } := by
  refine (Moves.aside fun q hq => ?_).evolves
  cases q <;> first | rfl | simp at hq

theorem execSpeakersResume_evolves (c : Port) : NextEvolves s (execSpeakersResume c s) := by
  unfold execSpeakersResume
  split
  · exact nextEvolves ((setQuiet_evolves s s.quietPin .off).answer c _ _)
  · exact answered_only_evolves s c _ _
  · exact answered_only_evolves s c _ _

theorem execQuietAsserted_evolves : NextEvolves s (execQuietAsserted s) := by
  unfold execQuietAsserted
  split
  · exact nextEvolves (setQuiet_evolves s true s.quiet)
  · exact nextEvolves ((setQuiet_evolves s true .on).raise _)
  · exact nextEvolves ((setQuiet_evolves s true .on).raise _)

theorem execQuietDeasserted_evolves : NextEvolves s (execQuietDeasserted s) := by
  unfold execQuietDeasserted
  split
  · exact nextEvolves ((setQuiet_evolves s false s.quietAfter).raise _)
  · exact nextEvolves (setQuiet_evolves s false s.quiet)
  · exact nextEvolves (setQuiet_evolves s false s.quiet)

/-! ### The directory -/

theorem setStaging_evolves (c : Port) (x : Staging) : Evolves s (s.setStaging c x) := .of_frame (setStaging_frame s c x)

theorem loadSlot_evolves (c : Port) (pg : Fin 128) (i : Fin 16) (x : Content) : Evolves s (s.loadSlot c pg i x).1 := by
  unfold State.loadSlot
  dsimp only
  split
  · exact .refl
  · exact setStaging_evolves s c _

theorem execPageLoad_evolves (c : Port) (pg sl k t a : Byte) : NextEvolves s (execPageLoad c pg sl k t a s) := by
  unfold execPageLoad
  split
  · exact nextEvolves ((loadSlot_evolves s c _ _ _).answer c _ _)
  · exact answered_only_evolves s c _ _

theorem execPageDiscard_evolves (c : Port) : NextEvolves s (execPageDiscard c s) :=
  nextEvolves ((setStaging_evolves s c _).answer c _ _)

theorem execPageCommit_evolves (c : Port) (pg : Byte) : NextEvolves s (execPageCommit c pg s) := by
  unfold execPageCommit
  cases pageArg pg with
  | none => exact answered_only_evolves s c _ _
  | some page =>
    dsimp only
    by_cases other : (s.stagingOf c).page ≠ some page
    · rw [if_pos other]
      exact answered_only_evolves s c _ _
    by_cases guarded : (!(s.guardOf (pagePosition page)).allows c) = true
    · rw [if_neg other, if_pos guarded]
      exact answered_only_evolves s c _ _
    · rw [if_neg other, if_neg guarded]
      exact (Moves.committed c page).evolves.answered_finish c _ _

theorem execGuardSet_evolves (c : Port) (p g : Byte) : NextEvolves s (execGuardSet c p g s) := by
  unfold execGuardSet
  repeat' split
  · exact nextEvolves ((Evolves.of_frame (setGuard_frame s _ _)).answer c _ _)
  · exact answered_only_evolves s c _ _
  · exact answered_only_evolves s c _ _

theorem execEntryRead_evolves (c : Port) (p k : Byte) : NextEvolves s (execEntryRead c p k s) := by
  unfold execEntryRead
  split <;> exact answered_only_evolves s c _ _

theorem execPositionWipe_evolves (c : Port) (p : Byte) (mnt : Bool) : NextEvolves s (execPositionWipe c p mnt s) := by
  have pinned : Evolves s { s with mntPin := mnt } := by
    refine (Moves.aside fun q hq => ?_).evolves
    cases q <;> first | rfl | simp at hq
  unfold execPositionWipe
  dsimp only
  repeat' split
  · exact nextEvolves (pinned.answer c _ _)
  · exact nextEvolves (pinned.answer c _ _)
  · exact nextEvolves (pinned.answer c _ _)
  · next unbound => exact (pinned.step (.wiped _ (by simpa using unbound))).answered_finish c _ _

/-! ### Mixing, ports and notices -/

theorem execLevelRead_evolves (c : Port) (k n : Byte) : NextEvolves s (execLevelRead c k n s) := by
  unfold execLevelRead State.readPositionLevels State.readLineLevel
  split
  · refine nextEvolves (Evolves.answer (Moves.evolves (.aside fun q hq => ?_)) c _ _)
    cases q <;> first | rfl | simp at hq
  · refine nextEvolves (Evolves.answer (Moves.evolves (.aside fun q hq => ?_)) c _ _)
    cases q <;> first | rfl | simp at hq
  · exact answered_only_evolves s c _ _

theorem advanceTone_core (x : Position) : x.SameCore x.advanceTone := by
  unfold Position.advanceTone
  split
  · exact ⟨rfl, rfl, rfl, id⟩
  all_goals exact .refl x

theorem period_evolves : Evolves s s.period := by
  have toned : Evolves s { s with positions := s.positions.map Position.advanceTone } := by
    refine (Moves.posted (fun q hq => ?_) fun p => ?_).evolves
    · cases q <;> first | rfl | simp at hq
    · simpa [State.position] using advanceTone_core (s.position p)
  refine (toned.trans ?_).trans (foldl_raise_evolves _ _)
  refine (Moves.aside fun q hq => ?_).evolves
  cases q <;> first | rfl | simp at hq

theorem portReset_evolves (c : Port) (tag : Byte) : Evolves s (s.portReset c tag) := by
  refine (Moves.aside fun q hq => ?_).evolves
  cases q <;> first | rfl | simp at hq

theorem setNoticeQueue_evolves (c : Port) (x : NoticeQueue) : Evolves s (s.setNoticeQueue c x) := by
  refine (Moves.aside fun q hq => ?_).evolves
  cases q <;> first | rfl | simp at hq

theorem dispatch_evolves (c : Port) (tag number : Byte) (args : List Byte) :
    Evolves s (s.dispatch c tag number args) := by
  unfold State.dispatch
  repeat' split
  · exact portReset_evolves s c tag
  all_goals exact setPort_evolves s c _

theorem pureRead_evolves (c : Port) (status : Byte) (n : Nat) : Evolves s (s.pureRead c status n) := by
  unfold State.pureRead
  dsimp only
  repeat' split
  · exact setPort_evolves s c _
  · exact setPort_evolves s c _
  all_goals exact .refl

theorem transfer_evolves (c : Port) (bytes : List Byte) : Evolves s (s.transfer c bytes) := by
  have begun : Evolves s (s.beginTransfer c bytes.length) := by
    unfold State.beginTransfer
    dsimp only
    split <;> exact setPort_evolves s c _
  unfold State.transfer
  dsimp only
  split
  · exact begun
  · exact begun.trans (setPort_evolves _ c _)
  · exact begun.trans (pureRead_evolves _ c _ _)
  · exact begun.trans (dispatch_evolves _ c _ _ _)

theorem returnResult_evolves (c : Port) (f : InFlight) (a : Answer) : Evolves s (s.returnResult c f a) :=
  .of_frame (returnResult_frame s c f a)

theorem execResultReturn_evolves (c : Port) : NextEvolves s (execResultReturn c s) := by
  unfold execResultReturn
  split
  · exact nextEvolves (returnResult_evolves s c _ _)
  all_goals exact idle_evolves s

theorem execSetParameter_evolves (c : Port) (n : Byte) (v : Half) : NextEvolves s (execSetParameter c n v s) := by
  unfold execSetParameter
  split
  · refine nextEvolves (Evolves.answer (Moves.evolves (.aside fun q hq => ?_)) c _ _)
    cases q <;> first | rfl | simp at hq
  · exact answered_only_evolves s c _ _

theorem execNoticeSetup_evolves (c : Port) (m t : Byte) (a : Half) : NextEvolves s (execNoticeSetup c m t a s) := by
  unfold execNoticeSetup
  split
  · exact answered_only_evolves s c _ _
  · exact nextEvolves ((setNoticeQueue_evolves s c _).answer c _ _)

theorem execNoticeRead_evolves (c : Port) (n : Byte) : NextEvolves s (execNoticeRead c n s) := by
  have returned (t : State) : Evolves t (t.returnRead c) := .of_frame (returnRead_frame t c)
  unfold execNoticeRead
  dsimp only
  split
  · exact nextEvolves ((answer_evolves s c _ _).trans (returned _))
  · exact nextEvolves (((setNoticeQueue_evolves s c _).answer c _ _).trans (returned _))

theorem execAgeTimerExpiry_evolves (c : Port) : NextEvolves s (execAgeTimerExpiry c s) := by
  unfold execAgeTimerExpiry
  split
  · exact nextEvolves ((reach_evolves s _).trans (setNoticeQueue_evolves _ c _))
  · exact idle_evolves s

/-! ### Links -/

theorem execAnnounce_evolves (p : PositionId) (kc kn : Byte) : NextEvolves s (execAnnounce p kc kn s) := by
  have taken : Evolves s (s.takeDelivered p (.announce kc kn)) := setLink_evolves s p _
  unfold execAnnounce
  dsimp only
  split
  · exact nextEvolves taken
  · exact nextEvolves ((taken.trans (judgeAnnounce_evolves _ p kc kn)).trans (setLink_evolves _ p _))
  · exact nextEvolves (((taken.trans (linkLoss_evolves _ p _)).trans (judgeAnnounce_evolves _ p kc kn)).trans
      (setLink_evolves _ p _))

theorem execLossTimerExpiry_evolves (p : PositionId) : NextEvolves s (execLossTimerExpiry p s) := by
  unfold execLossTimerExpiry
  split
  · exact idle_evolves s
  · next due _ =>
    dsimp only
    split
    · exact nextEvolves ((reach_evolves s due).trans (linkLoss_evolves _ p _))
    · exact nextEvolves ((reach_evolves s due).trans (setLink_evolves _ p _))
    · exact nextEvolves (reach_evolves s due)

theorem execHighwayFrame_evolves (slots : Table 160 Timeslot) : NextEvolves s (execHighwayFrame slots s) := by
  refine nextEvolves (Moves.evolves (.aside fun q hq => ?_))
  cases q <;> first | rfl | simp at hq

/-! ### Every command -/

/-- Every command but POWER ON RESET is a sequence of transactions. -/
theorem exec_evolves (i : Instr) : (∃ q m, i = .powerOnReset q m) ∨ NextEvolves s (exec i s) := by
  cases i with
  | powerOnReset q m => exact .inl ⟨q, m, rfl⟩
  | lineConfigure c l k b r => exact .inr (execLineConfigure_evolves s c l k b r)
  | lineService c l d => exact .inr (execLineService_evolves s c l d)
  | lineStatusRead c l => exact .inr (execLineStatusRead_evolves s c l)
  | lineClearMissed c l => exact .inr (execLineClearMissed_evolves s c l)
  | keyInject c p k x n d => exact .inr (execKeyInject_evolves s c p k x n d)
  | positionConfigure c p sw al hs rs t => exact .inr (execPositionConfigure_evolves s c p sw al hs rs t)
  | positionStatusRead c p => exact .inr (execPositionStatusRead_evolves s c p)
  | groupDefine c g t f => exact .inr (execGroupDefine_evolves s c g t f)
  | groupUndefine c g => exact .inr (execGroupUndefine_evolves s c g)
  | memberAdd c g p k => exact .inr (execMemberAdd_evolves s c g p k)
  | memberRemove c g p => exact .inr (execMemberRemove_evolves s c g p)
  | groupStatusRead c g => exact .inr (execGroupStatusRead_evolves s c g)
  | planSet c p n sk sn lv ls tb => exact .inr (execPlanSet_evolves s c p n sk sn lv ls tb)
  | planPosition c p d f => exact .inr (execPlanPosition_evolves s c p d f)
  | mixApply c p => exact .inr (execMixApply_evolves s c p)
  | speakerStatusRead c p => exact .inr (execSpeakerStatusRead_evolves s c p)
  | speakersResume c => exact .inr (execSpeakersResume_evolves s c)
  | levelRead c k n => exact .inr (execLevelRead_evolves s c k n)
  | pageLoad c pg sl k t a => exact .inr (execPageLoad_evolves s c pg sl k t a)
  | pageCommit c pg => exact .inr (execPageCommit_evolves s c pg)
  | pageDiscard c => exact .inr (execPageDiscard_evolves s c)
  | guardSet c p g => exact .inr (execGuardSet_evolves s c p g)
  | entryRead c p k => exact .inr (execEntryRead_evolves s c p k)
  | positionWipe c p mnt => exact .inr (execPositionWipe_evolves s c p mnt)
  | portReset c tag => exact .inr (nextEvolves (portReset_evolves s c tag))
  | setParameter c n v => exact .inr (execSetParameter_evolves s c n v)
  | parameterRead c => exact .inr (answered_only_evolves s c _ _)
  | noticeSetup c m t a => exact .inr (execNoticeSetup_evolves s c m t a)
  | noticeRead c n => exact .inr (execNoticeRead_evolves s c n)
  | requestFrame c bytes => exact .inr (nextEvolves (transfer_evolves s c bytes))
  | malformedFrame c bytes => exact .inr (nextEvolves (transfer_evolves s c bytes))
  | statusPoll c bytes => exact .inr (nextEvolves (transfer_evolves s c bytes))
  | pureRead c bytes => exact .inr (nextEvolves (transfer_evolves s c bytes))
  | resultReturn c => exact .inr (execResultReturn_evolves s c)
  | keyDown p k =>
    refine .inr (turretEvent_evolves s p _ fun t => ?_)
    split
    · exact pressKey_evolves t p k .turret
    · exact .refl
  | hold p => exact .inr (turretEvent_evolves s p _ fun t => holdKey_evolves t p .turret)
  | release p => exact .inr (turretEvent_evolves s p _ fun t => (Moves.released p _).evolves)
  | answer p => exact .inr (turretEvent_evolves s p _ fun t => answerHead_evolves t p _ .turret)
  | privacy p => exact .inr (turretEvent_evolves s p _ fun t => privacyKey_evolves t p .turret)
  | selectH0 p => exact .inr (turretEvent_evolves s p _ fun t => selectKey_evolves t p .h0)
  | selectH1 p => exact .inr (turretEvent_evolves s p _ fun t => selectKey_evolves t p .h1)
  | ringSilence p => exact .inr (turretEvent_evolves s p _ fun t => silenceKey_evolves t p)
  | spkMute p n => exact .inr (turretEvent_evolves s p _ fun t => channelResult_evolves t p n _ (muteKey_evolves t p n))
  | spkTalkDown p n =>
    exact .inr (turretEvent_evolves s p _ fun t => channelResult_evolves t p n _ (talkKeyDown_evolves t p n))
  | spkTalkUp p n => exact .inr (turretEvent_evolves s p _ fun t => talkKeyUp_evolves t p n)
  | hookOn p h => exact .inr (turretEvent_evolves s p _ fun t => hookOnEvent_evolves t p h)
  | hookOff p h => exact .inr (turretEvent_evolves s p _ fun t => hookOffEvent_evolves t p h)
  | knob p j a b =>
    refine .inr (turretEvent_evolves s p _ fun t => ?_)
    split
    · exact knobEvent_evolves t p j a b
    · exact .refl
  | turretFrame p f => exact .inr (nextEvolves (setLink_evolves s p _))
  | announce p kc kn => exact .inr (execAnnounce_evolves s p kc kn)
  | lossTimerExpiry p => exact .inr (execLossTimerExpiry_evolves s p)
  | linkUpAttach p =>
    exact .inr (nextEvolves ((setLink_evolves s p _).trans (linkUpTakes_evolves _ p)).finish)
  | highwayFrame slots => exact .inr (execHighwayFrame_evolves s slots)
  | signalChange l now => exact .inr (execSignalChange_evolves s l now)
  | burstExpiry l => exact .inr (execBurstExpiry_evolves s l)
  | answerWaitExpiry l => exact .inr (execAnswerWaitExpiry_evolves s l)
  | holdExpiry l => exact .inr (execHoldExpiry_evolves s l)
  | recallExpiry l => exact .inr (execRecallExpiry_evolves s l)
  | guardExpiry l => exact .inr (execGuardExpiry_evolves s l)
  | denyTimerExpiry p x => exact .inr (execDenyTimerExpiry_evolves s p x)
  | cadenceTimerExpiry p => exact .inr (execCadenceTimerExpiry_evolves s p)
  | floorTimerExpiry g p => exact .inr (execFloorTimerExpiry_evolves s g p)
  | ageTimerExpiry c => exact .inr (execAgeTimerExpiry_evolves s c)
  | quietAsserted => exact .inr (execQuietAsserted_evolves s)
  | quietDeasserted => exact .inr (execQuietDeasserted_evolves s)
  | samplePeriod => exact .inr (nextEvolves (period_evolves s))

/-- What POWER ON RESET establishes and every transaction keeps, every step keeps. -/
theorem step_keeps {P : State → Prop} (reset : ∀ q m (pending : List Instr), P { State.powerOn q m with pending := pending })
    (moves : ∀ s t, Moves s t → P s → P t) {s t : State} (hs : P s) (stepped : step s = .next t) : P t := by
  unfold step at stepped
  split at stepped
  · cases stepped
    exact hs
  next c rest _ =>
  have front : P { s with pending := rest } := by
    refine moves s _ (.aside fun q hq => ?_) hs
    cases q <;> first | rfl | simp at hq
  rcases exec_evolves { s with pending := rest } c with ⟨q, m, rfl⟩ | e
  · cases stepped
    exact reset q m rest
  · exact (e t stepped).keeps moves front

end Sys2Proof.Machine
end

section
/-! PROOFS. Every step keeps every line record well-formed, and the floor of every group. -/

namespace Sys2Proof.Machine

-- One theorem after another: side by side they hold the memory of too many stacks.
set_option Elab.async false

/-! ### One line written -/

theorem linesOk_of_lines {s t : State} (h : s.linesOk) (lines : t.lines = s.lines) : t.linesOk := by
  intro l
  have := h l
  rwa [State.line, lines]

theorem linesOk_of_frame {ch : List Part} {s t : State} (h : s.linesOk) (frame : SameExcept ch s t)
    (hl : Part.lines ∉ ch := by decide) : t.linesOk := linesOk_of_lines h (frame .lines hl)

variable {s : State}

theorem setLine_linesOk (h : s.linesOk) {l : LineId} {x : Line} (ok : x.ok) : (s.setLine l x).linesOk := by
  intro m
  by_cases e : m = l
  · subst e; simpa using ok
  · simpa [e] using h m

theorem moveLine_linesOk (h : s.linesOk) {l : LineId} {x : Line} (ok : x.ok) : (s.moveLine l x).linesOk := by
  intro m
  by_cases e : m = l
  · subst e; simpa using ok
  · simpa [e] using h m

/-! ### Operations -/

theorem take_linesOk (h : s.linesOk) (l : LineId) (t : Take) (key : t.key.isSome = t.path.isHandset)
    (capable : t.path.isHandset = true → t.talkCapable = true) : (s.take l t).1.linesOk := by
  by_cases judged : judgeTake (s.line l) t = .ok
  · rw [take_ok s judged]
    exact moveLine_linesOk h ((h l).afterTake judged key capable _)
  · rwa [take_refused s judged]

theorem leave_linesOk (h : s.linesOk) (l : LineId) (p : PositionId) (path : Path) : (s.leave l p path).1.linesOk := by
  unfold State.leave
  split
  · exact h
  · next y party =>
    exact moveLine_linesOk h ((h l).afterLeave (Line.party?_isSome.1 (by simp [party])) _)

theorem hold_linesOk (h : s.linesOk) (l : LineId) (p : PositionId) (hs : Handset) : (s.hold l p hs).1.linesOk := by
  unfold State.hold
  split
  · exact h
  · next y party =>
    split
    · obtain ⟨mem, -, path⟩ := Line.of_party? party
      have keyed : y.key.isSome = true := by rw [(h l).keyOfHandset y mem, path]; rfl
      obtain ⟨k, hk⟩ := Option.isSome_iff_exists.1 keyed
      rw [hk]
      exact moveLine_linesOk h ((h l).onHold mem _ fun t ht => startTimer_purpose ht)
    · exact leave_linesOk h l p _

theorem switchAway_linesOk (h : s.linesOk) (p : PositionId) (hs : Handset) (old : Option Held) :
    (s.switchAway p hs old).linesOk := by
  unfold State.switchAway
  split
  · exact h
  · exact linesOk_of_frame h (talkRelease_frame s _ p _)
  · split
    · exact hold_linesOk h _ p hs
    · exact leave_linesOk h _ p _

theorem replaceSlot_linesOk (h : s.linesOk) (p : PositionId) (hs : Handset) (old : Option Held) (new : Held) :
    (s.replaceSlot p hs old new).linesOk :=
  linesOk_of_frame (linesOk_of_frame (switchAway_linesOk h p hs old) (setSlot_frame _ p hs _)) (reportSlot_frame _ p old)

theorem releaseSlot_linesOk (h : s.linesOk) (p : PositionId) (hs : Handset) : (s.releaseSlot p hs).1.linesOk := by
  unfold State.releaseSlot
  split
  · exact h
  · exact linesOk_of_frame (linesOk_of_frame (leave_linesOk h _ p _) (setSlot_frame _ p hs _)) (reportEnd_frame _ p _)
  · exact linesOk_of_frame
      (linesOk_of_frame (linesOk_of_frame h (talkRelease_frame s _ p _)) (setSlot_frame _ p hs _)) (reportEnd_frame _ p _)

theorem sendTake_linesOk (h : s.linesOk) (p : PositionId) (n : ChannelId) : (State.sendTake p s n).linesOk := by
  unfold State.sendTake
  dsimp only
  split
  · next l _ =>
    split
    · have taken := take_linesOk h l (speakerTake p n (s.channel p n).talkback) rfl (by simp [speakerTake, Path.isHandset])
      split <;> rename_i heq
      · rw [heq] at taken
        exact linesOk_of_frame taken (setChannel_frame _ p n _)
      · exact linesOk_of_frame h (setChannel_frame _ p n _)
    · exact h
  all_goals exact h

theorem updateTalkCapable_linesOk (h : s.linesOk) (l : LineId) (p : PositionId) (n : ChannelId) (v : Bool) :
    (s.updateTalkCapable l p (.channel n) v).linesOk :=
  setLine_linesOk h ((h l).mapParty p _ _ (fun _ => ⟨rfl, rfl, rfl⟩) (by simp [Path.isHandset]))

theorem takeDown_linesOk (h : s.linesOk) (p : PositionId) (n : ChannelId) : (s.takeDown p n).linesOk := by
  unfold State.takeDown
  dsimp only
  repeat' split
  · exact leave_linesOk h _ p _
  · exact h
  · exact linesOk_of_frame h (talkRelease_frame s _ p _)
  · exact h
  · exact h

theorem talkbackUpdate_linesOk (h : s.linesOk) (p : PositionId) (n : ChannelId) (v : Bool) :
    (s.talkbackUpdate p n v).linesOk := by
  unfold State.talkbackUpdate
  dsimp only
  repeat' split
  · exact updateTalkCapable_linesOk h _ p n v
  all_goals exact h

theorem planChannel_linesOk (h : s.linesOk) (p : PositionId) (n : ChannelId) : (State.planChannel p s n).linesOk := by
  unfold State.planChannel
  dsimp only
  split
  · exact linesOk_of_frame (talkbackUpdate_linesOk h p n _) (setChannel_frame _ p n _)
  · exact linesOk_of_frame (takeDown_linesOk h p n) (setChannel_frame _ p n _)

theorem attachPhase_linesOk (h : s.linesOk) (p : PositionId) (n : ChannelId) : (State.attachPhase p s n).linesOk := by
  unfold State.attachPhase
  dsimp only
  repeat' split
  · exact h
  · exact sendTake_linesOk (linesOk_of_frame h (setChannel_frame _ p n _)) p n
  all_goals exact linesOk_of_frame h (setChannel_frame _ p n _)

/-- What each step of a walk through a list keeps, the whole walk keeps. -/
theorem foldl_keeps {α : Type} {P : State → Prop} {f : State → α → State} (keeps : ∀ s a, P s → P (f s a)) (xs : List α)
    {s : State} (h : P s) : P (xs.foldl f s) := by
  induction xs generalizing s with
  | nil => exact h
  | cons x xs ih => exact ih (keeps s x h)

theorem installPlan_linesOk (h : s.linesOk) (p : PositionId) (old new : Nat) : (s.installPlan p old new).linesOk := by
  have planned := foldl_keeps (P := State.linesOk) (fun s n h => planChannel_linesOk h p n) (ascending 8) h
  have attached := foldl_keeps (P := State.linesOk) (fun s n h => attachPhase_linesOk h p n) (ascending 8) planned
  unfold State.installPlan
  dsimp only
  generalize (ascending 8).foldl (State.attachPhase p) ((ascending 8).foldl (State.planChannel p) s) = u at attached ⊢
  exact linesOk_of_lines attached rfl

theorem channelLinkLoss_linesOk (h : s.linesOk) (p : PositionId) (n : ChannelId) :
    (State.channelLinkLoss p s n).linesOk := by
  unfold State.channelLinkLoss
  dsimp only
  repeat' split
  · exact linesOk_of_frame (leave_linesOk h _ p _) (setChannel_frame _ p n _)
  · exact linesOk_of_frame h (setChannel_frame _ p n _)
  · exact linesOk_of_frame (linesOk_of_frame h (talkRelease_frame s _ p _)) (setChannel_frame _ p n _)
  all_goals exact linesOk_of_frame h (setChannel_frame _ p n _)

theorem dropGroupSlot_frame (s : State) (g : GroupId) (p : PositionId) (hs : Handset) :
    SameExcept [.positions, .termCount, .directory, .notices] s (State.dropGroupSlot g p s hs) := by
  unfold State.dropGroupSlot
  split
  · exact (setSlot_frame s p hs none).step (reportSlot_frame _ p _)
  · exact .refl _ s

/-- A line cleared of its call is well-formed whatever the record held (R27). -/
theorem clearLine_linesOk (h : s.linesOk) (l : LineId) {e : LineState} (r : ResultCode)
    (entered : e = .fault ∨ e = .outOfService) : (s.clearLine l e r).linesOk := by
  have others (m : LineId) (ne : m ≠ l) (t : State) (x : Line) :
      (t.moveLine l x).line m = t.line m := moveLine_line_ne t x ne
  unfold State.clearLine
  dsimp only
  have cleared := SameExcept.foldl (fun s x => partyRemoved_frame s r x) (s.line l).parties
    (s.setLine l { s.line l with parties := [] })
  generalize (s.line l).parties.foldl (State.partyRemoved r) (s.setLine l { s.line l with parties := [] }) = s2 at cleared
  have line2 := lines_of_frame cleared
  generalize eq3 : (s2.setLine l { s2.line l with holdOwner := none, privateHold := false }).reportOwner
    (s2.line l).holdOwner = s3
  have reported : ∀ m, s3.line m = (s2.setLine l { s2.line l with holdOwner := none, privateHold := false }).line m := by
    rw [← eq3]
    exact lines_of_frame (reportOwner_frame _ _)
  intro m
  by_cases ne : m = l
  · subst ne
    rw [moveLine_line, reported, State.setLine_line, line2, State.setLine_line]
    rcases entered with rfl | rfl
    · exact .cleared rfl rfl rfl rfl rfl rfl rfl rfl (by simp) (by simp) (h m).missed
    · exact .cleared rfl rfl rfl rfl rfl rfl rfl rfl (by simp) (by simp) (h m).missed
  · rw [others m ne, reported, State.setLine_line_ne _ _ ne, line2, State.setLine_line_ne _ _ ne]
    exact h m

theorem abandon_linesOk (h : s.linesOk) (l : LineId) (onHold : (s.line l).state = .held ∨ (s.line l).state = .recall) :
    (s.abandon l).linesOk := by
  unfold State.abandon
  dsimp only
  refine linesOk_of_frame ?_ (raise_frame _ _)
  generalize eq1 : (s.setLine l { s.line l with holdOwner := none, privateHold := false }).reportOwner
    (s.line l).holdOwner = s1
  have reported : ∀ m, s1.line m = (s.setLine l { s.line l with holdOwner := none, privateHold := false }).line m := by
    rw [← eq1]
    exact lines_of_frame (reportOwner_frame _ _)
  intro m
  by_cases ne : m = l
  · subst ne
    rw [moveLine_line, reported, State.setLine_line]
    have parties : (s.line m).parties = [] := (h m).no_parties (by rcases onHold with e | e <;> simp [e, LineState.partyless])
    exact Line.ok.guarded (x := { s.line m with holdOwner := none, privateHold := false }) parties rfl rfl (h m).missed _
  · rw [moveLine_line_ne _ _ ne, reported, State.setLine_line_ne _ _ ne]
    exact h m

theorem configureLine_linesOk (h : s.linesOk) (l : LineId) (k : LineClass) (b : BargePolicy) (r : Ringdown) :
    (s.configureLine l k b r).linesOk := by
  have moved := moveLine_linesOk h (l := l) ((h l).configured k b r)
  unfold State.configureLine
  dsimp only
  split
  · exact linesOk_of_frame moved (refileRing_frame _ l)
  · exact moved

theorem commitSlot_frame (b : Staging) (page : Fin 128) (acc : State × CommitCounts) (i : Fin 16) :
    SameExcept [.directory] acc.1 (commitSlot b page acc i).1 := by
  unfold commitSlot State.commitEntry
  dsimp only
  repeat' split
  · exact setEntry_frame _ _ _ _
  · exact setEntry_frame _ _ _ _
  · exact setEntry_frame _ _ _ _
  · exact .refl _ _

theorem foldl_commitSlot_frame (b : Staging) (page : Fin 128) (xs : List (Fin 16)) (acc : State × CommitCounts) :
    SameExcept [.directory] acc.1 (xs.foldl (commitSlot b page) acc).1 := by
  induction xs generalizing acc with
  | nil => exact .refl _ _
  | cons i xs ih => exact (commitSlot_frame b page acc i).trans (ih _)

theorem applyPage_frame (s : State) (c : Port) (page : Fin 128) :
    SameExcept [.directory, .staging, .positions] s (s.applyPage c page).1 := by
  have committed := foldl_commitSlot_frame (s.stagingOf c) page (ascending 16) (s, ⟨0, 0, 0⟩)
  unfold State.applyPage
  dsimp only
  generalize (ascending 16).foldl (commitSlot (s.stagingOf c) page) (s, ⟨0, 0, 0⟩) = u at committed ⊢
  have staged : SameExcept [.directory, .staging] s (u.1.setStaging c Staging.emptied) :=
    committed.step (setStaging_frame u.1 c Staging.emptied)
  exact staged.step (directoryChanged_frame _ _ _)

theorem wipe_frame (s : State) (p : PositionId) : SameExcept [.directory, .guards, .positions] s (s.wipe p) := by
  have emptied : SameExcept [.directory] s { s with directory := s.directory.set p (Table.fill 64 ⟨.empty, none⟩) } := by
    intro q hq; cases q <;> first | rfl | simp at hq
  have opened : SameExcept [.directory, .guards] s
      ({ s with directory := s.directory.set p (Table.fill 64 ⟨.empty, none⟩) }.setGuard p .openGuard) :=
    emptied.step (setGuard_frame _ p .openGuard)
  exact opened.step (directoryChanged_frame _ p (s.directory.get p))

/-! ### Every transaction and every step -/

theorem Moves.linesOk {s t : State} (m : Moves s t) (h : s.linesOk) : t.linesOk := by
  cases m with
  | aside frame => exact linesOk_of_frame h frame
  | posted frame _ => exact linesOk_of_frame h frame
  | spoken p x _ _ => exact linesOk_of_frame h (setSpeaker_frame s p x)
  | keyed p n x _ _ _ => exact linesOk_of_frame h (setChannel_frame s p n x)
  | grouped g x _ => exact linesOk_of_frame h (setGroup_frame s g x)
  | touched l x core _ => exact setLine_linesOk h (core.ok (h l))
  | moved l x core => exact moveLine_linesOk h (core.ok (h l))
  | configured l k b r => exact configureLine_linesOk h l k b r
  | seated p hs l k o _ =>
    exact linesOk_of_frame (replaceSlot_linesOk (take_linesOk h l _ rfl fun _ => rfl) p hs _ _) (reportOwner_frame _ _)
  | joined p hs g k => exact replaceSlot_linesOk h p hs _ _
  | released p hs => exact releaseSlot_linesOk h p hs
  | held p hs l k _ =>
    exact linesOk_of_frame (linesOk_of_frame (hold_linesOk h l p hs) (setSlot_frame _ p hs _)) (reportEnd_frame _ p k)
  | dropped g p hs => exact linesOk_of_frame h (dropGroupSlot_frame s g p hs)
  | attached p n => exact sendTake_linesOk h p n
  | planned p old new => exact installPlan_linesOk h p old new
  | detached p n => exact channelLinkLoss_linesOk h p n
  | cleared l e r entered => exact clearLine_linesOk h l r entered
  | abandoned l onHold => exact abandon_linesOk h l onHold
  | committed c page => exact linesOk_of_frame h (applyPage_frame s c page)
  | wiped p _ => exact linesOk_of_frame h (wipe_frame s p)

theorem powerOn_linesOk (q m : Bool) (pending : List Instr) : State.linesOk { State.powerOn q m with pending := pending } := by
  intro l
  have reset : State.line { State.powerOn q m with pending := pending } l = Line.powerOn := Table.get_fill _ l
  rw [reset]
  exact .cleared rfl rfl rfl rfl rfl rfl rfl rfl (by simp [Line.powerOn]) (by simp [Line.powerOn]) (by simp [Line.powerOn])

/-- Settles O5: the line records are well-formed after power-on, and every transaction keeps them so. -/
theorem stepKeepsLines : Obligations.StepKeepsLines := fun _ _ h stepped =>
  step_keeps powerOn_linesOk (fun _ _ m h => m.linesOk h) h stepped

end Sys2Proof.Machine
end

section
/-! PROOFS. Every step keeps the floor of every group, and the steps and residues of the loudspeakers. -/

namespace Sys2Proof.Machine

-- One theorem after another: side by side they hold the memory of too many stacks.
set_option Elab.async false

/-! ### Floors -/

theorem groupsOk_of_frame {ch : List Part} {s t : State} (h : s.groupsOk) (frame : SameExcept ch s t)
    (hg : Part.groups ∉ ch := by decide) : t.groupsOk := by
  intro g
  have groups : t.groups = s.groups := frame .groups hg
  have := h g
  rwa [State.group, groups]

variable {s : State}

theorem setGroup_groupsOk (h : s.groupsOk) {g : GroupId} {x : Group} (ok : (s.group g).ok → x.ok) :
    (s.setGroup g x).groupsOk := by
  intro g'
  by_cases e : g' = g
  · subst e; simpa using ok (h g')
  · simpa [e] using h g'

theorem talkRelease_groupsOk (h : s.groupsOk) (g : GroupId) (p : PositionId) (src : Path) :
    (s.talkRelease g p src).1.groupsOk := by
  unfold State.talkRelease
  split
  · next w waits =>
    split
    · exact setGroup_groupsOk h fun ok => ok.withdrawn (by simp [waits])
    · exact h
  · split
    · next y talks =>
      split
      · dsimp only
        rw [endTalker_is]
        exact groupsOk_of_frame (setGroup_groupsOk h fun ok => ok.talkerEnded _ (by simp [talks])) (foldl_raise_frame _ _)
      · exact h
    · exact h

theorem replaceSlot_groupsOk (h : s.groupsOk) (p : PositionId) (hs : Handset) (old : Option Held) (new : Held) :
    (s.replaceSlot p hs old new).groupsOk := by
  have away : (s.switchAway p hs old).groupsOk := by
    unfold State.switchAway
    split
    · exact h
    · exact talkRelease_groupsOk h _ p _
    · split
      · exact groupsOk_of_frame h (hold_frame s _ p hs)
      · exact groupsOk_of_frame h (leave_frame s _ p _)
  exact groupsOk_of_frame (groupsOk_of_frame away (setSlot_frame _ p hs _)) (reportSlot_frame _ p old)

theorem releaseSlot_groupsOk (h : s.groupsOk) (p : PositionId) (hs : Handset) : (s.releaseSlot p hs).1.groupsOk := by
  unfold State.releaseSlot
  split
  · exact h
  · exact groupsOk_of_frame (groupsOk_of_frame (groupsOk_of_frame h (leave_frame s _ p _)) (setSlot_frame _ p hs _))
      (reportEnd_frame _ p _)
  · exact groupsOk_of_frame (groupsOk_of_frame (talkRelease_groupsOk h _ p _) (setSlot_frame _ p hs _))
      (reportEnd_frame _ p _)

theorem planChannel_groupsOk (h : s.groupsOk) (p : PositionId) (n : ChannelId) : (State.planChannel p s n).groupsOk := by
  have down : (s.takeDown p n).groupsOk := by
    unfold State.takeDown
    dsimp only
    repeat' split
    · exact groupsOk_of_frame h (leave_frame s _ p _)
    · exact h
    · exact talkRelease_groupsOk h _ p _
    · exact h
    · exact h
  unfold State.planChannel
  dsimp only
  split
  · exact groupsOk_of_frame (groupsOk_of_frame h (talkbackUpdate_frame s p n _)) (setChannel_frame _ p n _)
  · exact groupsOk_of_frame down (setChannel_frame _ p n _)

theorem attachPhase_groupsOk (h : s.groupsOk) (p : PositionId) (n : ChannelId) : (State.attachPhase p s n).groupsOk := by
  unfold State.attachPhase
  dsimp only
  repeat' split
  · exact h
  · exact groupsOk_of_frame (groupsOk_of_frame h (setChannel_frame s p n _)) (sendTake_frame _ p n)
  all_goals exact groupsOk_of_frame h (setChannel_frame s p n _)

theorem installPlan_groupsOk (h : s.groupsOk) (p : PositionId) (old new : Nat) : (s.installPlan p old new).groupsOk := by
  have planned := foldl_keeps (P := State.groupsOk) (fun s n h => planChannel_groupsOk h p n) (ascending 8) h
  have attached := foldl_keeps (P := State.groupsOk) (fun s n h => attachPhase_groupsOk h p n) (ascending 8) planned
  unfold State.installPlan
  dsimp only
  generalize (ascending 8).foldl (State.attachPhase p) ((ascending 8).foldl (State.planChannel p) s) = u at attached ⊢
  exact attached

theorem channelLinkLoss_groupsOk (h : s.groupsOk) (p : PositionId) (n : ChannelId) :
    (State.channelLinkLoss p s n).groupsOk := by
  unfold State.channelLinkLoss
  dsimp only
  repeat' split
  · exact groupsOk_of_frame (groupsOk_of_frame h (leave_frame s _ p _)) (setChannel_frame _ p n _)
  · exact groupsOk_of_frame h (setChannel_frame _ p n _)
  · exact groupsOk_of_frame (talkRelease_groupsOk h _ p _) (setChannel_frame _ p n _)
  all_goals exact groupsOk_of_frame h (setChannel_frame _ p n _)

theorem configureLine_frame (s : State) (l : LineId) (k : LineClass) (b : BargePolicy) (r : Ringdown) :
    SameExcept [.lines, .positions, .notices, .offers] s (s.configureLine l k b r) := by
  unfold State.configureLine
  dsimp only
  split
  · exact (moveLine_frame s l _).step (refileRing_frame _ l)
  · exact (moveLine_frame s l _).mono

theorem Moves.groupsOk {s t : State} (m : Moves s t) (h : s.groupsOk) : t.groupsOk := by
  cases m with
  | aside frame => exact groupsOk_of_frame h frame
  | posted frame _ => exact groupsOk_of_frame h frame
  | spoken p x _ _ => exact groupsOk_of_frame h (setSpeaker_frame s p x)
  | keyed p n x _ _ _ => exact groupsOk_of_frame h (setChannel_frame s p n x)
  | grouped g x ok => exact setGroup_groupsOk h ok
  | touched l x _ _ => exact groupsOk_of_frame h (setLine_frame s l x)
  | moved l x _ => exact groupsOk_of_frame h (moveLine_frame s l x)
  | configured l k b r => exact groupsOk_of_frame h (configureLine_frame s l k b r)
  | seated p hs l k o _ =>
    exact groupsOk_of_frame (replaceSlot_groupsOk (groupsOk_of_frame h (take_frame s l _)) p hs _ _)
      (reportOwner_frame _ _)
  | joined p hs g k => exact replaceSlot_groupsOk h p hs _ _
  | released p hs => exact releaseSlot_groupsOk h p hs
  | held p hs l k _ =>
    exact groupsOk_of_frame (groupsOk_of_frame (groupsOk_of_frame h (hold_frame s l p hs)) (setSlot_frame _ p hs _))
      (reportEnd_frame _ p k)
  | dropped g p hs => exact groupsOk_of_frame h (dropGroupSlot_frame s g p hs)
  | attached p n => exact groupsOk_of_frame h (sendTake_frame s p n)
  | planned p old new => exact installPlan_groupsOk h p old new
  | detached p n => exact channelLinkLoss_groupsOk h p n
  | cleared l e r _ => exact groupsOk_of_frame h (clearLine_frame s l e r)
  | abandoned l _ => exact groupsOk_of_frame h (abandon_frame s l)
  | committed c page => exact groupsOk_of_frame h (applyPage_frame s c page)
  | wiped p _ => exact groupsOk_of_frame h (wipe_frame s p)

theorem powerOn_groupsOk (q m : Bool) (pending : List Instr) :
    State.groupsOk { State.powerOn q m with pending := pending } := by
  intro g
  have reset : State.group { State.powerOn q m with pending := pending } g = Group.powerOn := Table.get_fill _ g
  rw [reset]
  exact Group.ok_empty _ _ (by simp)

/-- Settles O10: every group is well-formed after power-on, and every transaction keeps it so. -/
theorem stepKeepsFloors : Obligations.StepKeepsFloors := fun _ _ h stepped =>
  step_keeps powerOn_groupsOk (fun _ _ m h => m.groupsOk h) h stepped

/-! ### Loudspeaker steps and knob residues -/

/-- What the knobs invariant reads: everything of a speaker but its channels, and the two knobs of a position. -/
structure SameKnobs (s t : State) : Prop where
  speaker : ∀ p, (s.speaker p).stepsOk → (t.speaker p).stepsOk
  knobs : ∀ p, (s.position p).knob0.ok ∧ (s.position p).knob1.ok → (t.position p).knob0.ok ∧ (t.position p).knob1.ok

theorem SameKnobs.refl (s : State) : SameKnobs s s := ⟨fun _ h => h, fun _ h => h⟩

theorem SameKnobs.trans {s t u : State} (h : SameKnobs s t) (k : SameKnobs t u) : SameKnobs s u :=
  ⟨fun p x => k.speaker p (h.speaker p x), fun p x => k.knobs p (h.knobs p x)⟩

theorem SameKnobs.foldl {α : Type} {f : State → α → State} (h : ∀ s a, SameKnobs s (f s a)) (xs : List α) (s : State) :
    SameKnobs s (xs.foldl f s) := by
  induction xs generalizing s with
  | nil => exact .refl s
  | cons x xs ih => exact (h s x).trans (ih (f s x))

theorem SameKnobs.knobsOk {s t : State} (k : SameKnobs s t) (h : s.knobsOk) : t.knobsOk :=
  ⟨fun p => k.speaker p (h.1 p), fun p => k.knobs p (h.2 p)⟩

/-- Ring queues and ringers alone. -/
theorem SameKnobs.of_rings {s t : State} (speakers : t.speakers = s.speakers) (rings : OnlyRings s t) : SameKnobs s t := by
  refine ⟨fun p h => ?_, fun p h => ?_⟩
  · rwa [State.speaker, speakers]
  · rw [rings p]
    exact h

theorem SameKnobs.of_frame {ch : List Part} {s t : State} (frame : SameExcept ch s t)
    (hs : Part.speakers ∉ ch := by decide) (hp : Part.positions ∉ ch := by decide) : SameKnobs s t :=
  .of_rings (frame .speakers hs) (.of_positions (frame .positions hp))

theorem SameKnobs.of_rings_frame {ch : List Part} {s t : State} (frame : SameExcept ch s t) (rings : OnlyRings s t)
    (hs : Part.speakers ∉ ch := by decide) : SameKnobs s t := .of_rings (frame .speakers hs) rings

variable (s)

theorem setChannel_sameKnobs (p : PositionId) (n : ChannelId) (x : Channel) : SameKnobs s (s.setChannel p n x) := by
  refine ⟨fun q h => ?_, fun q h => h⟩
  by_cases e : q = p
  · subst e
    rw [State.setChannel, State.setSpeaker_speaker]
    exact h
  · rwa [State.setChannel, State.setSpeaker_speaker_ne _ _ e]

theorem setSlot_sameKnobs (p : PositionId) (h : Handset) (x : Option Held) : SameKnobs s (s.setSlot p h x) := by
  refine ⟨fun q h => h, fun q hq => ?_⟩
  by_cases e : q = p
  · subst e; cases h <;> simpa [State.setSlot, State.position, Position.setHandset] using hq
  · simpa [State.setSlot, State.position, e] using hq

theorem leave_sameKnobs (l : LineId) (p : PositionId) (path : Path) : SameKnobs s (s.leave l p path).1 := by
  unfold State.leave
  split
  · exact .refl s
  · exact .of_rings_frame (moveLine_frame s l _) (moveLine_rings s l _)

theorem hold_sameKnobs (l : LineId) (p : PositionId) (h : Handset) : SameKnobs s (s.hold l p h).1 := by
  unfold State.hold
  split
  · exact .refl s
  · split
    · exact .of_rings_frame (moveLine_frame s l _) (moveLine_rings s l _)
    · exact leave_sameKnobs s l p _

theorem take_sameKnobs (l : LineId) (t : Take) : SameKnobs s (s.take l t).1 := by
  by_cases judged : judgeTake (s.line l) t = .ok
  · rw [take_ok s judged]
    exact .of_rings_frame (moveLine_frame s l _) (moveLine_rings s l _)
  · rw [take_refused s judged]
    exact .refl s

theorem talkRelease_sameKnobs (g : GroupId) (p : PositionId) (src : Path) : SameKnobs s (s.talkRelease g p src).1 :=
  .of_frame (talkRelease_frame s g p src)

theorem reportEnd_sameKnobs (p : PositionId) (k : Key) : SameKnobs s (s.reportEnd p k) :=
  .of_rings_frame (reportEnd_frame s p k) (reportEnd_rings s p k)

theorem reportSlot_sameKnobs (p : PositionId) (old : Option Held) : SameKnobs s (s.reportSlot p old) :=
  .of_rings_frame (reportSlot_frame s p old) (reportSlot_rings s p old)

theorem reportOwner_sameKnobs (o : Option KeyRef) : SameKnobs s (s.reportOwner o) :=
  .of_rings_frame (reportOwner_frame s o) (reportOwner_rings s o)

theorem replaceSlot_sameKnobs (p : PositionId) (h : Handset) (old : Option Held) (new : Held) :
    SameKnobs s (s.replaceSlot p h old new) := by
  have away : SameKnobs s (s.switchAway p h old) := by
    unfold State.switchAway
    split
    · exact .refl s
    · exact talkRelease_sameKnobs s _ p _
    · split
      · exact hold_sameKnobs s _ p h
      · exact leave_sameKnobs s _ p _
  exact (away.trans (setSlot_sameKnobs _ p h _)).trans (reportSlot_sameKnobs _ p old)

theorem releaseSlot_sameKnobs (p : PositionId) (h : Handset) : SameKnobs s (s.releaseSlot p h).1 := by
  unfold State.releaseSlot
  split
  · exact .refl s
  · exact ((leave_sameKnobs s _ p _).trans (setSlot_sameKnobs _ p h _)).trans (reportEnd_sameKnobs _ p _)
  · exact ((talkRelease_sameKnobs s _ p _).trans (setSlot_sameKnobs _ p h _)).trans (reportEnd_sameKnobs _ p _)

theorem sendTake_sameKnobs (p : PositionId) (n : ChannelId) : SameKnobs s (State.sendTake p s n) := by
  unfold State.sendTake
  dsimp only
  split
  · next l _ =>
    split
    · have taken := take_sameKnobs s l (speakerTake p n (s.channel p n).talkback)
      split <;> rename_i heq
      · rw [heq] at taken
        exact taken.trans (setChannel_sameKnobs _ p n _)
      · exact setChannel_sameKnobs s p n _
    · exact .refl s
  all_goals exact .refl s

theorem planChannel_sameKnobs (p : PositionId) (n : ChannelId) : SameKnobs s (State.planChannel p s n) := by
  have down : SameKnobs s (s.takeDown p n) := by
    unfold State.takeDown
    dsimp only
    repeat' split
    · exact leave_sameKnobs s _ p _
    · exact .refl s
    · exact talkRelease_sameKnobs s _ p _
    · exact .refl s
    · exact .refl s
  unfold State.planChannel
  dsimp only
  split
  · exact (SameKnobs.of_frame (talkbackUpdate_frame s p n _)).trans (setChannel_sameKnobs _ p n _)
  · exact down.trans (setChannel_sameKnobs _ p n _)

theorem attachPhase_sameKnobs (p : PositionId) (n : ChannelId) : SameKnobs s (State.attachPhase p s n) := by
  unfold State.attachPhase
  dsimp only
  repeat' split
  · exact .refl s
  · exact (setChannel_sameKnobs s p n _).trans (sendTake_sameKnobs _ p n)
  all_goals exact setChannel_sameKnobs s p n _

theorem installLevels_ok {x : Speaker} (h : x.stepsOk) : x.installLevels.stepsOk := by
  obtain ⟨-, staged, -, -⟩ := h
  exact ⟨staged, staged, le_max_right _ _, le_max_right _ _⟩

theorem installPlan_sameKnobs (p : PositionId) (old new : Nat) : SameKnobs s (s.installPlan p old new) := by
  have planned := SameKnobs.foldl (fun s n => planChannel_sameKnobs s p n) (ascending 8) s
  have attached := planned.trans (SameKnobs.foldl (fun s n => attachPhase_sameKnobs s p n) (ascending 8) _)
  unfold State.installPlan
  dsimp only
  generalize (ascending 8).foldl (State.attachPhase p) ((ascending 8).foldl (State.planChannel p) s) = u at attached ⊢
  refine attached.trans ⟨fun q h => ?_, fun q h => h⟩
  by_cases e : q = p
  · subst e
    rw [State.setSpeaker_speaker]
    exact installLevels_ok h
  · rw [State.setSpeaker_speaker_ne _ _ e]
    exact h

theorem channelLinkLoss_sameKnobs (p : PositionId) (n : ChannelId) : SameKnobs s (State.channelLinkLoss p s n) := by
  unfold State.channelLinkLoss
  dsimp only
  repeat' split
  · exact (leave_sameKnobs s _ p _).trans (setChannel_sameKnobs _ p n _)
  · exact setChannel_sameKnobs s p n _
  · exact (talkRelease_sameKnobs s _ p _).trans (setChannel_sameKnobs _ p n _)
  all_goals exact setChannel_sameKnobs s p n _

theorem partyRemoved_sameKnobs (r : ResultCode) (x : Party) : SameKnobs s (State.partyRemoved r s x) := by
  unfold State.partyRemoved
  split
  · exact (setSlot_sameKnobs s _ _ none).trans (reportSlot_sameKnobs _ _ _)
  · exact setChannel_sameKnobs s _ _ _

theorem moveLine_sameKnobs (l : LineId) (x : Line) : SameKnobs s (s.moveLine l x) :=
  .of_rings_frame (moveLine_frame s l x) (moveLine_rings s l x)

theorem setLine_sameKnobs (l : LineId) (x : Line) : SameKnobs s (s.setLine l x) := .of_frame (setLine_frame s l x)

theorem clearLine_sameKnobs (l : LineId) (e : LineState) (r : ResultCode) : SameKnobs s (s.clearLine l e r) := by
  refine SameKnobs.trans ?_ (moveLine_sameKnobs _ l _)
  refine SameKnobs.trans ?_ (reportOwner_sameKnobs _ _)
  refine SameKnobs.trans ?_ (setLine_sameKnobs _ l _)
  exact (setLine_sameKnobs s l _).trans (.foldl (fun s x => partyRemoved_sameKnobs s r x) _ _)

theorem abandon_sameKnobs (l : LineId) : SameKnobs s (s.abandon l) := by
  refine SameKnobs.trans ?_ (.of_frame (raise_frame _ _))
  refine SameKnobs.trans ?_ (moveLine_sameKnobs _ l _)
  exact (setLine_sameKnobs s l _).trans (reportOwner_sameKnobs _ _)

theorem configureLine_sameKnobs (l : LineId) (k : LineClass) (b : BargePolicy) (r : Ringdown) :
    SameKnobs s (s.configureLine l k b r) := by
  unfold State.configureLine
  dsimp only
  split
  · exact (moveLine_sameKnobs s l _).trans (.of_rings_frame (refileRing_frame _ l) (refileRing_rings _ l))
  · exact moveLine_sameKnobs s l _

theorem directoryChanged_sameKnobs (p : PositionId) (old : Table 64 Entry) : SameKnobs s (s.directoryChanged p old) :=
  .of_rings_frame (directoryChanged_frame s p old) (directoryChanged_rings s p old)

theorem applyPage_sameKnobs (c : Port) (page : Fin 128) : SameKnobs s (s.applyPage c page).1 := by
  have committed := foldl_commitSlot_frame (s.stagingOf c) page (ascending 16) (s, ⟨0, 0, 0⟩)
  unfold State.applyPage
  dsimp only
  generalize (ascending 16).foldl (commitSlot (s.stagingOf c) page) (s, ⟨0, 0, 0⟩) = u at committed ⊢
  have staged : SameExcept [.directory, .staging] s (u.1.setStaging c Staging.emptied) :=
    committed.step (setStaging_frame u.1 c Staging.emptied)
  exact (SameKnobs.of_frame staged).trans (directoryChanged_sameKnobs _ _ _)

theorem wipe_sameKnobs (p : PositionId) : SameKnobs s (s.wipe p) := by
  refine SameKnobs.trans ?_ (directoryChanged_sameKnobs _ p (s.directory.get p))
  exact .of_rings rfl (.of_positions rfl)

/-- Every transaction keeps loudspeaker steps and knob residues in their ranges. -/
theorem Moves.sameKnobs {s t : State} (m : Moves s t) : SameKnobs s t := by
  cases m with
  | aside frame => exact .of_frame frame
  | posted frame core =>
    refine ⟨fun p h => ?_, fun p => (core p).knobs⟩
    have speakers : t.speakers = s.speakers := frame .speakers (by decide)
    rwa [State.speaker, speakers]
  | spoken p x _ steps =>
    refine ⟨fun q h => ?_, fun q h => h⟩
    by_cases e : q = p
    · subst e; simpa using steps h
    · simpa [e] using h
  | keyed p n x _ _ _ => exact setChannel_sameKnobs s p n x
  | grouped g x _ => exact .of_frame (setGroup_frame s g x)
  | touched l x _ _ => exact setLine_sameKnobs s l x
  | moved l x _ => exact moveLine_sameKnobs s l x
  | configured l k b r => exact configureLine_sameKnobs s l k b r
  | seated p hs l k o _ =>
    exact ((take_sameKnobs s l _).trans (replaceSlot_sameKnobs _ p hs _ _)).trans (reportOwner_sameKnobs _ _)
  | joined p hs g k => exact replaceSlot_sameKnobs s p hs _ _
  | released p hs => exact releaseSlot_sameKnobs s p hs
  | held p hs l k _ =>
    exact ((hold_sameKnobs s l p hs).trans (setSlot_sameKnobs _ p hs _)).trans (reportEnd_sameKnobs _ p k)
  | dropped g p hs =>
    unfold State.dropGroupSlot
    split
    · exact (setSlot_sameKnobs s p hs none).trans (reportSlot_sameKnobs _ p _)
    · exact .refl s
  | attached p n => exact sendTake_sameKnobs s p n
  | planned p old new => exact installPlan_sameKnobs s p old new
  | detached p n => exact channelLinkLoss_sameKnobs s p n
  | cleared l e r _ => exact clearLine_sameKnobs s l e r
  | abandoned l _ => exact abandon_sameKnobs s l
  | committed c page => exact applyPage_sameKnobs s c page
  | wiped p _ => exact wipe_sameKnobs s p

theorem powerOn_knobsOk (q m : Bool) (pending : List Instr) :
    State.knobsOk { State.powerOn q m with pending := pending } := by
  refine ⟨fun p => ?_, fun p => ?_⟩
  · have reset : State.speaker { State.powerOn q m with pending := pending } p = Speaker.powerOn := Table.get_fill _ p
    rw [reset]
    exact ⟨by decide, by decide, by decide, by decide⟩
  · have reset : State.position { State.powerOn q m with pending := pending } p = Position.powerOn := Table.get_fill _ p
    rw [reset]
    exact ⟨⟨by decide, by decide⟩, by decide, by decide⟩

theorem step_knobsOk {s t : State} (h : s.knobsOk) (stepped : step s = .next t) : t.knobsOk :=
  step_keeps powerOn_knobsOk (fun _ _ m => m.sameKnobs.knobsOk) h stepped

end Sys2Proof.Machine
end

section
/-! PROOFS. Every step keeps the handset slots and the handset parties of the lines in agreement. -/

namespace Sys2Proof.Machine

-- One theorem after another: side by side they hold the memory of too many stacks.
set_option Elab.async false

/-! ### The parties after a take, a leave and a hold -/

theorem Line.afterLeave_mem {x : Line} {timer : Option LineTimer} {p : PositionId} {path : Path} {y : Party} :
    y ∈ (x.afterLeave timer p path).parties ↔ y ∈ x.parties ∧ ¬(y.position = p ∧ y.path = path) := by
  rw [Line.afterLeave_parties, Line.mem_without]

variable {s : State}

theorem leave_parties {l m : LineId} {p : PositionId} {path : Path} {y : Party} :
    y ∈ ((s.leave l p path).1.line m).parties ↔
      y ∈ (s.line m).parties ∧ ¬(m = l ∧ y.position = p ∧ y.path = path) := by
  unfold State.leave
  split
  · next party =>
    have absent := Line.party?_eq_none.1 party
    refine ⟨fun hy => ⟨hy, ?_⟩, fun h => h.1⟩
    rintro ⟨rfl, seat⟩
    exact absent ⟨y, hy, seat⟩
  · by_cases e : m = l
    · subst e
      rw [moveLine_line, Line.afterLeave_mem]
      simp
    · rw [moveLine_line_ne _ _ e]
      simp [e]

theorem hold_parties {l m : LineId} {p : PositionId} {h : Handset} {y : Party} :
    y ∈ ((s.hold l p h).1.line m).parties ↔
      y ∈ (s.line m).parties ∧ ¬(m = l ∧ y.position = p ∧ y.path = .handset h) := by
  unfold State.hold
  split
  · next party =>
    have absent := Line.party?_eq_none.1 party
    refine ⟨fun hy => ⟨hy, ?_⟩, fun h => h.1⟩
    rintro ⟨rfl, seat⟩
    exact absent ⟨y, hy, seat⟩
  · split
    · next alone =>
      by_cases e : m = l
      · subst e
        rw [moveLine_line]
        have all_of : ∀ y ∈ (s.line m).parties, y.position = p ∧ y.path = .handset h := by
          intro y hy
          by_contra other
          simpa [alone] using Line.mem_without.2 ⟨hy, other⟩
        exact ⟨fun hy => absurd hy List.not_mem_nil, fun ⟨hy, other⟩ => absurd ⟨rfl, all_of y hy⟩ other⟩
      · rw [moveLine_line_ne _ _ e]
        simp [e]
    · exact leave_parties

theorem take_parties (h : s.linesOk) {l m : LineId} {t : Take} (judged : judgeTake (s.line l) t = .ok) {y : Party} :
    y ∈ ((s.take l t).1.line m).parties ↔ y ∈ (s.line m).parties ∨ (m = l ∧ y = t.party) := by
  rw [take_ok s judged]
  by_cases e : m = l
  · subst e
    rw [moveLine_line, (h m).afterTake_parties judged]
    simp
  · rw [moveLine_line_ne _ _ e]
    simp [e]

theorem take_refused_state {l : LineId} {t : Take} (judged : judgeTake (s.line l) t ≠ .ok) : (s.take l t).1 = s := by
  rw [take_refused s judged]

/-! ### Seats -/

/-- Handset `h` of `p` is a party of line `l` through key `k`. -/
def State.seat (s : State) (p : PositionId) (h : Handset) (l : LineId) (k : Key) : Prop :=
  ∃ y ∈ (s.line l).parties, y.position = p ∧ y.path = .handset h ∧ y.key = some k

theorem slotsAgree_iff : s.slotsAgree ↔ ∀ p h l k, s.slot p h = some ⟨.line l, k⟩ ↔ s.seat p h l k := Iff.rfl

theorem seat_congr {t : State} {l : LineId}
    (same : (t.line l).parties.map (fun z => (z.position, z.path, z.key)) =
      (s.line l).parties.map fun z => (z.position, z.path, z.key)) {p : PositionId} {h : Handset} {k : Key} :
    t.seat p h l k ↔ s.seat p h l k := by
  have seat_iff (u : State) : u.seat p h l k ↔
      (p, Path.handset h, some k) ∈ (u.line l).parties.map fun z => (z.position, z.path, z.key) := by
    simp [State.seat]
  rw [seat_iff, seat_iff, same]

theorem leave_seat {l m : LineId} {p q : PositionId} {h g : Handset} {k : Key} :
    (s.leave l p (.handset h)).1.seat q g m k ↔ s.seat q g m k ∧ ¬(m = l ∧ q = p ∧ g = h) := by
  simp only [State.seat, leave_parties]
  grind

theorem hold_seat {l m : LineId} {p q : PositionId} {h g : Handset} {k : Key} :
    (s.hold l p h).1.seat q g m k ↔ s.seat q g m k ∧ ¬(m = l ∧ q = p ∧ g = h) := by
  simp only [State.seat, hold_parties]
  grind

theorem leave_channel_seat {l m : LineId} {p q : PositionId} {n : ChannelId} {g : Handset} {k : Key} :
    (s.leave l p (.channel n)).1.seat q g m k ↔ s.seat q g m k := by
  simp only [State.seat, leave_parties]
  grind

theorem take_seat (h : s.linesOk) {l m : LineId} {t : Take} (judged : judgeTake (s.line l) t = .ok) {q : PositionId}
    {g : Handset} {k : Key} :
    (s.take l t).1.seat q g m k ↔
      s.seat q g m k ∨ (m = l ∧ q = t.position ∧ t.path = .handset g ∧ t.key = some k) := by
  simp only [State.seat, take_parties h judged]
  constructor
  · rintro ⟨y, hy | ⟨rfl, rfl⟩, position, path, key⟩
    · exact .inl ⟨y, hy, position, path, key⟩
    · exact .inr ⟨rfl, position.symm, path, key⟩
  · rintro (⟨y, hy, seat⟩ | ⟨rfl, rfl, path, key⟩)
    · exact ⟨y, .inl hy, seat⟩
    · exact ⟨t.party, .inr ⟨rfl, rfl⟩, rfl, path, key⟩

/-! ### Agreement -/

/-- Slots and seats alike. -/
structure SameSeats (s t : State) : Prop where
  slot : ∀ p h, t.slot p h = s.slot p h
  seat : ∀ p h l k, t.seat p h l k ↔ s.seat p h l k

theorem SameSeats.refl (s : State) : SameSeats s s := ⟨fun _ _ => rfl, fun _ _ _ _ => Iff.rfl⟩

theorem SameSeats.trans {s t u : State} (a : SameSeats s t) (b : SameSeats t u) : SameSeats s u :=
  ⟨fun p h => (b.slot p h).trans (a.slot p h), fun p h l k => (b.seat p h l k).trans (a.seat p h l k)⟩

theorem SameSeats.slotsAgree {s t : State} (a : SameSeats s t) (h : s.slotsAgree) : t.slotsAgree := by
  intro p g l k
  rw [a.slot]
  exact (h p g l k).trans (a.seat p g l k).symm

theorem SameSeats.of_frame {ch : List Part} {s t : State} (frame : SameExcept ch s t) (rings : OnlyRings s t)
    (hl : Part.lines ∉ ch := by decide) : SameSeats s t := by
  refine ⟨fun p h => rings.slot p h, fun p h l k => ?_⟩
  unfold State.seat
  rw [lines_of_frame frame hl]

theorem SameSeats.of_parts {ch : List Part} {s t : State} (frame : SameExcept ch s t)
    (hl : Part.lines ∉ ch := by decide) (hp : Part.positions ∉ ch := by decide) : SameSeats s t :=
  .of_frame frame (.of_positions (frame .positions hp)) hl

theorem setLine_sameSeats (l : LineId) (x : Line)
    (seats : x.parties.map (fun z => (z.position, z.path, z.key)) =
      (s.line l).parties.map fun z => (z.position, z.path, z.key)) : SameSeats s (s.setLine l x) := by
  refine ⟨fun _ _ => rfl, fun p h m k => seat_congr ?_⟩
  by_cases e : m = l
  · subst e; simpa using seats
  · simp [e]

theorem moveLine_sameSeats (l : LineId) (x : Line)
    (seats : x.parties.map (fun z => (z.position, z.path, z.key)) =
      (s.line l).parties.map fun z => (z.position, z.path, z.key)) : SameSeats s (s.moveLine l x) := by
  refine ⟨fun p h => (moveLine_rings s l x).slot p h, fun p h m k => seat_congr ?_⟩
  by_cases e : m = l
  · subst e; simpa using seats
  · simp [e]

theorem leave_channel_sameSeats (l : LineId) (p : PositionId) (n : ChannelId) :
    SameSeats s (s.leave l p (.channel n)).1 := by
  refine ⟨fun q h => ?_, fun _ _ _ _ => leave_channel_seat⟩
  unfold State.leave
  split
  · rfl
  · exact (moveLine_rings s l _).slot q h

theorem take_slot (l : LineId) (t : Take) (p : PositionId) (h : Handset) : (s.take l t).1.slot p h = s.slot p h := by
  by_cases judged : judgeTake (s.line l) t = .ok
  · rw [take_ok s judged]
    exact (moveLine_rings s l _).slot p h
  · rw [take_refused_state judged]

theorem hold_slot (l : LineId) (p q : PositionId) (h g : Handset) : (s.hold l p h).1.slot q g = s.slot q g := by
  unfold State.hold
  split
  · rfl
  · split
    · exact (moveLine_rings s l _).slot q g
    · unfold State.leave
      split
      · rfl
      · exact (moveLine_rings s l _).slot q g

theorem leave_slot (l : LineId) (p q : PositionId) (path : Path) (g : Handset) :
    (s.leave l p path).1.slot q g = s.slot q g := by
  unfold State.leave
  split
  · rfl
  · exact (moveLine_rings s l _).slot q g

theorem reportEnd_sameSeats (p : PositionId) (k : Key) : SameSeats s (s.reportEnd p k) :=
  .of_frame (reportEnd_frame s p k) (reportEnd_rings s p k)

theorem reportSlot_sameSeats (p : PositionId) (old : Option Held) : SameSeats s (s.reportSlot p old) :=
  .of_frame (reportSlot_frame s p old) (reportSlot_rings s p old)

theorem reportOwner_sameSeats (o : Option KeyRef) : SameSeats s (s.reportOwner o) :=
  .of_frame (reportOwner_frame s o) (reportOwner_rings s o)

theorem setChannel_sameSeats (p : PositionId) (n : ChannelId) (x : Channel) : SameSeats s (s.setChannel p n x) :=
  .of_parts (setChannel_frame s p n x)

theorem talkRelease_sameSeats (g : GroupId) (p : PositionId) (src : Path) : SameSeats s (s.talkRelease g p src).1 :=
  .of_parts (talkRelease_frame s g p src)

/-- A slot written without a change of seats. -/
theorem setSlot_seat {p q : PositionId} {h g : Handset} {x : Option Held} {l : LineId} {k : Key} :
    (s.setSlot p h x).seat q g l k ↔ s.seat q g l k := Iff.rfl

/-! ### Slot changes -/

/-- The old content of the slot gives up its seat, and no other seat changes. -/
theorem switchAway_seat {p q : PositionId} {h g : Handset} {old : Option Held} {m : LineId} {k : Key} :
    (s.switchAway p h old).seat q g m k ↔
      s.seat q g m k ∧ ¬(old.map Held.source = some (.line m) ∧ q = p ∧ g = h) := by
  unfold State.switchAway
  split
  · simp
  · rw [(talkRelease_sameSeats _ p _).seat]
    simp
  · have at_line (x : LineId) : (m = x ∧ q = p ∧ g = h) ↔ (some (Source.line x) = some (.line m) ∧ q = p ∧ g = h) := by
      simp [eq_comm]
    split
    · rw [hold_seat, at_line]
      simp
    · rw [leave_seat, at_line]
      simp

theorem switchAway_slot (p q : PositionId) (h g : Handset) (old : Option Held) :
    (s.switchAway p h old).slot q g = s.slot q g := by
  unfold State.switchAway
  split
  · rfl
  · exact (talkRelease_sameSeats _ p _).slot q g
  · split
    · exact hold_slot _ _ _ _ _
    · exact leave_slot _ _ _ _ _

/-- The slot holds `new`, whose seat is there already, and the old content gives up its own. -/
theorem replaceSlot_slotsAgree {p : PositionId} {h : Handset} {old : Option Held} {new : Held}
    (others : ∀ q g, (q, g) ≠ (p, h) → ∀ l k, s.slot q g = some ⟨.line l, k⟩ ↔ s.seat q g l k)
    (here : ∀ l k, new = ⟨.line l, k⟩ ↔ s.seat p h l k ∧ old.map Held.source ≠ some (.line l)) :
    (s.replaceSlot p h old new).slotsAgree := by
  unfold State.replaceSlot
  refine (reportSlot_sameSeats p old).slotsAgree fun q g l k => ?_
  rw [show (∃ x ∈ _, _) ↔ ((s.switchAway p h old).setSlot p h (some new)).seat q g l k from Iff.rfl, setSlot_seat,
    switchAway_seat]
  by_cases e : (q, g) = (p, h)
  · obtain ⟨rfl, rfl⟩ := Prod.mk.inj e
    rw [setSlot_slot, Option.some_inj, here]
    simp
  · rw [setSlot_slot_ne _ _ e, switchAway_slot, others q g e]
    have : ¬(q = p ∧ g = h) := fun ⟨a, b⟩ => e (by rw [a, b])
    tauto

/-- The content of a slot is the only line that seats its handset. -/
theorem slotsAgree_here (h : s.slotsAgree) {p : PositionId} {hs : Handset} {l : LineId} {k : Key}
    (seat : s.seat p hs l k) : (s.slot p hs).map Held.source = some (.line l) := by
  rw [(h p hs l k).2 seat]
  rfl

theorem seated_slotsAgree (ok : s.linesOk) (h : s.slotsAgree) {p : PositionId} {hs : Handset} {l : LineId} {k : Key}
    {o : Origin} (judged : judgeTake (s.line l) (s.handsetTake p hs k o) = .ok) :
    ((s.take l (s.handsetTake p hs k o)).1.replaceSlot p hs (s.slot p hs) ⟨.line l, k⟩).slotsAgree := by
  have taken {m : LineId} {q : PositionId} {g : Handset} {j : Key} := take_seat ok judged (m := m) (q := q) (g := g) (k := j)
  have unseated := (ok l).not_seats_of_judgeTake judged
  refine replaceSlot_slotsAgree (fun q g e m j => ?_) fun m j => ?_
  · rw [take_slot, taken]
    have : ¬(q = p ∧ Path.handset hs = .handset g) := fun ⟨a, b⟩ => e (by cases b; rw [a])
    exact (h q g m j).trans ⟨.inl, fun x => x.resolve_right fun ⟨_, a, b, _⟩ => this ⟨a, b⟩⟩
  · rw [taken]
    constructor
    · rintro ⟨⟩
      refine ⟨.inr ⟨rfl, rfl, rfl, rfl⟩, fun old => ?_⟩
      cases slot : s.slot p hs with
      | none => simp [slot] at old
      | some x =>
        obtain ⟨source, key⟩ := x
        simp only [slot, Option.map_some, Option.some_inj] at old
        subst old
        obtain ⟨y, hy, position, path, -⟩ := (h p hs l key).1 slot
        exact unseated ⟨y, hy, position, path⟩
    · rintro ⟨seat | ⟨rfl, -, -, key⟩, other⟩
      · exact absurd (slotsAgree_here h seat) other
      · cases key
        rfl

theorem joined_slotsAgree (h : s.slotsAgree) (p : PositionId) (hs : Handset) (g : GroupId) (k : Key) :
    (s.replaceSlot p hs (s.slot p hs) ⟨.group g, k⟩).slotsAgree := by
  refine replaceSlot_slotsAgree (fun q g _ m j => h q g m j) fun m j => ?_
  constructor
  · rintro ⟨⟩
  · rintro ⟨seat, other⟩
    exact absurd (slotsAgree_here h seat) other

/-- A slot whose line has given up its seat is emptied. -/
theorem setSlot_none_slotsAgree {p : PositionId} {h : Handset}
    (others : ∀ q g, (q, g) ≠ (p, h) → ∀ l k, s.slot q g = some ⟨.line l, k⟩ ↔ s.seat q g l k)
    (here : ∀ l k, ¬s.seat p h l k) : (s.setSlot p h none).slotsAgree := by
  intro q g l k
  by_cases e : (q, g) = (p, h)
  · obtain ⟨rfl, rfl⟩ := Prod.mk.inj e
    rw [setSlot_slot]
    exact ⟨by simp, fun seat => absurd seat (here l k)⟩
  · rw [setSlot_slot_ne _ _ e]
    exact others q g e l k

theorem left_slotsAgree {t : State} (h : s.slotsAgree) {p : PositionId} {hs : Handset} {l : LineId} {k : Key}
    (slot : s.slot p hs = some ⟨.line l, k⟩) (slots : ∀ q g, t.slot q g = s.slot q g)
    (seats : ∀ q g m j, t.seat q g m j ↔ s.seat q g m j ∧ ¬(m = l ∧ q = p ∧ g = hs)) :
    (t.setSlot p hs none).slotsAgree := by
  refine setSlot_none_slotsAgree (fun q g e m j => ?_) fun m j seat => ?_
  · rw [slots, h q g m j]
    have : ¬(q = p ∧ g = hs) := fun ⟨a, b⟩ => e (by rw [a, b])
    exact ⟨fun x => (seats q g m j).2 ⟨x, fun ⟨_, a⟩ => this a⟩, fun x => ((seats q g m j).1 x).1⟩
  · obtain ⟨seat, other⟩ := (seats p hs m j).1 seat
    have := slotsAgree_here h seat
    rw [slot] at this
    cases this
    exact other ⟨rfl, rfl, rfl⟩

theorem unseated_slotsAgree (h : s.slotsAgree) {p : PositionId} {hs : Handset} {g : GroupId} {k : Key}
    (slot : s.slot p hs = some ⟨.group g, k⟩) : (s.setSlot p hs none).slotsAgree := by
  refine setSlot_none_slotsAgree (fun q g _ m j => h q g m j) fun m j seat => ?_
  have := slotsAgree_here h seat
  rw [slot] at this
  cases this

theorem releaseSlot_slotsAgree (h : s.slotsAgree) (p : PositionId) (hs : Handset) : (s.releaseSlot p hs).1.slotsAgree := by
  unfold State.releaseSlot
  split
  · exact h
  · next l k slot =>
    refine (reportEnd_sameSeats p k).slotsAgree (left_slotsAgree h slot (fun _ _ => leave_slot _ _ _ _ _) ?_)
    exact fun _ _ _ _ => leave_seat
  · next g k slot =>
    have released := talkRelease_sameSeats (s := s) g p (.handset hs)
    refine (reportEnd_sameSeats p k).slotsAgree (unseated_slotsAgree (released.slotsAgree h) (g := g) (k := k) ?_)
    rw [released.slot, slot]

theorem held_slotsAgree (h : s.slotsAgree) {p : PositionId} {hs : Handset} {l : LineId} {k : Key}
    (slot : s.slot p hs = some ⟨.line l, k⟩) : (((s.hold l p hs).1.setSlot p hs none).reportEnd p k).slotsAgree :=
  (reportEnd_sameSeats p k).slotsAgree
    (left_slotsAgree h slot (fun _ _ => hold_slot _ _ _ _ _) fun _ _ _ _ => hold_seat)

theorem dropGroupSlot_slotsAgree (h : s.slotsAgree) (g : GroupId) (p : PositionId) (hs : Handset) :
    (State.dropGroupSlot g p s hs).slotsAgree := by
  unfold State.dropGroupSlot
  split
  · next held =>
    refine (reportSlot_sameSeats p _).slotsAgree ?_
    cases slot : s.slot p hs with
    | none => simp [slot, holdsSource] at held
    | some x =>
      obtain ⟨source, key⟩ := x
      simp only [slot, holdsSource, decide_eq_true_eq] at held
      subst held
      exact unseated_slotsAgree h slot
  · exact h

/-! ### Speaker channels -/

theorem sendTake_sameSeats (ok : s.linesOk) (p : PositionId) (n : ChannelId) : SameSeats s (State.sendTake p s n) := by
  unfold State.sendTake
  dsimp only
  split
  · next l _ =>
    split
    · by_cases judged : judgeTake (s.line l) (speakerTake p n (s.channel p n).talkback) = .ok
      · have taken : SameSeats s (s.take l (speakerTake p n (s.channel p n).talkback)).1 := by
          refine ⟨fun q g => take_slot _ _ _ _, fun q g m k => ?_⟩
          rw [take_seat ok judged]
          simp [speakerTake]
        split <;> rename_i heq
        · rw [heq] at taken
          exact taken.trans (setChannel_sameSeats p n _)
        · exact setChannel_sameSeats p n _
      · rw [take_refused s judged]
        split <;> rename_i heq
        · exact absurd (Prod.mk.inj heq).2 judged
        · exact setChannel_sameSeats p n _
    · exact .refl s
  all_goals exact .refl s

theorem planChannel_sameSeats (p : PositionId) (n : ChannelId) : SameSeats s (State.planChannel p s n) := by
  have down : SameSeats s (s.takeDown p n) := by
    unfold State.takeDown
    dsimp only
    repeat' split
    · exact leave_channel_sameSeats _ p n
    · exact .refl s
    · exact talkRelease_sameSeats _ p _
    · exact .refl s
    · exact .refl s
  have updated (v : Bool) : SameSeats s (s.talkbackUpdate p n v) := by
    unfold State.talkbackUpdate
    dsimp only
    repeat' split
    · exact setLine_sameSeats _ _ (Line.mapParty_seats _ p _ _ fun _ => ⟨rfl, rfl, rfl⟩)
    all_goals exact .refl s
  unfold State.planChannel
  dsimp only
  split
  · exact (updated _).trans (setChannel_sameSeats p n _)
  · exact down.trans (setChannel_sameSeats p n _)

theorem attachPhase_sameSeats (ok : s.linesOk) (p : PositionId) (n : ChannelId) :
    SameSeats s (State.attachPhase p s n) := by
  unfold State.attachPhase
  dsimp only
  repeat' split
  · exact .refl s
  · exact (setChannel_sameSeats p n _).trans (sendTake_sameSeats (linesOk_of_frame ok (setChannel_frame s p n _)) p n)
  all_goals exact setChannel_sameSeats p n _

theorem installPlan_slotsAgree (ok : s.linesOk) (h : s.slotsAgree) (p : PositionId) (old new : Nat) :
    (s.installPlan p old new).slotsAgree := by
  have planned := foldl_keeps (P := fun s => s.linesOk ∧ s.slotsAgree)
    (fun s n h => ⟨planChannel_linesOk h.1 p n, (planChannel_sameSeats p n).slotsAgree h.2⟩) (ascending 8) ⟨ok, h⟩
  have attached := foldl_keeps (P := fun s => s.linesOk ∧ s.slotsAgree)
    (fun s n h => ⟨attachPhase_linesOk h.1 p n, (attachPhase_sameSeats h.1 p n).slotsAgree h.2⟩) (ascending 8) planned
  unfold State.installPlan
  dsimp only
  generalize (ascending 8).foldl (State.attachPhase p) ((ascending 8).foldl (State.planChannel p) s) = u at attached ⊢
  exact attached.2

theorem channelLinkLoss_sameSeats (p : PositionId) (n : ChannelId) : SameSeats s (State.channelLinkLoss p s n) := by
  unfold State.channelLinkLoss
  dsimp only
  repeat' split
  · exact (leave_channel_sameSeats _ p n).trans (setChannel_sameSeats p n _)
  · exact setChannel_sameSeats p n _
  · exact (talkRelease_sameSeats _ p _).trans (setChannel_sameSeats p n _)
  all_goals exact setChannel_sameSeats p n _

/-! ### The clearance of a line -/

theorem partyRemoved_slot (r : ResultCode) (y : Party) (p : PositionId) (h : Handset) :
    (State.partyRemoved r s y).slot p h = if y.position = p ∧ y.path = .handset h then none else s.slot p h := by
  unfold State.partyRemoved
  split
  · next g path =>
    rw [(reportSlot_sameSeats _ _).slot, path]
    by_cases e : (p, h) = (y.position, g)
    · obtain ⟨rfl, rfl⟩ := Prod.mk.inj e
      simp
    · rw [setSlot_slot_ne _ _ e, if_neg]
      rintro ⟨a, b⟩
      cases b
      exact e (by rw [a])
  · next n path =>
    rw [path, if_neg (by simp)]
    exact (setChannel_sameSeats (s := s) _ _ _).slot p h

theorem partiesRemoved_slot (r : ResultCode) (ys : List Party) (p : PositionId) (h : Handset) :
    (ys.foldl (State.partyRemoved r) s).slot p h =
      if ∃ y ∈ ys, y.position = p ∧ y.path = .handset h then none else s.slot p h := by
  induction ys generalizing s with
  | nil => simp
  | cons y ys ih =>
    rw [List.foldl_cons, ih, partyRemoved_slot]
    by_cases first : y.position = p ∧ y.path = .handset h
    · simp [first]
    · simp [first]

theorem clearLine_slotsAgree (ok : s.linesOk) (h : s.slotsAgree) (l : LineId) (e : LineState) (r : ResultCode) :
    (s.clearLine l e r).slotsAgree := by
  unfold State.clearLine
  dsimp only
  have slots2 := partiesRemoved_slot (s := s.setLine l { s.line l with parties := [] }) r (s.line l).parties
  have lines2 := lines_of_frame
    (SameExcept.foldl (fun s x => partyRemoved_frame s r x) (s.line l).parties (s.setLine l { s.line l with parties := [] }))
  generalize (s.line l).parties.foldl (State.partyRemoved r) (s.setLine l { s.line l with parties := [] }) = s2
    at slots2 lines2 ⊢
  have agree2 : s2.slotsAgree := by
    intro p g m k
    rw [slots2, lines2]
    by_cases e : m = l
    · subst e
      simp only [State.setLine_line, List.not_mem_nil, false_and, exists_false, iff_false]
      split
      · simp
      · next unseated =>
        intro slot
        obtain ⟨y, hy, position, path, -⟩ := (h p g m k).1 slot
        exact unseated ⟨y, hy, position, path⟩
    · rw [State.setLine_line_ne _ _ e]
      split
      · next seated =>
        obtain ⟨y, hy, rfl, path⟩ := seated
        have keyed : y.key.isSome = true := by rw [(ok l).keyOfHandset y hy, path]; rfl
        obtain ⟨j, key⟩ := Option.isSome_iff_exists.1 keyed
        have slot := (h y.position g l j).2 ⟨y, hy, rfl, path, key⟩
        rw [← h y.position g m k, slot]
        simp [Ne.symm e]
      · exact h p g m k
  have unowned : (s2.setLine l { s2.line l with holdOwner := none, privateHold := false }).slotsAgree :=
    (setLine_sameSeats l { s2.line l with holdOwner := none, privateHold := false } rfl).slotsAgree agree2
  refine (moveLine_sameSeats l _ ?_).slotsAgree ((reportOwner_sameSeats _).slotsAgree unowned)
  rw [lines_of_frame (reportOwner_frame _ _), State.setLine_line, lines2, State.setLine_line]

theorem abandon_sameSeats (l : LineId) : SameSeats s (s.abandon l) := by
  unfold State.abandon
  dsimp only
  refine SameSeats.trans ?_ (.of_parts (raise_frame _ _))
  refine SameSeats.trans ?_ (moveLine_sameSeats l _ rfl)
  refine SameSeats.trans ?_ (reportOwner_sameSeats _)
  exact setLine_sameSeats l _ rfl

theorem configureLine_sameSeats (l : LineId) (k : LineClass) (b : BargePolicy) (r : Ringdown) :
    SameSeats s (s.configureLine l k b r) := by
  unfold State.configureLine
  dsimp only
  split
  · refine SameSeats.trans ?_ (.of_frame (refileRing_frame _ l) (refileRing_rings _ l))
    exact moveLine_sameSeats l _ rfl
  · exact moveLine_sameSeats l _ rfl

theorem applyPage_rings (c : Port) (page : Fin 128) : OnlyRings s (s.applyPage c page).1 := by
  have committed := foldl_commitSlot_frame (s.stagingOf c) page (ascending 16) (s, ⟨0, 0, 0⟩)
  unfold State.applyPage
  dsimp only
  generalize (ascending 16).foldl (commitSlot (s.stagingOf c) page) (s, ⟨0, 0, 0⟩) = u at committed ⊢
  have staged : SameExcept [.directory, .staging] s (u.1.setStaging c Staging.emptied) :=
    committed.step (setStaging_frame u.1 c Staging.emptied)
  exact (OnlyRings.of_positions (staged .positions (by decide))).trans (directoryChanged_rings _ _ _)

theorem wipe_rings (p : PositionId) : OnlyRings s (s.wipe p) := by
  unfold State.wipe
  dsimp only
  refine OnlyRings.trans ?_ (directoryChanged_rings _ _ _)
  exact OnlyRings.of_positions rfl

theorem Position.SameCore.handset_slot {x y : Position} (core : x.SameCore y) (h : Handset) :
    (y.handset h).slot = (x.handset h).slot := by
  cases h
  · exact core.slot0
  · exact core.slot1

/-! ### Every transaction and every step -/

theorem Moves.slotsAgree {s t : State} (m : Moves s t) (ok : s.linesOk) (h : s.slotsAgree) : t.slotsAgree := by
  cases m with
  | aside frame => exact (SameSeats.of_parts frame).slotsAgree h
  | posted frame core =>
    refine SameSeats.slotsAgree ⟨fun p g => (core p).handset_slot g, fun p g l k => ?_⟩ h
    unfold State.seat
    rw [lines_of_frame frame]
  | spoken p x _ _ => exact (SameSeats.of_parts (setSpeaker_frame s p x)).slotsAgree h
  | keyed p n x _ _ _ => exact (setChannel_sameSeats p n x).slotsAgree h
  | grouped g x _ => exact (SameSeats.of_parts (setGroup_frame s g x)).slotsAgree h
  | touched l x core _ => exact (setLine_sameSeats l x core.seats).slotsAgree h
  | moved l x core => exact (moveLine_sameSeats l x core.seats).slotsAgree h
  | configured l k b r => exact (configureLine_sameSeats l k b r).slotsAgree h
  | seated p hs l k o judged => exact (reportOwner_sameSeats _).slotsAgree (seated_slotsAgree ok h judged)
  | joined p hs g k => exact joined_slotsAgree h p hs g k
  | released p hs => exact releaseSlot_slotsAgree h p hs
  | held p hs l k slot => exact held_slotsAgree h slot
  | dropped g p hs => exact dropGroupSlot_slotsAgree h g p hs
  | attached p n => exact (sendTake_sameSeats ok p n).slotsAgree h
  | planned p old new => exact installPlan_slotsAgree ok h p old new
  | detached p n => exact (channelLinkLoss_sameSeats p n).slotsAgree h
  | cleared l e r _ => exact clearLine_slotsAgree ok h l e r
  | abandoned l _ => exact (abandon_sameSeats l).slotsAgree h
  | committed c page => exact (SameSeats.of_frame (applyPage_frame s c page) (applyPage_rings c page)).slotsAgree h
  | wiped p _ => exact (SameSeats.of_frame (wipe_frame s p) (wipe_rings p)).slotsAgree h

theorem powerOn_line (q m : Bool) (pending : List Instr) (l : LineId) :
    State.line { State.powerOn q m with pending := pending } l = Line.powerOn := Table.get_fill _ l

theorem powerOn_position (q m : Bool) (pending : List Instr) (p : PositionId) :
    State.position { State.powerOn q m with pending := pending } p = Position.powerOn := Table.get_fill _ p

theorem powerOn_slotsAgree (q m : Bool) (pending : List Instr) :
    State.slotsAgree { State.powerOn q m with pending := pending } := by
  intro p h l k
  rw [State.slot, powerOn_line, powerOn_position]
  cases h <;> simp [Position.powerOn, Position.handset, Line.powerOn]

/-- Settles O6: slots and handset parties agree after power-on, and every transaction keeps them so together with the
well-formed lines. -/
theorem stepKeepsSlots : Obligations.StepKeepsSlots := by
  intro s t ok h stepped
  have kept := step_keeps (P := fun s => s.linesOk ∧ s.slotsAgree)
    (fun q m pending => ⟨powerOn_linesOk q m pending, powerOn_slotsAgree q m pending⟩)
    (fun _ _ m h => ⟨m.linesOk h.1, m.slotsAgree h.1 h.2⟩) ⟨ok, h⟩ stepped
  exact kept.2

end Sys2Proof.Machine
end

section
/-! PROOFS. Every step keeps attach states and the speaker parties of the lines in agreement. -/

namespace Sys2Proof.Machine

-- One theorem after another: side by side they hold the memory of too many stacks.
set_option Elab.async false

variable {s : State}

/-! ### One channel written -/

@[simp] theorem setChannel_channel_self (p : PositionId) (n : ChannelId) (x : Channel) :
    (s.setChannel p n x).channel p n = x := by
  rw [State.channel, State.setChannel, State.setSpeaker_speaker, Table.get_set_self]

theorem setChannel_channel_ne {p q : PositionId} {n m : ChannelId} (x : Channel) (e : (q, m) ≠ (p, n)) :
    (s.setChannel p n x).channel q m = s.channel q m := by
  rw [State.channel, State.setChannel]
  by_cases hp : q = p
  · subst hp
    have hm : m ≠ n := fun a => e (by rw [a])
    rw [State.setSpeaker_speaker, Table.get_set_ne _ _ hm]
    rfl
  · rw [State.setSpeaker_speaker_ne _ _ hp]
    rfl

/-! ### Speaker seats -/

/-- Channel `n` of `p` is a party of line `l`. -/
def State.speaks (s : State) (p : PositionId) (n : ChannelId) (l : LineId) : Prop := (s.line l).seats p (.channel n)

/-- The channel is ATTACHED to its source line. -/
def Channel.attachedTo (x : Channel) (l : LineId) : Prop := x.source = some (.line l) ∧ x.attach = .attached

/-- What R94 says of one channel record by itself. -/
def Channel.fits (x : Channel) : Prop :=
  attachFits x.source x.attach = true ∧ (x.waitReason.isSome = true → x.attach = .waiting)

/-- The state invariant of this file: speaker parties are the ATTACHED channels, and attach states go with sources. -/
def State.attachOk (s : State) : Prop :=
  (∀ p n l, s.speaks p n l ↔ (s.channel p n).attachedTo l) ∧ ∀ p n, (s.channel p n).fits

theorem attachOk_iff : s.attachOk ↔ s.attachAgree ∧ s.attachFit := Iff.rfl

/-- Speaker parties, and what a channel record says of its attachment, alike. -/
structure SameAttach (s t : State) : Prop where
  speaks : ∀ p n l, t.speaks p n l ↔ s.speaks p n l
  channel : ∀ p n, (t.channel p n).source = (s.channel p n).source ∧ (t.channel p n).attach = (s.channel p n).attach ∧
    (t.channel p n).waitReason = (s.channel p n).waitReason

theorem SameAttach.refl (s : State) : SameAttach s s := ⟨fun _ _ _ => Iff.rfl, fun _ _ => ⟨rfl, rfl, rfl⟩⟩

theorem SameAttach.trans {s t u : State} (a : SameAttach s t) (b : SameAttach t u) : SameAttach s u := by
  refine ⟨fun p n l => (b.speaks p n l).trans (a.speaks p n l), fun p n => ?_⟩
  obtain ⟨source, attach, reason⟩ := a.channel p n
  obtain ⟨source', attach', reason'⟩ := b.channel p n
  exact ⟨source'.trans source, attach'.trans attach, reason'.trans reason⟩

theorem SameAttach.attachOk {s t : State} (a : SameAttach s t) (h : s.attachOk) : t.attachOk := by
  refine ⟨fun p n l => ?_, fun p n => ?_⟩ <;> obtain ⟨source, attach, reason⟩ := a.channel p n
  · rw [a.speaks, h.1, Channel.attachedTo, Channel.attachedTo, source, attach]
  · have := h.2 p n
    rwa [Channel.fits, source, attach, reason]

theorem SameAttach.of_speakers {s t : State} (speakers : t.speakers = s.speakers)
    (speaks : ∀ p n l, t.speaks p n l ↔ s.speaks p n l) : SameAttach s t := by
  refine ⟨speaks, fun p n => ?_⟩
  simp [State.channel, State.speaker, speakers]

theorem SameAttach.of_frame {ch : List Part} {s t : State} (frame : SameExcept ch s t)
    (hl : Part.lines ∉ ch := by decide) (hs : Part.speakers ∉ ch := by decide) : SameAttach s t :=
  .of_speakers (frame .speakers hs) fun p n l => by simp [State.speaks, lines_of_frame frame hl]

theorem speaks_congr {t : State} {l : LineId}
    (same : (t.line l).parties.map (fun z => (z.position, z.path, z.key)) =
      (s.line l).parties.map fun z => (z.position, z.path, z.key)) {p : PositionId} {n : ChannelId} :
    t.speaks p n l ↔ s.speaks p n l := by
  have speaks_iff (u : State) : u.speaks p n l ↔
      ∃ k, (p, Path.channel n, k) ∈ (u.line l).parties.map fun z => (z.position, z.path, z.key) := by
    simp [State.speaks, Line.seats]
  rw [speaks_iff, speaks_iff, same]

theorem setLine_sameAttach (l : LineId) (x : Line)
    (seats : x.parties.map (fun z => (z.position, z.path, z.key)) =
      (s.line l).parties.map fun z => (z.position, z.path, z.key)) : SameAttach s (s.setLine l x) := by
  refine .of_speakers rfl fun p n m => speaks_congr ?_
  by_cases e : m = l
  · subst e; simpa using seats
  · simp [e]

theorem moveLine_sameAttach (l : LineId) (x : Line)
    (seats : x.parties.map (fun z => (z.position, z.path, z.key)) =
      (s.line l).parties.map fun z => (z.position, z.path, z.key)) : SameAttach s (s.moveLine l x) := by
  refine .of_speakers (moveLine_frame s l x .speakers (by decide)) fun p n m => speaks_congr ?_
  by_cases e : m = l
  · subst e; simpa using seats
  · simp [e]

/-! ### Handset changes leave the speaker parties alone -/

theorem leave_handset_sameAttach (l : LineId) (p : PositionId) (h : Handset) :
    SameAttach s (s.leave l p (.handset h)).1 := by
  refine .of_speakers (leave_frame s l p _ .speakers (by decide)) fun q n m => ?_
  simp only [State.speaks, Line.seats, leave_parties]
  grind

theorem hold_sameAttach (l : LineId) (p : PositionId) (h : Handset) : SameAttach s (s.hold l p h).1 := by
  refine .of_speakers (hold_frame s l p h .speakers (by decide)) fun q n m => ?_
  simp only [State.speaks, Line.seats, hold_parties]
  grind

theorem take_speaks (ok : s.linesOk) {l m : LineId} {t : Take} (judged : judgeTake (s.line l) t = .ok) {p : PositionId}
    {n : ChannelId} :
    (s.take l t).1.speaks p n m ↔ s.speaks p n m ∨ (m = l ∧ t.position = p ∧ t.path = .channel n) := by
  simp only [State.speaks, Line.seats, take_parties ok judged]
  constructor
  · rintro ⟨y, hy | ⟨rfl, rfl⟩, seat⟩
    · exact .inl ⟨y, hy, seat⟩
    · exact .inr ⟨rfl, seat⟩
  · rintro (⟨y, hy, seat⟩ | ⟨rfl, seat⟩)
    · exact ⟨y, .inl hy, seat⟩
    · exact ⟨t.party, .inr ⟨rfl, rfl⟩, seat⟩

theorem take_handset_sameAttach (ok : s.linesOk) (l : LineId) (p : PositionId) (h : Handset) (k : Key) (o : Origin) :
    SameAttach s (s.take l (s.handsetTake p h k o)).1 := by
  by_cases judged : judgeTake (s.line l) (s.handsetTake p h k o) = .ok
  · refine .of_speakers (take_frame s l _ .speakers (by decide)) fun q n m => ?_
    rw [take_speaks ok judged]
    simp [State.handsetTake]
  · rw [take_refused_state judged]
    exact .refl s

theorem talkRelease_sameAttach (g : GroupId) (p : PositionId) (src : Path) : SameAttach s (s.talkRelease g p src).1 :=
  .of_frame (talkRelease_frame s g p src)

theorem replaceSlot_sameAttach (p : PositionId) (h : Handset) (old : Option Held) (new : Held) :
    SameAttach s (s.replaceSlot p h old new) := by
  have away : SameAttach s (s.switchAway p h old) := by
    unfold State.switchAway
    split
    · exact .refl s
    · exact talkRelease_sameAttach _ p _
    · split
      · exact hold_sameAttach _ p h
      · exact leave_handset_sameAttach _ p h
  exact (away.trans (.of_frame (setSlot_frame _ p h _))).trans (.of_frame (reportSlot_frame _ p old))

theorem releaseSlot_sameAttach (p : PositionId) (h : Handset) : SameAttach s (s.releaseSlot p h).1 := by
  unfold State.releaseSlot
  split
  · exact .refl s
  · exact ((leave_handset_sameAttach _ p h).trans (.of_frame (setSlot_frame _ p h _))).trans
      (.of_frame (reportEnd_frame _ p _))
  · exact ((talkRelease_sameAttach _ p _).trans (.of_frame (setSlot_frame _ p h _))).trans
      (.of_frame (reportEnd_frame _ p _))

/-! ### Speaker changes -/

/-- One channel is written, and its seats with it; the other channels and their seats stay. -/
structure ChannelBecomes (p : PositionId) (n : ChannelId) (x : Channel) (s t : State) : Prop where
  speaks : ∀ q m l, (q, m) ≠ (p, n) → (t.speaks q m l ↔ s.speaks q m l)
  seated : ∀ l, t.speaks p n l ↔ x.attachedTo l
  here : t.channel p n = x
  others : ∀ q m, (q, m) ≠ (p, n) → t.channel q m = s.channel q m

theorem ChannelBecomes.agree {p : PositionId} {n : ChannelId} {x : Channel} {s t : State} (b : ChannelBecomes p n x s t)
    (h : ∀ q m l, s.speaks q m l ↔ (s.channel q m).attachedTo l) (q : PositionId) (m : ChannelId) (l : LineId) :
    t.speaks q m l ↔ (t.channel q m).attachedTo l := by
  by_cases e : (q, m) = (p, n)
  · obtain ⟨rfl, rfl⟩ := Prod.mk.inj e
    rw [b.seated, b.here]
  · rw [b.speaks q m l e, b.others q m e, h]

theorem ChannelBecomes.attachOk {p : PositionId} {n : ChannelId} {x : Channel} {s t : State} (b : ChannelBecomes p n x s t)
    (h : s.attachOk) (fits : x.fits) : t.attachOk := by
  refine ⟨b.agree h.1, fun q m => ?_⟩
  by_cases e : (q, m) = (p, n)
  · obtain ⟨rfl, rfl⟩ := Prod.mk.inj e
    rwa [b.here]
  · rw [b.others q m e]
    exact h.2 q m

/-- A channel written after a change of its seats alone. -/
theorem ChannelBecomes.of_setChannel {p : PositionId} {n : ChannelId} {x : Channel} {s t : State}
    (speakers : t.speakers = s.speakers) (speaks : ∀ q m l, (q, m) ≠ (p, n) → (t.speaks q m l ↔ s.speaks q m l))
    (seated : ∀ l, t.speaks p n l ↔ x.attachedTo l) : ChannelBecomes p n x s (t.setChannel p n x) := by
  refine ⟨speaks, seated, setChannel_channel_self p n x, fun q m e => ?_⟩
  rw [setChannel_channel_ne x e]
  simp [State.channel, State.speaker, speakers]

/-- A channel written without a change of seats. -/
theorem setChannel_becomes (h : ∀ q m l, s.speaks q m l ↔ (s.channel q m).attachedTo l) {p : PositionId} {n : ChannelId}
    {x : Channel} (same : ∀ l, x.attachedTo l ↔ (s.channel p n).attachedTo l) :
    ChannelBecomes p n x s (s.setChannel p n x) :=
  .of_setChannel rfl (fun _ _ _ _ => Iff.rfl) fun l => (h p n l).trans (same l).symm

theorem leave_channel_speaks {l m : LineId} {p q : PositionId} {n j : ChannelId} :
    (s.leave l p (.channel n)).1.speaks q j m ↔ s.speaks q j m ∧ ¬(m = l ∧ q = p ∧ j = n) := by
  simp only [State.speaks, Line.seats, leave_parties]
  grind

/-- A channel that is not ATTACHED has no seat. -/
theorem not_attachedTo {x : Channel} (h : x.attach ≠ .attached) (l : LineId) : ¬x.attachedTo l := fun a => h a.2

/-- A channel ATTACHED to its line detaches and is written as one that is not. -/
theorem detached_becomes (h : ∀ q m l, s.speaks q m l ↔ (s.channel q m).attachedTo l) {p : PositionId} {n : ChannelId}
    {l : LineId} {x : Channel} (source : (s.channel p n).source = some (.line l)) (attach : x.attach ≠ .attached) :
    ChannelBecomes p n x s ((s.leave l p (.channel n)).1.setChannel p n x) := by
  refine .of_setChannel (leave_frame s l p _ .speakers (by decide)) (fun q m j e => ?_) fun j => ?_
  · rw [leave_channel_speaks]
    exact ⟨fun a => a.1, fun a => ⟨a, fun ⟨_, hq, hm⟩ => e (by rw [hq, hm])⟩⟩
  · rw [leave_channel_speaks, h]
    refine ⟨fun ⟨⟨source', _⟩, other⟩ => absurd ⟨?_, rfl, rfl⟩ other, fun a => absurd a (not_attachedTo attach j)⟩
    rw [source] at source'
    cases source'
    rfl

theorem fits_waiting {x : Channel} {l : LineId} (source : x.source = some (.line l)) (attach : x.attach = .waiting) :
    x.fits := by
  rw [Channel.fits, source, attach]
  exact ⟨rfl, fun _ => rfl⟩

theorem fits_attached {x : Channel} {l : LineId} (source : x.source = some (.line l)) (attach : x.attach = .attached)
    (reason : x.waitReason = none) : x.fits := by
  rw [Channel.fits, source, attach, reason]
  exact ⟨rfl, by simp⟩

/-- What a take of a WAITING channel leaves of it: ATTACHED, or WAITING with another reason (R101). -/
theorem sendTake_becomes (ok : s.linesOk) (h : ∀ q m l, s.speaks q m l ↔ (s.channel q m).attachedTo l) {p : PositionId}
    {n : ChannelId} {l : LineId} (source : (s.channel p n).source = some (.line l))
    (waiting : (s.channel p n).attach = .waiting) :
    ∃ x : Channel, x.fits ∧ x.source = some (.line l) ∧ ChannelBecomes p n x s (State.sendTake p s n) := by
  unfold State.sendTake
  simp only [source, waiting, if_true]
  have silent (j : LineId) : ¬s.speaks p n j := by
    rw [h, Channel.attachedTo, waiting]
    rintro ⟨-, ⟨⟩⟩
  by_cases judged : judgeTake (s.line l) (speakerTake p n (s.channel p n).talkback) = .ok
  · have taken {q : PositionId} {m : ChannelId} {j : LineId} := take_speaks ok judged (p := q) (n := m) (m := j)
    have speakers := take_frame s l (speakerTake p n (s.channel p n).talkback) .speakers (by decide)
    rw [take_ok s judged] at taken speakers ⊢
    dsimp only at taken speakers ⊢
    refine ⟨_, ?_, ?_, .of_setChannel speakers (fun q m j e => ?_) fun j => ?_⟩
    · exact fits_attached rfl rfl rfl
    · rfl
    · rw [taken]
      exact ⟨fun a => a.resolve_right fun ⟨_, hp, hn⟩ => e (by cases hn; rw [← hp]; rfl), .inl⟩
    · rw [taken, Channel.attachedTo]
      simp [silent, speakerTake, eq_comm]
  · rw [take_refused s judged]
    split <;> rename_i heq
    · exact absurd (Prod.mk.inj heq).2 judged
    · refine ⟨_, fits_waiting rfl rfl, rfl, setChannel_becomes h fun j => ?_⟩
      exact ⟨fun a => absurd a.2 (by simp), fun a => absurd a.2 (by simp [waiting])⟩

theorem sendTake_attachOk (ok : s.linesOk) (h : s.attachOk) (p : PositionId) (n : ChannelId) :
    (State.sendTake p s n).attachOk := by
  cases source : (s.channel p n).source with
  | none =>
    unfold State.sendTake
    simpa only [source] using h
  | some x =>
    cases x with
    | group g =>
      unfold State.sendTake
      simpa only [source] using h
    | line l =>
      by_cases waiting : (s.channel p n).attach = .waiting
      · obtain ⟨x, fits, -, became⟩ := sendTake_becomes ok h.1 source waiting
        exact became.attachOk h fits
      · unfold State.sendTake
        simpa only [source, waiting, if_false] using h

theorem channelLinkLoss_attachOk (h : s.attachOk) (p : PositionId) (n : ChannelId) :
    (State.channelLinkLoss p s n).attachOk := by
  have quiet : ChannelBecomes p n { s.channel p n with ptt := false, mustRelease := false } s
      (s.setChannel p n { s.channel p n with ptt := false, mustRelease := false }) := setChannel_becomes h.1 fun _ => Iff.rfl
  have fits := h.2 p n
  unfold State.channelLinkLoss
  dsimp only
  split
  · next l source =>
    have waits (x : Channel) (hx : x.source = (s.channel p n).source) (attach : x.attach = .waiting) : x.fits :=
      fits_waiting (hx.trans source) attach
    split
    · exact (detached_becomes h.1 source (by simp)).attachOk h (waits _ rfl rfl)
    · next loose =>
      refine ChannelBecomes.attachOk (setChannel_becomes h.1 fun j => ?_) h (waits _ rfl rfl)
      exact ⟨fun a => absurd a.2 (by simp), fun a => absurd a.2 loose⟩
  · next g source =>
    split
    · have released := talkRelease_sameAttach (s := s) g p (.channel n)
      have speakers := talkRelease_frame s g p (.channel n) .speakers (by decide)
      refine ChannelBecomes.attachOk (.of_setChannel speakers (fun q m j _ => released.speaks q m j) fun j => ?_) h fits
      exact (released.speaks p n j).trans (h.1 p n j)
    · exact quiet.attachOk h fits
  · exact quiet.attachOk h fits

/-! ### The installation of a plan -/

/-- While a plan of `p` is installed, its changed channels stand without attach state until their attach phase. -/
def State.planOk (s : State) (p : PositionId) : Prop :=
  s.linesOk ∧ (∀ q n l, s.speaks q n l ↔ (s.channel q n).attachedTo l) ∧
    ∀ q n, (s.channel q n).fits ∨ q = p ∧ (s.channel q n).attach = .none ∧ (s.channel q n).waitReason = none

theorem ChannelBecomes.planOk {p : PositionId} {n : ChannelId} {x : Channel} {s t : State} (b : ChannelBecomes p n x s t)
    (h : s.planOk p) (ok : t.linesOk) (fits : x.fits ∨ x.attach = .none ∧ x.waitReason = none) : t.planOk p := by
  obtain ⟨-, agree, each⟩ := h
  refine ⟨ok, b.agree agree, fun q m => ?_⟩
  by_cases e : (q, m) = (p, n)
  · obtain ⟨rfl, rfl⟩ := Prod.mk.inj e
    rw [b.here]
    exact fits.imp_right fun a => ⟨rfl, a⟩
  · rw [b.others q m e]
    exact each q m

theorem talkbackUpdate_sameAttach (p : PositionId) (n : ChannelId) (v : Bool) : SameAttach s (s.talkbackUpdate p n v) := by
  unfold State.talkbackUpdate
  dsimp only
  repeat' split
  · exact setLine_sameAttach _ _ (Line.mapParty_seats _ p _ _ fun _ => ⟨rfl, rfl, rfl⟩)
  all_goals exact .refl s

theorem planChannel_planOk {p : PositionId} (h : s.planOk p) (n : ChannelId) : (State.planChannel p s n).planOk p := by
  have ok := planChannel_linesOk h.1 p n
  obtain ⟨lines, agree, each⟩ := h
  have loose {x : Channel} (hx : x.attach = .none) (attach : (s.channel p n).attach ≠ .attached) (j : LineId) :
      x.attachedTo j ↔ (s.channel p n).attachedTo j :=
    ⟨fun a => absurd a.2 (by simp [hx]), fun a => absurd a.2 attach⟩
  have unsourced {x : Channel} (hx : x.attach = .none) (source : ∀ j, (s.channel p n).source ≠ some (.line j)) (j : LineId) :
      x.attachedTo j ↔ (s.channel p n).attachedTo j :=
    ⟨fun a => absurd a.2 (by simp [hx]), fun a => absurd a.1 (source j)⟩
  unfold State.planChannel at ok ⊢
  dsimp only at ok ⊢
  split at ok
  · next source =>
    rw [if_pos source]
    have updated := talkbackUpdate_sameAttach (s := s) p n ((s.speaker p).plan.get n).talkback
    have speakers := talkbackUpdate_frame s p n ((s.speaker p).plan.get n).talkback .speakers (by decide)
    have became := ChannelBecomes.of_setChannel (x := (s.channel p n).updated ((s.speaker p).plan.get n)) (p := p) (n := n)
      speakers (fun q m j _ => updated.speaks q m j) fun j => (updated.speaks p n j).trans (agree p n j)
    refine became.planOk ⟨lines, agree, each⟩ ok ?_
    exact (each p n).imp id fun a => a.2
  · next source =>
    rw [if_neg source]
    have became : ChannelBecomes p n (Channel.replaced ((s.speaker p).plan.get n)) s
        ((s.takeDown p n).setChannel p n (Channel.replaced ((s.speaker p).plan.get n))) := by
      unfold State.takeDown
      dsimp only
      split
      · next l hl =>
        split
        · exact detached_becomes agree hl (by simp [Channel.replaced])
        · next attach => exact setChannel_becomes agree (loose rfl attach)
      · next g hg =>
        split
        · have released := talkRelease_sameAttach (s := s) g p (.channel n)
          have speakers := talkRelease_frame s g p (.channel n) .speakers (by decide)
          refine .of_setChannel speakers (fun q m j _ => released.speaks q m j) fun j => ?_
          exact ((released.speaks p n j).trans (agree p n j)).trans (unsourced rfl (by simp [hg]) j).symm
        · exact setChannel_becomes agree (unsourced rfl (by simp [hg]))
      · next hn => exact setChannel_becomes agree (unsourced rfl (by simp [hn]))
    exact became.planOk ⟨lines, agree, each⟩ ok (.inr ⟨rfl, rfl⟩)

theorem attachPhase_becomes {p : PositionId} (h : s.planOk p) (n : ChannelId) :
    ∃ x : Channel, x.fits ∧ ChannelBecomes p n x s (State.attachPhase p s n) := by
  obtain ⟨lines, agree, each⟩ := h
  unfold State.attachPhase
  dsimp only
  split
  · next l source =>
    split
    · next attached =>
      refine ⟨s.channel p n, (each p n).resolve_right fun a => ?_, fun _ _ _ _ => Iff.rfl, agree p n, rfl, fun _ _ _ => rfl⟩
      simp [attached] at a
    next attached =>
    have loose {x : Channel} (hx : x.attach = .waiting) (j : LineId) : x.attachedTo j ↔ (s.channel p n).attachedTo j :=
      ⟨fun a => absurd a.2 (by simp [hx]), fun a => absurd a.2 attached⟩
    split
    · have waiting := setChannel_becomes agree
        (loose (x := { s.channel p n with attach := .waiting }) rfl)
      have source' : ((s.setChannel p n { s.channel p n with attach := .waiting }).channel p n).source =
          some (.line l) := by rw [setChannel_channel_self]; exact source
      have attach' : ((s.setChannel p n { s.channel p n with attach := .waiting }).channel p n).attach = .waiting := by
        rw [setChannel_channel_self]
      obtain ⟨x, fits, -, became⟩ := sendTake_becomes
        (linesOk_of_frame lines (setChannel_frame s p n { s.channel p n with attach := .waiting })) (waiting.agree agree)
        source' attach'
      refine ⟨x, fits, fun q m j e => ?_, became.seated, became.here, fun q m e => ?_⟩
      · rw [became.speaks q m j e, waiting.speaks q m j e]
      · rw [became.others q m e, waiting.others q m e]
    · exact ⟨{ s.channel p n with attach := .waiting, waitReason := some .linkDown }, fits_waiting source rfl,
        setChannel_becomes agree (loose rfl)⟩
  · next g source =>
    refine ⟨_, ?_, setChannel_becomes agree fun j => ?_⟩
    · simp [Channel.fits, source, attachFits]
    · simp [Channel.attachedTo, source]
  · next source =>
    refine ⟨_, ?_, setChannel_becomes agree fun j => ?_⟩
    · simp [Channel.fits, source, attachFits]
    · simp [Channel.attachedTo, source]

/-- The attach phase gives every channel that it reaches an attach state that fits its source. -/
theorem attachPhases_fit {p : PositionId} (xs : List ChannelId) (h : s.planOk p) :
    (xs.foldl (State.attachPhase p) s).planOk p ∧
      ∀ q n, (s.channel q n).fits ∨ q = p ∧ n ∈ xs → ((xs.foldl (State.attachPhase p) s).channel q n).fits := by
  induction xs generalizing s with
  | nil => exact ⟨h, fun q n => by simp⟩
  | cons m xs ih =>
    obtain ⟨x, fits, became⟩ := attachPhase_becomes h m
    have next := became.planOk h (attachPhase_linesOk h.1 p m) (.inl fits)
    obtain ⟨planned, each⟩ := ih next
    refine ⟨planned, fun q n hn => each q n ?_⟩
    by_cases e : (q, n) = (p, m)
    · obtain ⟨rfl, rfl⟩ := Prod.mk.inj e
      rw [became.here]
      exact .inl fits
    · rw [became.others q n e]
      refine hn.imp id fun ⟨hq, hn⟩ => ⟨hq, ?_⟩
      exact (List.mem_cons.1 hn).resolve_left fun hm => e (by rw [hq, hm])

theorem installPlan_attachOk (ok : s.linesOk) (h : s.attachOk) (p : PositionId) (old new : Nat) :
    (s.installPlan p old new).attachOk := by
  have start : s.planOk p := ⟨ok, h.1, fun q n => .inl (h.2 q n)⟩
  have planned := foldl_keeps (P := fun s => s.planOk p) (fun s n h => planChannel_planOk h n) (ascending 8) start
  obtain ⟨attached, fits⟩ := attachPhases_fit (ascending 8) planned
  have each := planned.2.2
  unfold State.installPlan
  dsimp only
  generalize (ascending 8).foldl (State.planChannel p) s = v at planned attached fits each ⊢
  generalize (ascending 8).foldl (State.attachPhase p) v = u at attached fits ⊢
  have ended : u.attachOk := by
    refine ⟨attached.2.1, fun q n => fits q n ?_⟩
    exact (each q n).imp id fun a => ⟨a.1, List.mem_finRange n⟩
  refine SameAttach.attachOk (s := u) ⟨fun _ _ _ => Iff.rfl, fun q n => ?_⟩ ended
  unfold State.channel
  by_cases e : q = p
  · subst e
    rw [State.setSpeaker_speaker]
    exact ⟨rfl, rfl, rfl⟩
  · rw [State.setSpeaker_speaker_ne _ _ e]
    exact ⟨rfl, rfl, rfl⟩

/-! ### The clearance of a line -/

theorem Channel.cleared_cleared (r : ResultCode) (x : Channel) : (x.cleared r).cleared r = x.cleared r := rfl

theorem channel_of_frame {ch : List Part} {s t : State} (frame : SameExcept ch s t)
    (hs : Part.speakers ∉ ch := by decide) {p : PositionId} {n : ChannelId} : t.channel p n = s.channel p n := by
  have speakers : t.speakers = s.speakers := frame .speakers hs
  simp [State.channel, State.speaker, speakers]

theorem partyRemoved_channel (r : ResultCode) (y : Party) (p : PositionId) (n : ChannelId) :
    (State.partyRemoved r s y).channel p n =
      if y.position = p ∧ y.path = .channel n then (s.channel p n).cleared r else s.channel p n := by
  unfold State.partyRemoved
  split
  · next h path =>
    rw [path, if_neg (by simp)]
    rw [channel_of_frame (reportSlot_frame _ y.position (s.slot y.position h))]
    exact channel_of_frame (setSlot_frame s y.position h none)
  · next m path =>
    by_cases e : (p, n) = (y.position, m)
    · obtain ⟨rfl, rfl⟩ := Prod.mk.inj e
      rw [setChannel_channel_self, if_pos ⟨rfl, path⟩]
    · rw [setChannel_channel_ne _ e, if_neg]
      rintro ⟨rfl, path'⟩
      rw [path] at path'
      cases path'
      exact e rfl

theorem partiesRemoved_channel (r : ResultCode) (ys : List Party) (p : PositionId) (n : ChannelId) :
    (ys.foldl (State.partyRemoved r) s).channel p n =
      if ∃ y ∈ ys, y.position = p ∧ y.path = .channel n then (s.channel p n).cleared r else s.channel p n := by
  induction ys generalizing s with
  | nil => simp
  | cons y ys ih =>
    rw [List.foldl_cons, ih, partyRemoved_channel]
    by_cases first : y.position = p ∧ y.path = .channel n
    · simp [first, Channel.cleared_cleared]
    · simp [first]

theorem clearLine_attachOk (h : s.attachOk) (l : LineId) (e : LineState) (r : ResultCode) :
    (s.clearLine l e r).attachOk := by
  unfold State.clearLine
  dsimp only
  have channels2 := partiesRemoved_channel (s := s.setLine l { s.line l with parties := [] }) r (s.line l).parties
  have lines2 := lines_of_frame
    (SameExcept.foldl (fun s x => partyRemoved_frame s r x) (s.line l).parties (s.setLine l { s.line l with parties := [] }))
  generalize (s.line l).parties.foldl (State.partyRemoved r) (s.setLine l { s.line l with parties := [] }) = s2
    at channels2 lines2 ⊢
  have ok2 : s2.attachOk := by
    refine ⟨fun p n m => ?_, fun p n => ?_⟩
    · rw [channels2, State.speaks, lines2]
      by_cases e : m = l
      · subst e
        rw [State.setLine_line]
        split
        · simp [Line.seats, Channel.attachedTo, Channel.cleared]
        · next silent =>
          refine ⟨fun ⟨y, hy, _⟩ => absurd hy List.not_mem_nil, fun a => absurd ((h.1 p n m).2 a) silent⟩
      · rw [State.setLine_line_ne _ _ e]
        split
        · next speaks =>
          have here := (h.1 p n l).1 speaks
          refine ⟨fun a => absurd ?_ e, fun a => absurd a.2 (by simp [Channel.cleared])⟩
          have there := (h.1 p n m).1 a
          have := there.1.symm.trans here.1
          cases this
          rfl
        · exact h.1 p n m
    · rw [channels2]
      split
      · next speaks => exact fits_waiting ((h.1 p n l).1 speaks).1 rfl
      · exact h.2 p n
  have unowned : (s2.setLine l { s2.line l with holdOwner := none, privateHold := false }).attachOk :=
    (setLine_sameAttach l { s2.line l with holdOwner := none, privateHold := false } rfl).attachOk ok2
  refine (moveLine_sameAttach l _ ?_).attachOk ((SameAttach.of_frame (reportOwner_frame _ _)).attachOk unowned)
  rw [lines_of_frame (reportOwner_frame _ _), State.setLine_line, lines2, State.setLine_line]

theorem abandon_sameAttach (l : LineId) : SameAttach s (s.abandon l) := by
  unfold State.abandon
  dsimp only
  refine SameAttach.trans ?_ (.of_frame (raise_frame _ _))
  refine SameAttach.trans ?_ (moveLine_sameAttach l _ rfl)
  refine SameAttach.trans ?_ (.of_frame (reportOwner_frame _ _))
  exact setLine_sameAttach l _ rfl

theorem configureLine_sameAttach (l : LineId) (k : LineClass) (b : BargePolicy) (r : Ringdown) :
    SameAttach s (s.configureLine l k b r) := by
  unfold State.configureLine
  dsimp only
  split
  · refine SameAttach.trans ?_ (.of_frame (refileRing_frame _ l))
    exact moveLine_sameAttach l _ rfl
  · exact moveLine_sameAttach l _ rfl

/-! ### Every transaction and every step -/

theorem Moves.attachOk {s t : State} (m : Moves s t) (ok : s.linesOk) (h : s.attachOk) : t.attachOk := by
  cases m with
  | aside frame => exact (SameAttach.of_frame frame).attachOk h
  | posted frame _ => exact (SameAttach.of_frame frame).attachOk h
  | spoken p x channels _ =>
    refine SameAttach.attachOk (s := s) ⟨fun _ _ _ => Iff.rfl, fun q n => ?_⟩ h
    unfold State.channel
    by_cases e : q = p
    · subst e
      rw [State.setSpeaker_speaker, channels]
      exact ⟨rfl, rfl, rfl⟩
    · rw [State.setSpeaker_speaker_ne _ _ e]
      exact ⟨rfl, rfl, rfl⟩
  | keyed p n x source attach waitReason =>
    refine SameAttach.attachOk (s := s) ⟨fun _ _ _ => Iff.rfl, fun q m => ?_⟩ h
    by_cases e : (q, m) = (p, n)
    · obtain ⟨rfl, rfl⟩ := Prod.mk.inj e
      rw [setChannel_channel_self]
      exact ⟨source, attach, waitReason⟩
    · rw [setChannel_channel_ne x e]
      exact ⟨rfl, rfl, rfl⟩
  | grouped g x _ => exact (SameAttach.of_frame (setGroup_frame s g x)).attachOk h
  | touched l x core _ => exact (setLine_sameAttach l x core.seats).attachOk h
  | moved l x core => exact (moveLine_sameAttach l x core.seats).attachOk h
  | configured l k b r => exact (configureLine_sameAttach l k b r).attachOk h
  | seated p hs l k o _ =>
    exact (((take_handset_sameAttach ok l p hs k o).trans (replaceSlot_sameAttach p hs _ _)).trans
      (.of_frame (reportOwner_frame _ _))).attachOk h
  | joined p hs g k => exact (replaceSlot_sameAttach p hs _ _).attachOk h
  | released p hs => exact (releaseSlot_sameAttach p hs).attachOk h
  | held p hs l k _ =>
    exact (((hold_sameAttach l p hs).trans (.of_frame (setSlot_frame _ p hs none))).trans
      (.of_frame (reportEnd_frame _ p k))).attachOk h
  | dropped g p hs => exact (SameAttach.of_frame (dropGroupSlot_frame s g p hs)).attachOk h
  | attached p n => exact sendTake_attachOk ok h p n
  | planned p old new => exact installPlan_attachOk ok h p old new
  | detached p n => exact channelLinkLoss_attachOk h p n
  | cleared l e r _ => exact clearLine_attachOk h l e r
  | abandoned l _ => exact (abandon_sameAttach l).attachOk h
  | committed c page => exact (SameAttach.of_frame (applyPage_frame s c page)).attachOk h
  | wiped p _ => exact (SameAttach.of_frame (wipe_frame s p)).attachOk h

theorem powerOn_channel (q m : Bool) (pending : List Instr) (p : PositionId) (n : ChannelId) :
    State.channel { State.powerOn q m with pending := pending } p n = Channel.powerOn := by
  have speaker : State.speaker { State.powerOn q m with pending := pending } p = Speaker.powerOn := Table.get_fill _ p
  rw [State.channel, speaker]
  exact Table.get_fill _ n

theorem powerOn_attachOk (q m : Bool) (pending : List Instr) :
    State.attachOk { State.powerOn q m with pending := pending } := by
  refine ⟨fun p n l => ?_, fun p n => ?_⟩
  · rw [State.speaks, powerOn_line, powerOn_channel]
    simp [Line.seats, Line.powerOn, Channel.attachedTo, Channel.powerOn]
  · rw [powerOn_channel]
    simp [Channel.fits, Channel.powerOn, attachFits]

/-- Settles O7: attach states and speaker parties agree after power-on, and every transaction keeps them so together with
the well-formed lines. -/
theorem stepKeepsAttachStates : Obligations.StepKeepsAttachStates := by
  intro s t ok agree fit stepped
  have kept := step_keeps (P := fun s => s.linesOk ∧ s.attachOk)
    (fun q m pending => ⟨powerOn_linesOk q m pending, powerOn_attachOk q m pending⟩)
    (fun _ _ m h => ⟨m.linesOk h.1, m.attachOk h.1 h.2⟩) ⟨ok, agree, fit⟩ stepped
  exact kept.2

end Sys2Proof.Machine
end

section
/-! PROOFS. Every step keeps pending replacements on bound entries alone. -/

namespace Sys2Proof.Machine

-- One theorem after another: side by side they hold the memory of too many stacks.
set_option Elab.async false

variable {s t : State}

/-! ### Bindings -/

theorem holdsThrough_iff {slot : Option Held} {c : Content} {k : Key} :
    holdsThrough slot c k = true ↔ ∃ x, slot = some x ∧ x.key = k ∧ c.target = some x.source := by
  unfold holdsThrough
  cases slot <;> simp

theorem isHoldOwner_iff {p : PositionId} {k : Key} :
    s.isHoldOwner p k = true ↔ ∃ l, (s.line l).holdOwner = some ⟨p, k⟩ := by
  simp [State.isHoldOwner, State.line, Table.mem_items]

/-- What binds an entry: a slot that holds its target through its key, or a hold owner (R133). -/
theorem bound_iff {p : PositionId} {k : Key} :
    s.bound p k = true ↔
      (∃ h x, s.slot p h = some x ∧ x.key = k ∧ (s.entry p k).content.target = some x.source) ∨
        ∃ l, (s.line l).holdOwner = some ⟨p, k⟩ := by
  simp only [State.bound, Bool.or_eq_true, holdsThrough_iff, isHoldOwner_iff]
  refine or_congr_left ⟨?_, ?_⟩
  · rintro (h | h)
    · exact ⟨.h0, h⟩
    · exact ⟨.h1, h⟩
  · rintro ⟨h, hx⟩
    cases h
    · exact .inl hx
    · exact .inr hx

/-- Every entry with a pending replacement is bound, except perhaps the ones of `refs`. -/
def State.pendingBut (s : State) (refs : List KeyRef) : Prop :=
  ∀ p k, (s.entry p k).pendingContent.isSome = true → s.bound p k = true ∨ ⟨p, k⟩ ∈ refs

theorem pendingBound_iff : s.pendingBound ↔ s.pendingBut [] := by
  simp [State.pendingBound, State.pendingBut]

theorem State.pendingBut.mono {refs refs' : List KeyRef} (h : s.pendingBut refs) (sub : refs ⊆ refs') : s.pendingBut refs' :=
  fun p k pending => (h p k pending).imp id fun a => sub a

/-- With the same entries, only the ends of bindings are new exceptions. -/
theorem State.pendingBut.unbound {refs ends : List KeyRef} (h : s.pendingBut refs) (directory : t.directory = s.directory)
    (kept : ∀ p k, s.bound p k = true → t.bound p k = true ∨ ⟨p, k⟩ ∈ ends) : t.pendingBut (ends ++ refs) := by
  intro p k pending
  have entry : t.entry p k = s.entry p k := by simp [State.entry, directory]
  rw [entry] at pending
  rcases h p k pending with bound | mem
  · exact (kept p k bound).imp id fun a => List.mem_append_left _ a
  · exact .inr (List.mem_append_right _ mem)

/-- The same entries, slots and hold owners. -/
theorem State.pendingBut.congr {refs : List KeyRef} (h : s.pendingBut refs) (directory : t.directory = s.directory)
    (slots : ∀ p h, t.slot p h = s.slot p h) (owners : ∀ l, (t.line l).holdOwner = (s.line l).holdOwner) :
    t.pendingBut refs := by
  refine h.unbound (ends := []) directory fun p k bound => .inl ?_
  have entry : t.entry p k = s.entry p k := by simp [State.entry, directory]
  rw [bound_iff] at bound ⊢
  simpa only [slots, owners, entry] using bound

theorem State.pendingBut.of_frame {refs : List KeyRef} {ch : List Part} (h : s.pendingBut refs) (frame : SameExcept ch s t)
    (rings : OnlyRings s t) (hd : Part.directory ∉ ch := by decide) (hl : Part.lines ∉ ch := by decide) :
    t.pendingBut refs :=
  h.congr (frame .directory hd) (fun p h => rings.slot p h) fun l => by rw [lines_of_frame frame hl]

theorem State.pendingBut.of_parts {refs : List KeyRef} {ch : List Part} (h : s.pendingBut refs) (frame : SameExcept ch s t)
    (hd : Part.directory ∉ ch := by decide) (hl : Part.lines ∉ ch := by decide)
    (hp : Part.positions ∉ ch := by decide) : t.pendingBut refs :=
  h.of_frame frame (.of_positions (frame .positions hp)) hd hl

/-! ### The directory -/

@[simp] theorem setEntry_entry_self (p : PositionId) (k : Key) (x : Entry) : (s.setEntry p k x).entry p k = x := by
  simp [State.setEntry, State.entry]

theorem setEntry_entry_ne {p q : PositionId} {k j : Key} (x : Entry) (e : (q, j) ≠ (p, k)) :
    (s.setEntry p k x).entry q j = s.entry q j := by
  by_cases hp : q = p
  · subst hp
    have hk : j ≠ k := fun a => e (by rw [a])
    simp [State.setEntry, State.entry, hk]
  · simp [State.setEntry, State.entry, hp]

/-- One entry written: it must be bound if it keeps a pending replacement. -/
theorem State.pendingBut.setEntry {refs : List KeyRef} (h : s.pendingBut (⟨p, k⟩ :: refs)) {x : Entry}
    (here : x.pendingContent.isSome = true → (s.setEntry p k x).bound p k = true) : (s.setEntry p k x).pendingBut refs := by
  intro q j pending
  by_cases e : (q, j) = (p, k)
  · obtain ⟨rfl, rfl⟩ := Prod.mk.inj e
    rw [setEntry_entry_self] at pending
    exact .inl (here pending)
  · rw [setEntry_entry_ne x e] at pending
    rcases h q j pending with bound | mem
    · refine .inl ?_
      rw [bound_iff] at bound ⊢
      rwa [setEntry_entry_ne x e]
    · exact .inr ((List.mem_cons.1 mem).resolve_left fun a => e (by cases a; rfl))

theorem State.pendingBut.directoryChanged {refs : List KeyRef} (h : s.pendingBut refs) (p : PositionId)
    (old : Table 64 Entry) : (s.directoryChanged p old).pendingBut refs :=
  h.of_frame (directoryChanged_frame s p old) (directoryChanged_rings s p old)

/-- The report installs what waits for the end of the last binding of the entry (R134). -/
theorem State.pendingBut.reportEnd {p : PositionId} {k : Key} {refs : List KeyRef} (h : s.pendingBut (⟨p, k⟩ :: refs)) :
    (s.reportEnd p k).pendingBut refs := by
  have here (e : s.bound p k = true ∨ (s.entry p k).pendingContent = none) : s.pendingBut refs := by
    intro q j pending
    rcases h q j pending with bound | mem
    · exact .inl bound
    · rcases List.mem_cons.1 mem with a | mem
      · cases a
        rcases e with bound | none
        · exact .inl bound
        · simp [none] at pending
      · exact .inr mem
  unfold State.reportEnd
  split
  · next bound => exact here (.inl bound)
  · split
    · exact ((h.setEntry (by simp)).directoryChanged _ _).of_parts (raise_frame _ _)
    · next none => exact here (.inr none)

/-- The key through which a slot of `p` is filled. -/
def slotRefs (p : PositionId) (old : Option Held) : List KeyRef := (old.map fun x => KeyRef.mk p x.key).toList

theorem State.pendingBut.reportSlot {p : PositionId} {old : Option Held} {refs : List KeyRef}
    (h : s.pendingBut (slotRefs p old ++ refs)) : (s.reportSlot p old).pendingBut refs := by
  unfold State.reportSlot
  cases old with
  | none => exact h
  | some x => exact State.pendingBut.reportEnd h

theorem State.pendingBut.reportOwner {owner : Option KeyRef} {refs : List KeyRef}
    (h : s.pendingBut (owner.toList ++ refs)) : (s.reportOwner owner).pendingBut refs := by
  unfold State.reportOwner
  cases owner with
  | none => exact h
  | some x => exact State.pendingBut.reportEnd h

/-! ### Slots and hold owners -/

theorem State.pendingBut.setSlot {refs : List KeyRef} (h : s.pendingBut refs) (p : PositionId) (hs : Handset)
    (new : Option Held) : (s.setSlot p hs new).pendingBut (slotRefs p (s.slot p hs) ++ refs) := by
  refine h.unbound rfl fun q k bound => ?_
  rw [bound_iff] at bound ⊢
  rcases bound with ⟨g, x, slot, key, target⟩ | owner
  · by_cases e : (q, g) = (p, hs)
    · obtain ⟨rfl, rfl⟩ := Prod.mk.inj e
      simp [slotRefs, slot, key]
    · exact .inl (.inl ⟨g, x, by rwa [setSlot_slot_ne _ _ e], key, target⟩)
  · exact .inl (.inr owner)

/-- A line record written: an owner that it loses is the end of a binding. -/
theorem State.pendingBut.line_written {refs : List KeyRef} (h : s.pendingBut refs) {l : LineId}
    (directory : t.directory = s.directory) (slots : ∀ p h, t.slot p h = s.slot p h)
    (others : ∀ m, m ≠ l → t.line m = s.line m) {ends : List KeyRef}
    (owner : ∀ o, (s.line l).holdOwner = some o → (t.line l).holdOwner = some o ∨ o ∈ ends) :
    t.pendingBut (ends ++ refs) := by
  refine h.unbound directory fun p k bound => ?_
  have entry : t.entry p k = s.entry p k := by simp [State.entry, directory]
  rw [bound_iff] at bound ⊢
  rcases bound with ⟨g, x, slot, key, target⟩ | ⟨m, held⟩
  · exact .inl (.inl ⟨g, x, by rwa [slots], key, by rwa [entry]⟩)
  · by_cases e : m = l
    · subst e
      exact (owner _ held).imp (fun a => .inr ⟨m, a⟩) id
    · exact .inl (.inr ⟨m, by rwa [others m e]⟩)

theorem State.pendingBut.setLine {refs : List KeyRef} (h : s.pendingBut refs) {l : LineId} {x : Line} {ends : List KeyRef}
    (owner : ∀ o, (s.line l).holdOwner = some o → x.holdOwner = some o ∨ o ∈ ends) :
    (s.setLine l x).pendingBut (ends ++ refs) := by
  refine h.line_written (t := s.setLine l x) rfl (fun _ _ => rfl) (fun m e => State.setLine_line_ne _ _ e) ?_
  rwa [State.setLine_line]

theorem State.pendingBut.moveLine {refs : List KeyRef} (h : s.pendingBut refs) {l : LineId} {x : Line} {ends : List KeyRef}
    (owner : ∀ o, (s.line l).holdOwner = some o → x.holdOwner = some o ∨ o ∈ ends) :
    (s.moveLine l x).pendingBut (ends ++ refs) := by
  refine h.line_written (moveLine_frame s l x .directory (by decide)) (fun p g => (moveLine_rings s l x).slot p g)
    (fun m e => moveLine_line_ne s x e) ?_
  rwa [moveLine_line]

/-- A move that keeps the hold owner. -/
theorem State.pendingBut.moveLine_same {refs : List KeyRef} (h : s.pendingBut refs) {l : LineId} {x : Line}
    (owner : x.holdOwner = (s.line l).holdOwner) : (s.moveLine l x).pendingBut refs :=
  h.moveLine (ends := []) fun _ ho => .inl (owner.trans ho)

theorem State.pendingBut.setLine_same {refs : List KeyRef} (h : s.pendingBut refs) {l : LineId} {x : Line}
    (owner : x.holdOwner = (s.line l).holdOwner) : (s.setLine l x).pendingBut refs :=
  h.setLine (ends := []) fun _ ho => .inl (owner.trans ho)

/-! ### Operations -/

/-- A take ends the hold binding of a HELD or RECALL line alone (R15). -/
theorem afterTake_holdOwner (x : Line) (timer : Option LineTimer) (t : Take) :
    (x.afterTake timer t).holdOwner = if x.pickedUpOwner = none then x.holdOwner else none := by
  cases state : x.state <;> simp [Line.afterTake, Line.pickedUpOwner, state]
  · split <;> rfl
  · exact fun a => a.symm
  · exact fun a => a.symm

theorem pickedUpOwner_le {x : Line} {o : KeyRef} (h : x.pickedUpOwner = some o) : x.holdOwner = some o := by
  unfold Line.pickedUpOwner at h
  split at h
  · exact h
  · exact h
  all_goals cases h

theorem State.pendingBut.take {refs : List KeyRef} (h : s.pendingBut refs) (l : LineId) (t : Take) :
    (s.take l t).1.pendingBut ((s.line l).pickedUpOwner.toList ++ refs) := by
  by_cases judged : judgeTake (s.line l) t = .ok
  · rw [take_ok s judged]
    refine h.moveLine fun o ho => ?_
    rw [afterTake_holdOwner]
    cases picked : (s.line l).pickedUpOwner with
    | none => exact .inl (by simpa using ho)
    | some o' =>
      have := pickedUpOwner_le picked
      rw [ho] at this
      cases this
      exact .inr (by simp)
  · rw [take_refused_state judged]
    exact h.mono (List.subset_append_right _ _)

theorem State.pendingBut.leave {refs : List KeyRef} (h : s.pendingBut refs) (l : LineId) (p : PositionId) (path : Path) :
    (s.leave l p path).1.pendingBut refs := by
  unfold State.leave
  split
  · exact h
  · exact h.moveLine_same (Line.afterLeave_holdOwner _ _ _ _)

/-- A hold only adds a hold owner: its line, in a call, had none (R4, R21). -/
theorem State.pendingBut.hold {refs : List KeyRef} (h : s.pendingBut refs) (ok : s.linesOk) (l : LineId) (p : PositionId)
    (hs : Handset) : (s.hold l p hs).1.pendingBut refs := by
  unfold State.hold
  split
  · exact h
  · next y party =>
    split
    · refine h.moveLine (ends := []) fun o ho => ?_
      obtain ⟨mem, -⟩ := Line.of_party? party
      have none : (s.line l).holdOwner = none := by
        refine (ok l).no_owner ?_
        rcases (ok l).in_call mem with e | e <;> rw [e] <;> rfl
      rw [none] at ho
      cases ho
    · exact h.leave l p _

theorem State.pendingBut.talkRelease {refs : List KeyRef} (h : s.pendingBut refs) (g : GroupId) (p : PositionId)
    (src : Path) : (s.talkRelease g p src).1.pendingBut refs := h.of_parts (talkRelease_frame s g p src)

theorem State.pendingBut.switchAway {refs : List KeyRef} (h : s.pendingBut refs) (ok : s.linesOk) (p : PositionId)
    (hs : Handset) (old : Option Held) : (s.switchAway p hs old).pendingBut refs := by
  unfold State.switchAway
  split
  · exact h
  · exact h.talkRelease _ p _
  · split
    · exact h.hold ok _ p hs
    · exact h.leave _ p _

theorem State.pendingBut.replaceSlot {refs : List KeyRef} (h : s.pendingBut refs) (ok : s.linesOk) {p : PositionId}
    {hs : Handset} {old : Option Held} (slot : s.slot p hs = old) (new : Held) :
    (s.replaceSlot p hs old new).pendingBut refs := by
  have filled := (h.switchAway ok p hs old).setSlot p hs (some new)
  rw [switchAway_slot, slot] at filled
  exact filled.reportSlot

theorem State.pendingBut.releaseSlot {refs : List KeyRef} (h : s.pendingBut refs) (p : PositionId) (hs : Handset) :
    (s.releaseSlot p hs).1.pendingBut refs := by
  unfold State.releaseSlot
  split
  · exact h
  · next l k slot =>
    have emptied := (h.leave l p (.handset hs)).setSlot p hs none
    rw [leave_slot, slot] at emptied
    exact State.pendingBut.reportEnd emptied
  · next g k slot =>
    have emptied := (h.talkRelease g p (.handset hs)).setSlot p hs none
    rw [(talkRelease_sameSeats g p _).slot, slot] at emptied
    exact State.pendingBut.reportEnd emptied

theorem State.pendingBut.sendTake {refs : List KeyRef} (h : s.pendingBut refs) (p : PositionId) (n : ChannelId) :
    (State.sendTake p s n).pendingBut refs := by
  unfold State.sendTake
  dsimp only
  split
  · next l _ =>
    split
    · by_cases judged : judgeTake (s.line l) (speakerTake p n (s.channel p n).talkback) = .ok
      · have taken := h.take l (speakerTake p n (s.channel p n).talkback)
        have unheld : (s.line l).pickedUpOwner = none := by
          unfold Line.pickedUpOwner
          split
          case h_1 e => simp [judgeTake, e, judgePickup, speakerTake, Path.isHandset] at judged
          case h_2 e => simp [judgeTake, e, judgePickup, speakerTake, Path.isHandset] at judged
          all_goals rfl
        rw [unheld] at taken
        split <;> rename_i heq
        · rw [heq] at taken
          exact taken.of_parts (setChannel_frame _ p n _)
        · exact h.of_parts (setChannel_frame _ p n _)
      · rw [take_refused s judged]
        split <;> rename_i heq
        · exact absurd (Prod.mk.inj heq).2 judged
        · exact h.of_parts (setChannel_frame _ p n _)
    · exact h
  all_goals exact h

theorem State.pendingBut.planChannel {refs : List KeyRef} (h : s.pendingBut refs) (p : PositionId) (n : ChannelId) :
    (State.planChannel p s n).pendingBut refs := by
  have down : (s.takeDown p n).pendingBut refs := by
    unfold State.takeDown
    dsimp only
    repeat' split
    · exact h.leave _ p _
    · exact h
    · exact h.talkRelease _ p _
    · exact h
    · exact h
  have updated (v : Bool) : (s.talkbackUpdate p n v).pendingBut refs := by
    unfold State.talkbackUpdate
    dsimp only
    repeat' split
    · exact h.setLine_same rfl
    all_goals exact h
  unfold State.planChannel
  dsimp only
  split
  · exact (updated _).of_parts (setChannel_frame _ p n _)
  · exact down.of_parts (setChannel_frame _ p n _)

theorem State.pendingBut.attachPhase {refs : List KeyRef} (h : s.pendingBut refs) (p : PositionId) (n : ChannelId) :
    (State.attachPhase p s n).pendingBut refs := by
  unfold State.attachPhase
  dsimp only
  repeat' split
  · exact h
  · exact (h.of_parts (setChannel_frame s p n _)).sendTake p n
  all_goals exact h.of_parts (setChannel_frame s p n _)

theorem State.pendingBut.installPlan {refs : List KeyRef} (h : s.pendingBut refs) (p : PositionId) (old new : Nat) :
    (s.installPlan p old new).pendingBut refs := by
  have planned := foldl_keeps (P := fun s => s.pendingBut refs) (fun s n h => h.planChannel p n) (ascending 8) h
  have attached := foldl_keeps (P := fun s => s.pendingBut refs) (fun s n h => h.attachPhase p n) (ascending 8) planned
  unfold State.installPlan
  dsimp only
  generalize (ascending 8).foldl (State.attachPhase p) ((ascending 8).foldl (State.planChannel p) s) = u at attached ⊢
  exact attached.congr rfl (fun _ _ => rfl) fun _ => rfl

theorem State.pendingBut.channelLinkLoss {refs : List KeyRef} (h : s.pendingBut refs) (p : PositionId) (n : ChannelId) :
    (State.channelLinkLoss p s n).pendingBut refs := by
  unfold State.channelLinkLoss
  dsimp only
  repeat' split
  · exact (h.leave _ p _).of_parts (setChannel_frame _ p n _)
  · exact h.of_parts (setChannel_frame _ p n _)
  · exact (h.talkRelease _ p _).of_parts (setChannel_frame _ p n _)
  all_goals exact h.of_parts (setChannel_frame _ p n _)

theorem State.pendingBut.partyRemoved {refs : List KeyRef} (h : s.pendingBut refs) (r : ResultCode) (y : Party) :
    (State.partyRemoved r s y).pendingBut refs := by
  unfold State.partyRemoved
  split
  · exact (h.setSlot y.position _ none).reportSlot
  · exact h.of_parts (setChannel_frame s y.position _ _)

/-- The owner of a line is cleared and its binding's end reported (R8). -/
theorem State.pendingBut.ownerCleared {refs : List KeyRef} (h : s.pendingBut refs) (l : LineId) :
    ((s.setLine l { s.line l with holdOwner := none, privateHold := false }).reportOwner
      (s.line l).holdOwner).pendingBut refs := by
  refine State.pendingBut.reportOwner (h.setLine fun o ho => .inr ?_)
  simp [ho]

/-- After that report the line has no owner. -/
theorem ownerCleared_line (s : State) (l : LineId) :
    ((s.setLine l { s.line l with holdOwner := none, privateHold := false }).reportOwner (s.line l).holdOwner).line l =
      { s.line l with holdOwner := none, privateHold := false } := by
  rw [lines_of_frame (reportOwner_frame _ _), State.setLine_line]

theorem State.pendingBut.clearLine {refs : List KeyRef} (h : s.pendingBut refs) (l : LineId) (e : LineState)
    (r : ResultCode) : (s.clearLine l e r).pendingBut refs := by
  have partyless : (s.setLine l { s.line l with parties := [] }).pendingBut refs := h.setLine_same rfl
  have removed := foldl_keeps (P := fun s => s.pendingBut refs) (fun s y h => h.partyRemoved r y) (s.line l).parties partyless
  unfold State.clearLine
  dsimp only
  exact (removed.ownerCleared l).moveLine_same rfl

theorem State.pendingBut.abandon {refs : List KeyRef} (h : s.pendingBut refs) (l : LineId) :
    (s.abandon l).pendingBut refs := by
  unfold State.abandon
  dsimp only
  have cleared := h.ownerCleared l
  generalize (s.setLine l { s.line l with holdOwner := none, privateHold := false }).reportOwner
    (s.line l).holdOwner = s1 at cleared ⊢
  have guarded : (s1.moveLine l ((s1.line l).guarded (s1.startTimer .guard))).pendingBut refs := cleared.moveLine_same rfl
  exact guarded.of_parts (raise_frame _ (.holdAbandoned l (s.line l).holdOwner))

theorem State.pendingBut.configureLine {refs : List KeyRef} (h : s.pendingBut refs) (l : LineId) (k : LineClass)
    (b : BargePolicy) (r : Ringdown) : (s.configureLine l k b r).pendingBut refs := by
  have moved : (s.moveLine l { s.line l with cls := k, barge := b, ringdown := r }).pendingBut refs := h.moveLine_same rfl
  unfold State.configureLine
  dsimp only
  split
  · exact moved.of_frame (refileRing_frame _ l) (refileRing_rings _ l)
  · exact moved

theorem State.pendingBut.commitSlot {acc : State × CommitCounts} (h : acc.1.pendingBut refs) (b : Staging)
    (page : Fin 128) (i : Fin 16) : (commitSlot b page acc i).1.pendingBut refs := by
  have wide := fun p k => State.pendingBut.mono (refs' := ⟨p, k⟩ :: refs) h (List.subset_cons_self _ _)
  unfold Machine.commitSlot State.commitEntry
  dsimp only
  split
  · split
    · next bound =>
      split
      · exact (wide _ _).setEntry (by simp)
      · refine (wide _ _).setEntry fun _ => ?_
        rw [bound_iff] at bound ⊢
        rwa [setEntry_entry_self]
    · exact (wide _ _).setEntry (by simp)
  · exact h

theorem State.pendingBut.applyPage (h : s.pendingBut refs) (c : Port) (page : Fin 128) :
    (s.applyPage c page).1.pendingBut refs := by
  have committed (xs : List (Fin 16)) (acc : State × CommitCounts) (h : acc.1.pendingBut refs) :
      (xs.foldl (Machine.commitSlot (s.stagingOf c) page) acc).1.pendingBut refs := by
    induction xs generalizing acc with
    | nil => exact h
    | cons i xs ih => exact ih _ (h.commitSlot _ page i)
  have done := committed (ascending 16) (s, ⟨0, 0, 0⟩) h
  unfold State.applyPage
  dsimp only
  generalize (ascending 16).foldl (Machine.commitSlot (s.stagingOf c) page) (s, ⟨0, 0, 0⟩) = u at done ⊢
  exact (done.of_parts (setStaging_frame u.1 c Staging.emptied)).directoryChanged _ _

theorem State.pendingBut.wipe (h : s.pendingBut refs) (p : PositionId) : (s.wipe p).pendingBut refs := by
  unfold State.wipe
  dsimp only
  refine State.pendingBut.directoryChanged (fun q k pending => ?_) _ _
  by_cases e : q = p
  · subst e
    simp [State.entry] at pending
  · have entry : State.entry ({ s with directory := s.directory.set p (Table.fill 64 ⟨.empty, none⟩) }.setGuard p .openGuard)
        q k = s.entry q k := by simp [State.entry, e]
    rw [entry] at pending
    refine (h q k pending).imp_left fun bound => ?_
    rw [bound_iff] at bound ⊢
    rwa [entry]

/-! ### Every transaction and every step -/

theorem Moves.pendingBut {s t : State} (m : Moves s t) (ok : s.linesOk) (h : s.pendingBut []) : t.pendingBut [] := by
  cases m with
  | aside frame => exact h.of_parts frame
  | posted frame core =>
    exact h.congr (frame .directory (by decide)) (fun p g => (core p).handset_slot g) fun l => by rw [lines_of_frame frame]
  | spoken p x _ _ => exact h.of_parts (setSpeaker_frame s p x)
  | keyed p n x _ _ _ => exact h.of_parts (setChannel_frame s p n x)
  | grouped g x _ => exact h.of_parts (setGroup_frame s g x)
  | touched l x core _ => exact h.setLine_same core.holdOwner
  | moved l x core => exact h.moveLine_same core.holdOwner
  | configured l k b r => exact h.configureLine l k b r
  | seated p hs l k o _ =>
    have taken := h.take l (s.handsetTake p hs k o)
    have lines := take_linesOk ok l (s.handsetTake p hs k o) rfl fun _ => rfl
    exact (taken.replaceSlot lines (take_slot _ _ _ _) _).reportOwner
  | joined p hs g k => exact h.replaceSlot ok rfl _
  | released p hs => exact h.releaseSlot p hs
  | held p hs l k slot =>
    have emptied := (h.hold ok l p hs).setSlot p hs none
    rw [hold_slot, slot] at emptied
    exact State.pendingBut.reportEnd emptied
  | dropped g p hs =>
    unfold State.dropGroupSlot
    split
    · exact (h.setSlot p hs none).reportSlot
    · exact h
  | attached p n => exact h.sendTake p n
  | planned p old new => exact h.installPlan p old new
  | detached p n => exact h.channelLinkLoss p n
  | cleared l e r _ => exact h.clearLine l e r
  | abandoned l _ => exact h.abandon l
  | committed c page => exact h.applyPage c page
  | wiped p _ => exact h.wipe p

theorem powerOn_entry (q m : Bool) (pending : List Instr) (p : PositionId) (k : Key) :
    State.entry { State.powerOn q m with pending := pending } p k = ⟨.empty, none⟩ := by
  have entries : State.directory { State.powerOn q m with pending := pending } = Table.fill 32 (Table.fill 64 ⟨.empty, none⟩) :=
    rfl
  rw [State.entry, entries, Table.get_fill, Table.get_fill]

theorem powerOn_pendingBound (q m : Bool) (pending : List Instr) :
    State.pendingBound { State.powerOn q m with pending := pending } := by
  intro p k pending
  rw [powerOn_entry] at pending
  cases pending

/-- Settles O8: no replacement is pending after power-on, and every transaction keeps pending replacements on bound entries
together with the well-formed lines. -/
theorem stepKeepsPendingBound : Obligations.StepKeepsPendingBound := by
  intro s t ok h stepped
  have kept := step_keeps (P := fun s => s.linesOk ∧ s.pendingBut [])
    (fun q m pending => ⟨powerOn_linesOk q m pending, pendingBound_iff.1 (powerOn_pendingBound q m pending)⟩)
    (fun _ _ m h => ⟨m.linesOk h.1, m.pendingBut h.1 h.2⟩) ⟨ok, pendingBound_iff.1 h⟩ stepped
  exact pendingBound_iff.2 kept.2

end Sys2Proof.Machine
end

section
/-! PROOFS. Every step keeps the ring queues exact: one queue against what R50 gives it, then the operations on lines and
the directory, then every transaction. -/

namespace Sys2Proof.Machine

-- One theorem after another: side by side they hold the memory of too many stacks.
set_option Elab.async false

/-! ### One queue -/

/-- A ring queue holds one entry of kind `want l` for each line `l` that wants one, in the order by class; where the fields
count too (`full`), each entry is as `fits` says. -/
structure QueueOk (full : Prop) (want : LineId → Option RingKind) (fits : RingEntry → Prop) (q : List RingEntry) :
    Prop where
  once : (q.map RingEntry.line).Nodup
  ordered : byClass RingEntry.cls q
  holds : ∀ l kind, (∃ e ∈ q, e.line = l ∧ e.kind = kind) ↔ want l = some kind
  fits : full → ∀ e ∈ q, fits e

variable {full : Prop} {want want' : LineId → Option RingKind} {fits fits' : RingEntry → Prop} {q : List RingEntry}

theorem QueueOk.wanted (h : QueueOk full want fits q) {e : RingEntry} (he : e ∈ q) : want e.line = some e.kind :=
  (h.holds e.line e.kind).1 ⟨e, he, rfl, rfl⟩

theorem QueueOk.congr (h : QueueOk full want fits q) (same : ∀ l, want' l = want l)
    (kept : ∀ e, want e.line = some e.kind → fits e → fits' e) : QueueOk full want' fits' q where
  once := h.once
  ordered := h.ordered
  holds l kind := by rw [same]; exact h.holds l kind
  fits := fun a e he => kept e (h.wanted he) (h.fits a e he)

/-- The entries of one line leave. -/
theorem QueueOk.left (h : QueueOk full want fits q) {l : LineId} (gone : want' l = none)
    (others : ∀ m, m ≠ l → want' m = want m)
    (kept : ∀ e, e.line ≠ l → want e.line = some e.kind → fits e → fits' e) :
    QueueOk full want' fits' (q.filter fun y => decide (y.line ≠ l)) where
  once := h.once.sublist (List.filter_sublist.map _)
  ordered := h.ordered.filter _
  holds m kind := by
    by_cases e : m = l
    · subst e
      rw [gone]
      simp only [List.mem_filter, decide_eq_true_eq]
      refine ⟨fun ⟨y, hy, line, _⟩ => absurd line hy.2, ?_⟩
      rintro ⟨⟩
    · rw [others m e, ← h.holds m kind]
      simp only [List.mem_filter, decide_eq_true_eq]
      exact ⟨fun ⟨y, hy, line, kind⟩ => ⟨y, hy.1, line, kind⟩,
        fun ⟨y, hy, line, kind⟩ => ⟨y, ⟨hy, by rwa [line]⟩, line, kind⟩⟩
  fits := fun a e he => by
    obtain ⟨he, other⟩ := List.mem_filter.1 he
    exact kept e (by simpa using other) (h.wanted he) (h.fits a e he)

/-- An entry joins as the one entry of its line (R50). -/
theorem QueueOk.joined (h : QueueOk full want fits q) {e : RingEntry} (here : want' e.line = some e.kind)
    (others : ∀ m, m ≠ e.line → want' m = want m)
    (kept : ∀ y, y.line ≠ e.line → want y.line = some y.kind → fits y → fits' y) (new : full → fits' e) :
    QueueOk full want' fits' (insertByClass RingEntry.cls e (q.filter fun y => decide (y.line ≠ e.line))) := by
  have rest : QueueOk full (fun m => if m = e.line then none else want m) fits'
      (q.filter fun y => decide (y.line ≠ e.line)) :=
    h.left (if_pos rfl) (fun m hm => if_neg hm) kept
  have perm := insertByClass_perm RingEntry.cls e (q.filter fun y => decide (y.line ≠ e.line))
  refine ⟨?_, rest.ordered.insert e, fun l kind => ?_, fun a y hy => ?_⟩
  · rw [(perm.map _).nodup_iff, List.map_cons, List.nodup_cons]
    refine ⟨?_, rest.once⟩
    simp only [List.mem_map, List.mem_filter, decide_eq_true_eq, not_exists, not_and]
    exact fun y hy => hy.2
  · simp only [mem_insertByClass]
    by_cases hl : l = e.line
    · subst hl
      rw [here, Option.some_inj]
      constructor
      · rintro ⟨y, rfl | hy, line, kind⟩
        · exact kind
        · exact absurd line (by simpa using (List.mem_filter.1 hy).2)
      · exact fun kind => ⟨e, .inl rfl, rfl, kind⟩
    · rw [others l hl, show want l = (fun m => if m = e.line then none else want m) l from (if_neg hl).symm,
        ← rest.holds l kind]
      constructor
      · rintro ⟨y, rfl | hy, line, kind⟩
        · exact absurd line.symm hl
        · exact ⟨y, hy, line, kind⟩
      · rintro ⟨y, hy, line, kind⟩
        exact ⟨y, .inr hy, line, kind⟩
  · rcases mem_insertByClass.1 hy with rfl | hy
    · exact new a
    · exact rest.fits a y hy

/-- Dropping the entries of one kind of a line that has none of the other kind drops all of them. -/
theorem QueueOk.drop_eq (h : QueueOk full want fits q) {l : LineId} {kind : RingKind}
    (only : ∀ other, want l = some other → other = kind) :
    (q.filter fun y => !(decide (y.line = l) && decide (y.kind = kind))) = q.filter fun y => decide (y.line ≠ l) := by
  refine List.filter_congr fun y hy => ?_
  by_cases line : y.line = l
  · have : y.kind = kind := only _ (line ▸ h.wanted hy)
    simp [line, this]
  · simp [line]

/-- The RING entry of a line takes another key in its place (R52). -/
theorem QueueOk.rekeyed (h : QueueOk full want fits q) {l : LineId} {k : Key} (same : ∀ m, want' m = want m)
    (kept : ∀ y, ¬(y.line = l ∧ y.kind = .ring) → want y.line = some y.kind → fits y → fits' y)
    (new : ∀ y : RingEntry, y.line = l → y.kind = .ring → fits y → fits' { y with key := k }) :
    QueueOk full want' fits'
      (q.map fun y => if decide (y.line = l) && decide (y.kind = .ring) then { y with key := k } else y) := by
  have fields (y : RingEntry) :
      (if decide (y.line = l) && decide (y.kind = .ring) then { y with key := k } else y).line = y.line ∧
      (if decide (y.line = l) && decide (y.kind = .ring) then { y with key := k } else y).kind = y.kind ∧
      (if decide (y.line = l) && decide (y.kind = .ring) then { y with key := k } else y).cls = y.cls := by
    split <;> exact ⟨rfl, rfl, rfl⟩
  refine ⟨?_, ?_, fun m kind => ?_, fun a e he => ?_⟩
  · rw [List.map_map]
    have : RingEntry.line ∘ (fun y : RingEntry =>
        if decide (y.line = l) && decide (y.kind = .ring) then { y with key := k } else y) = RingEntry.line :=
      funext fun y => (fields y).1
    rw [this]
    exact h.once
  · refine List.pairwise_map.2 (h.ordered.imp fun {a b} ab => ?_)
    rw [(fields a).2.2, (fields b).2.2]
    exact ab
  · rw [same, ← h.holds m kind]
    simp only [List.mem_map, exists_exists_and_eq_and, fields]
  · obtain ⟨y, hy, rfl⟩ := List.mem_map.1 he
    split
    · next hit =>
      simp only [Bool.and_eq_true, decide_eq_true_eq] at hit
      exact new y hit.1 hit.2 (h.fits a y hy)
    · next miss =>
      simp only [Bool.and_eq_true, decide_eq_true_eq] at miss
      exact kept y miss (h.wanted hy) (h.fits a y hy)

/-! ### What a position's queue should hold -/

/-- The kind of entry that R50 gives position `p`, with these entries, for line `l` in the record that `V` gives it. -/
def wantedRing (entries : Table 64 Entry) (V : LineId → Line) (p : PositionId) (l : LineId) : Option RingKind :=
  match (V l).state with
  | .ringing => if (lowestRingKey entries l).isSome then some .ring else none
  | .recall => if (V l).heldBy p then some .recall else none
  | .idle | .calling | .active | .held | .guard | .fault | .outOfService => none

/-- The fields of an entry that R50 to R52 give it. -/
def entryFits (entries : Table 64 Entry) (V : LineId → Line) (p : PositionId) (e : RingEntry) : Prop :=
  e.cls = (V e.line).cls ∧ (e.kind = .ring → lowestRingKey entries e.line = some e.key) ∧
    (e.kind = .recall → (V e.line).holdOwner = some ⟨p, e.key⟩)

theorem heldBy_iff {x : Line} {p : PositionId} : x.heldBy p = true ↔ ∃ k, x.holdOwner = some ⟨p, k⟩ := by
  unfold Line.heldBy
  cases x.holdOwner with
  | none => simp
  | some o =>
    simp only [decide_eq_true_eq, Option.some_inj]
    exact ⟨fun h => ⟨o.key, by rw [← h]⟩, fun ⟨k, h⟩ => by rw [h]⟩

theorem wantedRing_ring {entries : Table 64 Entry} {V : LineId → Line} {p : PositionId} {l : LineId} :
    wantedRing entries V p l = some .ring ↔ (V l).state = .ringing ∧ (lowestRingKey entries l).isSome = true := by
  unfold wantedRing
  split <;> simp_all [← Option.isSome_iff_ne_none]

theorem wantedRing_recall {entries : Table 64 Entry} {V : LineId → Line} {p : PositionId} {l : LineId} :
    wantedRing entries V p l = some .recall ↔ (V l).state = .recall ∧ ∃ k, (V l).holdOwner = some ⟨p, k⟩ := by
  rw [← heldBy_iff]
  unfold wantedRing
  split <;> simp_all

/-- Every ring queue is as the lines, in the records that `V` gives them, want it. -/
def State.ringsFor (s : State) (full : Prop) (V : LineId → Line) : Prop :=
  ∀ p, QueueOk full (wantedRing (s.directory.get p) V p) (entryFits (s.directory.get p) V p) (s.position p).ringQueue

theorem ringsFor_iff (s : State) : s.ringsFor False s.line ↔ s.ringsAgree := by
  refine forall_congr' fun p => ⟨fun h => ⟨h.once, h.ordered, fun l => ?_⟩, fun ⟨once, ordered, each⟩ => ?_⟩
  · exact ⟨(h.holds l .ring).trans wantedRing_ring, (h.holds l .recall).trans wantedRing_recall⟩
  · refine ⟨once, ordered, fun l kind => ?_, False.elim⟩
    cases kind with
    | ring => exact (each l).1.trans wantedRing_ring.symm
    | _ => exact (each l).2.trans wantedRing_recall.symm

theorem ringsFor_full_iff (s : State) : s.ringsFor True s.line ↔ s.ringsAgree ∧ s.ringFieldsAgree := by
  rw [← ringsFor_iff]
  constructor
  · intro h
    exact ⟨fun p => ⟨(h p).once, (h p).ordered, (h p).holds, False.elim⟩, fun p => (h p).fits trivial⟩
  · rintro ⟨h, fields⟩ p
    exact ⟨(h p).once, (h p).ordered, (h p).holds, fun _ => fields p⟩

/-! ### Other line records, other entries -/

/-- Two records of a line want the same entries with the same fields. -/
structure SameRing (x y : Line) : Prop where
  state : y.state = x.state
  owner : x.state = .recall → y.holdOwner = x.holdOwner
  cls : x.state = .ringing ∨ x.state = .recall → y.cls = x.cls

theorem SameRing.refl (x : Line) : SameRing x x := ⟨rfl, fun _ => rfl, fun _ => rfl⟩

theorem SameRing.of (x y : Line) (state : y.state = x.state) (owner : y.holdOwner = x.holdOwner) (cls : y.cls = x.cls) :
    SameRing x y := ⟨state, fun _ => owner, fun _ => cls⟩

theorem SameRing.wanted {V V' : LineId → Line} {l : LineId} (h : SameRing (V l) (V' l)) (entries : Table 64 Entry)
    (p : PositionId) : wantedRing entries V' p l = wantedRing entries V p l := by
  unfold wantedRing
  rw [h.state]
  split
  · rfl
  · next e => rw [Line.heldBy, Line.heldBy, h.owner e]
  all_goals rfl

theorem SameRing.keeps {V V' : LineId → Line} {e : RingEntry} (h : SameRing (V e.line) (V' e.line))
    {entries : Table 64 Entry} {p : PositionId} (wanted : wantedRing entries V p e.line = some e.kind)
    (fits : entryFits entries V p e) : entryFits entries V' p e := by
  obtain ⟨cls, ring, recalled⟩ := fits
  have state : (V e.line).state = .ringing ∨ (V e.line).state = .recall := by
    cases kind : e.kind with
    | ring =>
      rw [kind, wantedRing_ring] at wanted
      exact .inl wanted.1
    | _ =>
      rw [kind, wantedRing_recall] at wanted
      exact .inr wanted.1
  refine ⟨cls.trans (h.cls state).symm, ring, fun kind => ?_⟩
  rw [kind, wantedRing_recall] at wanted
  rw [h.owner wanted.1]
  exact recalled kind

/-- `V` with the record of one line replaced. -/
def withLine (V : LineId → Line) (l : LineId) (x : Line) : LineId → Line := fun m => if m = l then x else V m

@[simp] theorem withLine_self (V : LineId → Line) (l : LineId) (x : Line) : withLine V l x l = x := if_pos rfl

theorem withLine_ne (V : LineId → Line) {l m : LineId} (x : Line) (e : m ≠ l) : withLine V l x m = V m := if_neg e

theorem withLine_wanted_ne (V : LineId → Line) {l m : LineId} (x : Line) (e : m ≠ l) (entries : Table 64 Entry)
    (p : PositionId) : wantedRing entries (withLine V l x) p m = wantedRing entries V p m := by
  simp only [wantedRing, withLine_ne V x e]

theorem withLine_fits_ne (V : LineId → Line) {l : LineId} (x : Line) {e : RingEntry} (ne : e.line ≠ l)
    {entries : Table 64 Entry} {p : PositionId} (fits : entryFits entries V p e) : entryFits entries (withLine V l x) p e := by
  simpa only [entryFits, withLine_ne V x ne] using fits

variable {s t : State} {V : LineId → Line}

theorem State.ringsFor.congr (h : s.ringsFor full V) {V' : LineId → Line} (directory : t.directory = s.directory)
    (queues : ∀ p, (t.position p).ringQueue = (s.position p).ringQueue) (same : ∀ l, SameRing (V l) (V' l)) :
    t.ringsFor full V' := by
  intro p
  rw [directory, queues]
  exact (h p).congr (fun l => (same l).wanted _ p) fun e wanted fits => (same e.line).keeps wanted fits

/-- The same directory, position records and view. -/
theorem State.ringsFor.of_parts {ch : List Part} (h : s.ringsFor full V) (frame : SameExcept ch s t)
    (hd : Part.directory ∉ ch := by decide) (hp : Part.positions ∉ ch := by decide) : t.ringsFor full V := by
  have positions : t.positions = s.positions := frame .positions hp
  exact h.congr (frame .directory hd) (fun p => by simp [State.position, positions]) fun l => .refl _

/-! ### One move of a line -/

theorem requeue_ringQueue (clock : Nat) (joined : Bool) (q : List RingEntry) (x : Position) :
    (x.requeue clock joined q).ringQueue = q := by
  unfold Position.requeue
  split
  · next e => exact e.symm
  · rfl

/-- A record that wants no entry. -/
theorem wantedRing_none {entries : Table 64 Entry} {V : LineId → Line} {p : PositionId} {l : LineId}
    (ringing : (V l).state ≠ .ringing) (recalled : (V l).state ≠ .recall) : wantedRing entries V p l = none := by
  unfold wantedRing
  split <;> simp_all

theorem State.ringsFor.leaveRings (h : s.ringsFor full V) (l : LineId) {new : LineState} (ne : (V l).state ≠ new) :
    (s.leaveRings l (V l).state new).ringsFor full (withLine V l { V l with state := .idle }) := by
  have kept (p : PositionId) (e : RingEntry) (other : e.line ≠ l) (_ : wantedRing (s.directory.get p) V p e.line = some e.kind)
      (fits : entryFits (s.directory.get p) V p e) :
      entryFits (s.directory.get p) (withLine V l { V l with state := .idle }) p e := withLine_fits_ne V _ other fits
  have gone (p : PositionId) : wantedRing (s.directory.get p) (withLine V l { V l with state := .idle }) p l = none :=
    wantedRing_none (by simp) (by simp)
  have removed (kind : RingKind) (only : ∀ p other, wantedRing (s.directory.get p) V p l = some other → other = kind) :
      (s.removeRing kind l).ringsFor full (withLine V l { V l with state := .idle }) := by
    intro p
    have queue : ((s.removeRing kind l).position p).ringQueue =
        (s.position p).ringQueue.filter fun y => !(decide (y.line = l) && decide (y.kind = kind)) := by
      simp only [State.removeRing, State.position, Table.get_map, Position.dropRing, requeue_ringQueue]
    rw [queue, (h p).drop_eq (only p)]
    exact (h p).left (gone p) (fun m e => withLine_wanted_ne V _ e _ p) (kept p)
  have stay (ringing : (V l).state ≠ .ringing) (recalled : (V l).state ≠ .recall) :
      s.ringsFor full (withLine V l { V l with state := .idle }) := by
    intro p
    refine (h p).congr (fun m => ?_) fun e wanted fits => ?_
    · by_cases e : m = l
      · subst e
        rw [gone, wantedRing_none ringing recalled]
      · exact withLine_wanted_ne V _ e _ p
    · refine kept p e ?_ wanted fits
      intro line
      rw [line, wantedRing_none ringing recalled] at wanted
      cases wanted
  unfold State.leaveRings
  rw [if_neg ne]
  split
  · next e =>
    refine removed .ring fun p other wanted => ?_
    cases other with
    | ring => rfl
    | _ => simp [wantedRing_recall, e] at wanted
  · next e =>
    refine removed .recall fun p other wanted => ?_
    cases other with
    | ring => simp [wantedRing_ring, e] at wanted
    | _ => rfl
  all_goals
    next e => exact stay (by simp [e]) (by simp [e])

/-- A line that wanted no entry wants the one of its new record. -/
theorem State.ringsFor.joinRings {l : LineId} {x : Line} (h : s.ringsFor full V) (idle : (V l).state = .idle)
    (line : s.line l = x) {old : LineState} (ne : old ≠ x.state) :
    (s.joinRings l old x.state).ringsFor full (withLine V l x) := by
  have unwanted (p : PositionId) : wantedRing (s.directory.get p) V p l = none :=
    wantedRing_none (by simp [idle]) (by simp [idle])
  have kept (p : PositionId) (e : RingEntry) (wanted : wantedRing (s.directory.get p) V p e.line = some e.kind)
      (fits : entryFits (s.directory.get p) V p e) : entryFits (s.directory.get p) (withLine V l x) p e := by
    refine withLine_fits_ne V _ ?_ fits
    intro line
    rw [line, unwanted] at wanted
    cases wanted
  have stay (p : PositionId) (none : wantedRing (s.directory.get p) (withLine V l x) p l = none) :
      QueueOk full (wantedRing (s.directory.get p) (withLine V l x) p) (entryFits (s.directory.get p) (withLine V l x) p)
        (s.position p).ringQueue := by
    refine (h p).congr (fun m => ?_) (kept p)
    by_cases e : m = l
    · subst e
      rw [none, unwanted]
    · exact withLine_wanted_ne V _ e _ p
  have join (p : PositionId) (k : Key) (kind : RingKind) (here : wantedRing (s.directory.get p) (withLine V l x) p l = some kind)
      (new : entryFits (s.directory.get p) (withLine V l x) p ⟨l, k, kind, x.cls⟩) :
      QueueOk full (wantedRing (s.directory.get p) (withLine V l x) p) (entryFits (s.directory.get p) (withLine V l x) p)
        ((s.position p).joinRing s.clock ⟨l, k, kind, x.cls⟩).ringQueue := by
    rw [Position.joinRing, requeue_ringQueue]
    exact (h p).joined here (fun m e => withLine_wanted_ne V _ e _ p) (fun y _ => kept p y) fun _ => new
  unfold State.joinRings
  rw [if_neg ne]
  split
  · next state =>
    intro p
    simp only [State.addRing, State.position, Table.get_ofFn]
    cases lowest : lowestRingKey (s.directory.get p) l with
    | none => exact stay p (by simp [wantedRing, state, lowest])
    | some k =>
      dsimp only
      have lineIs : (s.line l).cls = x.cls := by rw [line]
      rw [lineIs]
      refine join p k .ring (wantedRing_ring.2 ⟨by simpa using state, by simp [lowest]⟩) ?_
      exact ⟨by simp, fun _ => lowest, by simp⟩
  · next state =>
    unfold State.addRecall
    rw [line]
    split
    · next o owner =>
      intro p
      by_cases e : p = o.position
      · subst e
        rw [State.setPosition_position]
        refine join o.position o.key .recall (wantedRing_recall.2 ⟨by simpa using state, o.key, by simpa using owner⟩) ?_
        exact ⟨by simp, by simp, fun _ => by simpa using owner⟩
      · rw [State.setPosition_position_ne _ _ e]
        refine stay p ?_
        simp only [wantedRing, withLine_self, state, Line.heldBy, owner]
        simp [Ne.symm e]
    · next none =>
      exact fun p => stay p (by simp [wantedRing, state, Line.heldBy, none])
  all_goals
    next state => exact fun p => stay p (wantedRing_none (by simp [state]) (by simp [state]))

end Sys2Proof.Machine
end

section
/-! PROOFS. The ring queues through the moves of lines, the changes of the directory, and every transaction. -/

namespace Sys2Proof.Machine

-- One theorem after another: side by side they hold the memory of too many stacks.
set_option Elab.async false

variable {full : Prop} {s t : State} {V : LineId → Line}

theorem withLine_withLine (V : LineId → Line) (l : LineId) (x y : Line) : withLine (withLine V l x) l y = withLine V l y := by
  funext m
  by_cases e : m = l
  · subst e; simp
  · simp [withLine_ne, e]

theorem withLine_same {V : LineId → Line} {l : LineId} {x : Line} (same : SameRing (V l) x) (m : LineId) :
    SameRing (V m) (withLine V l x m) := by
  by_cases e : m = l
  · subst e; simpa using same
  · rw [withLine_ne V x e]; exact .refl _

/-- A move that keeps the state of the line hands nothing to the ring queues. -/
theorem moveLine_positions_of_state {l : LineId} {x : Line} (state : x.state = (s.line l).state) :
    (s.moveLine l x).positions = s.positions := by
  unfold State.moveLine State.leaveRings State.joinRings State.raiseLineState
  simp only [state, if_true]
  split <;> rfl

/-- The ring queues follow a move of a line (R7). -/
theorem State.ringsFor.moveLine (h : s.ringsFor full V) {l : LineId} (here : (s.line l).state = (V l).state) {x : Line}
    (same : x.state = (V l).state → SameRing (V l) x) : (s.moveLine l x).ringsFor full (withLine V l x) := by
  by_cases state : x.state = (V l).state
  · refine h.congr (moveLine_frame s l x .directory (by decide)) (fun p => ?_) (withLine_same (same state))
    simp [State.position, moveLine_positions_of_state (s := s) (state.trans here.symm)]
  have left := State.ringsFor.leaveRings (h.of_parts (setLine_frame s l x)) l (new := x.state) fun e => state e.symm
  have line : (((s.setLine l x).leaveRings l (V l).state x.state).raiseLineState l (V l).state x.state).line l = x := by
    rw [lines_of_frame (raiseLineState_frame _ _ _ _), lines_of_frame (leaveRings_frame _ _ _ _), State.setLine_line]
  have joined := (left.of_parts (raiseLineState_frame _ l (V l).state x.state)).joinRings (by simp) line
    (old := (V l).state) fun e => state e.symm
  rw [withLine_withLine] at joined
  unfold State.moveLine
  dsimp only
  rw [here]
  split
  · exact joined.of_parts (offer_frame _ l)
  · exact joined

/-! ### Directory changes -/

/-- The queue of `p` while the lines of `todo` still stand by its old entries. -/
def QueueBetween (full : Prop) (old new : Table 64 Entry) (todo : List LineId) (V : LineId → Line) (p : PositionId)
    (q : List RingEntry) : Prop :=
  QueueOk full (fun l => if l ∈ todo then wantedRing old V p l else wantedRing new V p l)
    (fun e => if e.line ∈ todo then entryFits old V p e else entryFits new V p e) q

/-- What the entries do not decide: a line that is not RINGING wants the same under any entries. -/
theorem wantedRing_entries {V : LineId → Line} {l : LineId} (state : (V l).state ≠ .ringing) (old new : Table 64 Entry)
    (p : PositionId) : wantedRing new V p l = wantedRing old V p l := by
  unfold wantedRing
  split <;> simp_all

theorem entryFits_entries {V : LineId → Line} {old new : Table 64 Entry} {p : PositionId} {e : RingEntry}
    (wanted : wantedRing old V p e.line = some e.kind)
    (same : (V e.line).state = .ringing → lowestRingKey new e.line = lowestRingKey old e.line)
    (fits : entryFits old V p e) : entryFits new V p e := by
  obtain ⟨cls, ring, recalled⟩ := fits
  refine ⟨cls, fun kind => ?_, recalled⟩
  rw [kind, wantedRing_ring] at wanted
  rw [same wanted.1]
  exact ring kind

/-- One line is handed over: its RING entry at `p` follows its lowest ring-enabled key (R52). -/
theorem QueueBetween.updateRing {old : Table 64 Entry} {p : PositionId} {l : LineId} {todo : List LineId}
    (h : QueueBetween full old (s.directory.get p) (l :: todo) V p (s.position p).ringQueue) (fresh : l ∉ todo)
    (state : (s.line l).state = (V l).state) (cls : (s.line l).cls = (V l).cls) :
    QueueBetween full old (s.directory.get p) todo V p ((s.updateRing p old l).position p).ringQueue := by
  have others (m : LineId) (e : m ≠ l) : (m ∈ todo) = (m ∈ l :: todo) := by simp [e]
  have otherWanted (m : LineId) (e : m ≠ l) :
      (if m ∈ todo then wantedRing old V p m else wantedRing (s.directory.get p) V p m) =
        if m ∈ l :: todo then wantedRing old V p m else wantedRing (s.directory.get p) V p m := by
    simp only [others m e]
  have otherFits (y : RingEntry) (e : y.line ≠ l)
      (fits : if y.line ∈ l :: todo then entryFits old V p y else entryFits (s.directory.get p) V p y) :
      if y.line ∈ todo then entryFits old V p y else entryFits (s.directory.get p) V p y := by
    simpa only [others y.line e] using fits
  have unchanged (wanted : wantedRing (s.directory.get p) V p l = wantedRing old V p l)
      (same : (V l).state = .ringing → lowestRingKey (s.directory.get p) l = lowestRingKey old l) :
      QueueBetween full old (s.directory.get p) todo V p (s.position p).ringQueue := by
    refine QueueOk.congr h (fun m => ?_) fun y hy fits => ?_
    · by_cases e : m = l
      · subst e; simp [fresh, wanted]
      · exact otherWanted m e
    · by_cases e : y.line = l
      · simp only [e, List.mem_cons_self, if_true] at hy fits
        simp only [e, fresh, if_false]
        exact entryFits_entries (by rw [e]; exact hy) (by rw [e]; exact same) fits
      · exact otherFits y e fits
  by_cases ringing : (s.line l).state = .ringing
  case neg =>
    rw [State.updateRing, if_neg ringing]
    rw [state] at ringing
    exact unchanged (wantedRing_entries ringing _ _ p) fun e => absurd e ringing
  have ringing' : (V l).state = .ringing := state ▸ ringing
  rw [State.updateRing, if_pos ringing]
  have joinQueue (k : Key) : ((s.setPosition p ((s.position p).joinRing s.clock ⟨l, k, .ring, (s.line l).cls⟩)).position
      p).ringQueue = insertByClass RingEntry.cls ⟨l, k, .ring, (s.line l).cls⟩
        ((s.position p).ringQueue.filter fun y => decide (y.line ≠ l)) := by
    rw [State.setPosition_position, Position.joinRing, requeue_ringQueue]
  cases before : lowestRingKey old l with
  | none =>
    cases after : lowestRingKey (s.directory.get p) l with
    | none =>
      exact unchanged (by simp [wantedRing, ringing', before, after]) fun _ => by rw [before, after]
    | some k =>
      dsimp only
      rw [joinQueue]
      refine QueueOk.joined h (e := ⟨l, k, .ring, (s.line l).cls⟩) ?_ otherWanted (fun y e _ => otherFits y e) fun _ => ?_
      · simp [fresh, wantedRing, ringing', after]
      · simp only [fresh, if_false]
        exact ⟨cls, fun _ => after, by simp⟩
  | some k =>
    cases after : lowestRingKey (s.directory.get p) l with
    | none =>
      dsimp only
      rw [State.setPosition_position, Position.dropRing, requeue_ringQueue,
        QueueOk.drop_eq h (l := l) (kind := .ring) (by simp [wantedRing, ringing', before])]
      refine QueueOk.left h (l := l) ?_ otherWanted fun y e _ => otherFits y e
      simp [fresh, wantedRing, ringing', after]
    | some k' =>
      dsimp only
      have wanted : wantedRing (s.directory.get p) V p l = wantedRing old V p l := by
        simp [wantedRing, ringing', before, after]
      split
      · next e => exact unchanged wanted fun _ => by rw [before, after, e]
      · rw [State.setPosition_position, Position.rekeyRing, requeue_ringQueue]
        refine QueueOk.rekeyed h (l := l) (k := k') (fun m => ?_) (fun y miss hy fits => ?_) fun y line kind fits => ?_
        · by_cases e : m = l
          · subst e; simp [fresh, wanted]
          · exact otherWanted m e
        · by_cases e : y.line = l
          · simp only [e, List.mem_cons_self, if_true] at hy
            have : y.kind = .ring := by
              rw [wantedRing, ringing'] at hy
              simp only [before, Option.isSome_some, if_true, Option.some_inj] at hy
              exact hy.symm
            exact absurd ⟨e, this⟩ miss
          · exact otherFits y e fits
        · simp only [line, List.mem_cons_self, if_true] at fits
          simp only [line, fresh, if_false]
          exact ⟨line ▸ fits.1, fun _ => after, fun recalled => by simp [kind] at recalled⟩

theorem updateRing_other (p q : PositionId) (old : Table 64 Entry) (l : LineId) (e : q ≠ p) :
    (s.updateRing p old l).position q = s.position q := by
  unfold State.updateRing
  repeat' split
  all_goals simp [e]

/-- The ring queues follow a change of the entries of `p` (R52): before it they stood by the old entries. -/
theorem directoryChanged_ringsFor {p : PositionId} {old : Table 64 Entry}
    (others : ∀ q, q ≠ p → QueueOk full (wantedRing (s.directory.get q) V q) (entryFits (s.directory.get q) V q)
      (s.position q).ringQueue)
    (here : QueueOk full (wantedRing old V p) (entryFits old V p) (s.position p).ringQueue)
    (state : ∀ l, (s.line l).state = (V l).state) (cls : ∀ l, (s.line l).cls = (V l).cls) :
    (s.directoryChanged p old).ringsFor full V := by
  have walk (xs : List LineId) (nd : xs.Nodup) (u : State) (frame : SameExcept [.positions] s u)
      (rest : ∀ q, q ≠ p → u.position q = s.position q)
      (between : QueueBetween full old (s.directory.get p) xs V p (u.position p).ringQueue) :
      (xs.foldl (State.updateRing p old) u).ringsFor full V := by
    induction xs generalizing u with
    | nil =>
      intro q
      have directory : u.directory = s.directory := frame .directory (by decide)
      rw [List.foldl_nil, directory]
      by_cases e : q = p
      · subst e
        exact QueueOk.congr between (fun _ => by simp) fun _ _ => by simp
      · rw [rest q e]
        exact others q e
    | cons l xs ih =>
      obtain ⟨fresh, nd⟩ := List.nodup_cons.1 nd
      have directory : u.directory = s.directory := frame .directory (by decide)
      have line := lines_of_frame frame (by decide) l
      refine ih nd (u.updateRing p old l) (frame.trans (updateRing_frame u p old l)) (fun q e => ?_) ?_
      · rw [updateRing_other p q old l e, rest q e]
      · rw [← directory] at between ⊢
        exact between.updateRing fresh (by rw [line, state]) (by rw [line, cls])
  refine walk (ascending 160) (List.nodup_finRange 160) s (.refl _ s) (fun _ _ => rfl) ?_
  exact here.congr (fun l => by simp [ascending]) fun e _ fits => by simpa [ascending] using fits

/-- The ring queues stand by the view of the lines' present records in what a directory change reads. -/
structure ViewOf (s : State) (V : LineId → Line) : Prop where
  state : ∀ l, (s.line l).state = (V l).state
  cls : ∀ l, (s.line l).cls = (V l).cls

theorem ViewOf.refl (s : State) : ViewOf s s.line := ⟨fun _ => rfl, fun _ => rfl⟩

theorem ViewOf.of_frame {ch : List Part} (v : ViewOf s V) (frame : SameExcept ch s t)
    (hl : Part.lines ∉ ch := by decide) : ViewOf t V :=
  ⟨fun l => by rw [lines_of_frame frame hl]; exact v.state l, fun l => by rw [lines_of_frame frame hl]; exact v.cls l⟩

theorem State.ringsFor.directoryChanged (h : s.ringsFor full V) (v : ViewOf s V) {p : PositionId} (u : State)
    (lines : u.lines = s.lines) (positions : u.positions = s.positions)
    (others : ∀ q, q ≠ p → u.directory.get q = s.directory.get q) :
    (u.directoryChanged p (s.directory.get p)).ringsFor full V := by
  have line (l : LineId) : u.line l = s.line l := by simp [State.line, lines]
  have position (q : PositionId) : u.position q = s.position q := by simp [State.position, positions]
  refine directoryChanged_ringsFor (fun q e => ?_) ?_ (fun l => by rw [line]; exact v.state l)
    fun l => by rw [line]; exact v.cls l
  · rw [others q e, position]
    exact h q
  · rw [position]
    exact h p

theorem State.ringsFor.reportEnd (h : s.ringsFor full V) (v : ViewOf s V) (p : PositionId) (k : Key) :
    (s.reportEnd p k).ringsFor full V := by
  unfold State.reportEnd
  split
  · exact h
  · split
    · next c _ =>
      have changed := h.directoryChanged v (p := p) (s.setEntry p k ⟨c, none⟩) rfl rfl fun q e => by simp [State.setEntry, e]
      exact changed.of_parts (raise_frame _ _)
    · exact h

theorem State.ringsFor.reportSlot (h : s.ringsFor full V) (v : ViewOf s V) (p : PositionId) (old : Option Held) :
    (s.reportSlot p old).ringsFor full V := by
  unfold State.reportSlot
  split
  · exact h.reportEnd v p _
  · exact h

theorem State.ringsFor.reportOwner (h : s.ringsFor full V) (v : ViewOf s V) (o : Option KeyRef) :
    (s.reportOwner o).ringsFor full V := by
  unfold State.reportOwner
  split
  · exact h.reportEnd v _ _
  · exact h

/-! ### The view of the present records -/

/-- Every ring queue is as the lines want it. -/
def State.ringsOk (s : State) (full : Prop) : Prop := s.ringsFor full s.line

theorem State.ringsOk.congr (h : s.ringsOk full) (directory : t.directory = s.directory)
    (queues : ∀ p, (t.position p).ringQueue = (s.position p).ringQueue) (same : ∀ l, SameRing (s.line l) (t.line l)) :
    t.ringsOk full := State.ringsFor.congr h directory queues same

theorem State.ringsOk.of_parts {ch : List Part} (h : s.ringsOk full) (frame : SameExcept ch s t)
    (hd : Part.directory ∉ ch := by decide) (hp : Part.positions ∉ ch := by decide)
    (hl : Part.lines ∉ ch := by decide) : t.ringsOk full := by
  have positions : t.positions = s.positions := frame .positions hp
  exact h.congr (frame .directory hd) (fun p => by simp [State.position, positions])
    fun l => by rw [lines_of_frame frame hl]; exact .refl _

theorem State.ringsOk.moveLine (h : s.ringsOk full) {l : LineId} {x : Line}
    (same : x.state = (s.line l).state → SameRing (s.line l) x) : (s.moveLine l x).ringsOk full := by
  have view : withLine s.line l x = (s.moveLine l x).line := by
    funext m
    by_cases e : m = l
    · subst e; simp
    · rw [withLine_ne _ _ e, moveLine_line_ne s x e]
  have moved := State.ringsFor.moveLine h rfl same
  rwa [view] at moved

/-- A move that keeps owner and class. -/
theorem State.ringsOk.moveLine_same (h : s.ringsOk full) {l : LineId} {x : Line}
    (owner : x.holdOwner = (s.line l).holdOwner) (cls : x.cls = (s.line l).cls) : (s.moveLine l x).ringsOk full :=
  h.moveLine fun state => .of _ _ state owner cls

theorem State.ringsOk.setLine (h : s.ringsOk full) {l : LineId} {x : Line} (same : SameRing (s.line l) x) :
    (s.setLine l x).ringsOk full := by
  refine h.congr rfl (fun _ => rfl) fun m => ?_
  by_cases e : m = l
  · subst e; simpa using same
  · rw [State.setLine_line_ne _ _ e]; exact .refl _

theorem State.ringsOk.setSlot (h : s.ringsOk full) (p : PositionId) (hs : Handset) (new : Option Held) :
    (s.setSlot p hs new).ringsOk full := by
  refine h.congr rfl (fun q => ?_) fun _ => .refl _
  by_cases e : q = p
  · subst e; cases hs <;> simp [State.setSlot, State.position, Position.setHandset]
  · simp [State.setSlot, State.position, e]

theorem State.ringsOk.viewed {V : LineId → Line} (h : s.ringsFor full V) (view : V = s.line) : s.ringsOk full := by
  rwa [State.ringsOk, ← view]

theorem State.ringsOk.reportEnd (h : s.ringsOk full) (p : PositionId) (k : Key) : (s.reportEnd p k).ringsOk full :=
  .viewed (State.ringsFor.reportEnd h (.refl s) p k) (funext fun _ => (lines_of_frame (reportEnd_frame s p k) (by decide) _).symm)

theorem State.ringsOk.reportSlot (h : s.ringsOk full) (p : PositionId) (old : Option Held) :
    (s.reportSlot p old).ringsOk full :=
  .viewed (State.ringsFor.reportSlot h (.refl s) p old)
    (funext fun _ => (lines_of_frame (reportSlot_frame s p old) (by decide) _).symm)

theorem State.ringsOk.reportOwner (h : s.ringsOk full) (o : Option KeyRef) : (s.reportOwner o).ringsOk full :=
  .viewed (State.ringsFor.reportOwner h (.refl s) o)
    (funext fun _ => (lines_of_frame (reportOwner_frame s o) (by decide) _).symm)

/-! ### Operations -/

theorem afterTake_cls (x : Line) (timer : Option LineTimer) (t : Take) : (x.afterTake timer t).cls = x.cls := by
  unfold Line.afterTake
  repeat' split
  all_goals rfl

/-- Of a RECALL line no take keeps the state, so a kept state keeps the owner that matters. -/
theorem afterTake_sameRing (x : Line) (timer : Option LineTimer) (t : Take)
    (state : (x.afterTake timer t).state = x.state) : SameRing x (x.afterTake timer t) := by
  refine ⟨state, fun e => ?_, fun _ => afterTake_cls x timer t⟩
  simp [Line.afterTake, e] at state

theorem State.ringsOk.take (h : s.ringsOk full) (l : LineId) (t : Take) : (s.take l t).1.ringsOk full := by
  by_cases judged : judgeTake (s.line l) t = .ok
  · rw [take_ok s judged]
    exact h.moveLine (afterTake_sameRing _ _ _)
  · rwa [take_refused_state judged]

theorem afterLeave_cls (x : Line) (timer : Option LineTimer) (p : PositionId) (path : Path) :
    (x.afterLeave timer p path).cls = x.cls := by
  unfold Line.afterLeave
  dsimp only
  split <;> rfl

theorem State.ringsOk.leave (h : s.ringsOk full) (l : LineId) (p : PositionId) (path : Path) :
    (s.leave l p path).1.ringsOk full := by
  unfold State.leave
  split
  · exact h
  · exact h.moveLine_same (Line.afterLeave_holdOwner _ _ _ _) (afterLeave_cls _ _ _ _)

theorem State.ringsOk.hold (h : s.ringsOk full) (l : LineId) (p : PositionId) (hs : Handset) :
    (s.hold l p hs).1.ringsOk full := by
  unfold State.hold
  split
  · exact h
  · split
    · refine h.moveLine fun state => ⟨state, fun e => ?_, fun _ => rfl⟩
      rw [e] at state
      cases state
    · exact h.leave l p _

theorem State.ringsOk.talkRelease (h : s.ringsOk full) (g : GroupId) (p : PositionId) (src : Path) :
    (s.talkRelease g p src).1.ringsOk full := h.of_parts (talkRelease_frame s g p src)

theorem State.ringsOk.replaceSlot (h : s.ringsOk full) (p : PositionId) (hs : Handset) (old : Option Held) (new : Held) :
    (s.replaceSlot p hs old new).ringsOk full := by
  have away : (s.switchAway p hs old).ringsOk full := by
    unfold State.switchAway
    split
    · exact h
    · exact h.talkRelease _ p _
    · split
      · exact h.hold _ p hs
      · exact h.leave _ p _
  exact (away.setSlot p hs _).reportSlot p old

theorem State.ringsOk.releaseSlot (h : s.ringsOk full) (p : PositionId) (hs : Handset) :
    (s.releaseSlot p hs).1.ringsOk full := by
  unfold State.releaseSlot
  split
  · exact h
  · exact ((h.leave _ p _).setSlot p hs _).reportEnd p _
  · exact ((h.talkRelease _ p _).setSlot p hs _).reportEnd p _

theorem State.ringsOk.setChannel (h : s.ringsOk full) (p : PositionId) (n : ChannelId) (x : Channel) :
    (s.setChannel p n x).ringsOk full := h.of_parts (setChannel_frame s p n x)

theorem State.ringsOk.sendTake (h : s.ringsOk full) (p : PositionId) (n : ChannelId) :
    (State.sendTake p s n).ringsOk full := by
  unfold State.sendTake
  dsimp only
  split
  · next l _ =>
    split
    · have taken := h.take l (speakerTake p n (s.channel p n).talkback)
      split <;> rename_i heq
      · rw [heq] at taken
        exact taken.setChannel p n _
      · exact h.setChannel p n _
    · exact h
  all_goals exact h

theorem State.ringsOk.planChannel (h : s.ringsOk full) (p : PositionId) (n : ChannelId) :
    (State.planChannel p s n).ringsOk full := by
  have down : (s.takeDown p n).ringsOk full := by
    unfold State.takeDown
    dsimp only
    repeat' split
    · exact h.leave _ p _
    · exact h
    · exact h.talkRelease _ p _
    · exact h
    · exact h
  have updated (v : Bool) : (s.talkbackUpdate p n v).ringsOk full := by
    unfold State.talkbackUpdate
    dsimp only
    repeat' split
    · exact h.setLine (.of _ _ rfl rfl rfl)
    all_goals exact h
  unfold State.planChannel
  dsimp only
  split
  · exact (updated _).setChannel p n _
  · exact down.setChannel p n _

theorem State.ringsOk.attachPhase (h : s.ringsOk full) (p : PositionId) (n : ChannelId) :
    (State.attachPhase p s n).ringsOk full := by
  unfold State.attachPhase
  dsimp only
  repeat' split
  · exact h
  · exact (h.setChannel p n _).sendTake p n
  all_goals exact h.setChannel p n _

theorem State.ringsOk.installPlan (h : s.ringsOk full) (p : PositionId) (old new : Nat) :
    (s.installPlan p old new).ringsOk full := by
  have planned := foldl_keeps (P := fun s => s.ringsOk full) (fun s n h => h.planChannel p n) (ascending 8) h
  have attached := foldl_keeps (P := fun s => s.ringsOk full) (fun s n h => h.attachPhase p n) (ascending 8) planned
  unfold State.installPlan
  dsimp only
  generalize (ascending 8).foldl (State.attachPhase p) ((ascending 8).foldl (State.planChannel p) s) = u at attached ⊢
  exact attached.congr rfl (fun _ => rfl) fun _ => .refl _

theorem State.ringsOk.channelLinkLoss (h : s.ringsOk full) (p : PositionId) (n : ChannelId) :
    (State.channelLinkLoss p s n).ringsOk full := by
  unfold State.channelLinkLoss
  dsimp only
  repeat' split
  · exact (h.leave _ p _).setChannel p n _
  · exact h.setChannel p n _
  · exact (h.talkRelease _ p _).setChannel p n _
  all_goals exact h.setChannel p n _

theorem State.ringsOk.partyRemoved (h : s.ringsOk full) (r : ResultCode) (y : Party) :
    (State.partyRemoved r s y).ringsOk full := by
  unfold State.partyRemoved
  split
  · exact (h.setSlot y.position _ none).reportSlot y.position _
  · exact h.setChannel y.position _ _

/-- While the owner of a line is cleared and its binding end reported, the queues stand by the record with the owner; the
move that follows takes them to the new record. -/
theorem State.ringsOk.ownerCleared_moveLine (h : s.ringsOk full) {l : LineId} {x : Line}
    (moved : x.state = (s.line l).state → SameRing (s.line l) x) :
    (((s.setLine l { s.line l with holdOwner := none, privateHold := false }).reportOwner (s.line l).holdOwner).moveLine l
      x).ringsOk full := by
  have start : (s.setLine l { s.line l with holdOwner := none, privateHold := false }).ringsFor full s.line :=
    State.ringsFor.of_parts h (setLine_frame s l _)
  have view : ViewOf (s.setLine l { s.line l with holdOwner := none, privateHold := false }) s.line := by
    constructor <;> intro m
    · by_cases e : m = l
      · subst e; simp
      · simp [e]
    · by_cases e : m = l
      · subst e; simp
      · simp [e]
  have reported := start.reportOwner view (s.line l).holdOwner
  have line := ownerCleared_line s l
  have others (m : LineId) (e : m ≠ l) :
      ((s.setLine l { s.line l with holdOwner := none, privateHold := false }).reportOwner (s.line l).holdOwner).line m =
        s.line m := by
    rw [lines_of_frame (reportOwner_frame _ _), State.setLine_line_ne _ _ e]
  generalize (s.setLine l { s.line l with holdOwner := none, privateHold := false }).reportOwner (s.line l).holdOwner = u
    at reported line others ⊢
  refine .viewed (reported.moveLine (by rw [line]) moved) (funext fun m => ?_)
  by_cases e : m = l
  · subst e; simp
  · rw [withLine_ne _ _ e, moveLine_line_ne _ _ e, others m e]

theorem State.ringsOk.clearLine (h : s.ringsOk full) (l : LineId) {e : LineState} (r : ResultCode)
    (entered : e = .fault ∨ e = .outOfService) : (s.clearLine l e r).ringsOk full := by
  have partyless : (s.setLine l { s.line l with parties := [] }).ringsOk full := h.setLine (.of _ _ rfl rfl rfl)
  have removed := foldl_keeps (P := fun s => s.ringsOk full) (fun s y h => h.partyRemoved r y) (s.line l).parties partyless
  unfold State.clearLine
  dsimp only
  refine removed.ownerCleared_moveLine fun state => ?_
  rcases entered with rfl | rfl <;> exact ⟨state, fun a => by simp [a] at state, fun a => by simp [← state] at a⟩

theorem State.ringsOk.abandon (h : s.ringsOk full) (l : LineId)
    (onHold : (s.line l).state = .held ∨ (s.line l).state = .recall) : (s.abandon l).ringsOk full := by
  unfold State.abandon
  dsimp only
  have line := ownerCleared_line s l
  rw [line]
  refine State.ringsOk.of_parts (h.ownerCleared_moveLine fun state => ?_) (raise_frame _ _)
  rcases onHold with e | e <;> simp [Line.guarded, e] at state

theorem State.ringsFor.refileRing (h : s.ringsFor full V) {l : LineId} (others : ∀ m, m ≠ l → s.line m = V m)
    (state : (s.line l).state = (V l).state) (owner : (s.line l).holdOwner = (V l).holdOwner) :
    (s.refileRing l).ringsFor full s.line := by
  have otherKept (p : PositionId) (y : RingEntry) (e : y.line ≠ l) (fits : entryFits (s.directory.get p) V p y) :
      entryFits (s.directory.get p) s.line p y := by
    simpa only [entryFits, others _ e] using fits
  have sameWanted (p : PositionId) (m : LineId) :
      wantedRing (s.directory.get p) s.line p m = wantedRing (s.directory.get p) V p m := by
    by_cases e : m = l
    · subst e
      have held : (s.line m).heldBy p = (V m).heldBy p := by rw [Line.heldBy, Line.heldBy, owner]
      rw [wantedRing, wantedRing, state, held]
    · simp only [wantedRing, others m e]
  intro p
  have directory : (s.refileRing l).directory = s.directory := rfl
  rw [directory]
  have record : (s.refileRing l).position p = (s.position p).refile s.clock l (s.line l).cls := by
    simp only [State.refileRing, State.position, Table.get_map]
  rw [record, Position.refile]
  split
  · next e found =>
    have mem := List.mem_of_find?_eq_some found
    have line : e.line = l := by simpa using List.find?_some found
    subst line
    rw [requeue_ringQueue]
    have joined := (h p).joined (e := { e with cls := (s.line e.line).cls }) (want' := wantedRing (s.directory.get p) s.line p)
      (fits' := fun y => full → entryFits (s.directory.get p) s.line p y) ?_ (fun m _ => sameWanted p m)
      (fun y ne _ fits _ => otherKept p y ne fits) ?_
    · exact ⟨joined.once, joined.ordered, joined.holds, fun a y hy => joined.fits a y hy a⟩
    · rw [sameWanted]
      exact QueueOk.wanted (h p) (e := e) mem
    · intro a _
      obtain ⟨-, ring, recalled⟩ := (h p).fits a e mem
      exact ⟨rfl, ring, fun kind => owner.trans (recalled kind)⟩
  · next absent =>
    refine (h p).congr (sameWanted p) fun y wanted fits => otherKept p y ?_ fits
    obtain ⟨z, hz, zl, -⟩ := ((h p).holds y.line y.kind).2 wanted
    rw [List.find?_eq_none] at absent
    rw [← zl]
    simpa using absent z hz

theorem State.ringsOk.configureLine (h : s.ringsOk full) (l : LineId) (k : LineClass) (b : BargePolicy) (r : Ringdown) :
    (s.configureLine l k b r).ringsOk full := by
  unfold State.configureLine
  dsimp only
  split
  · have positions : (s.moveLine l { s.line l with cls := k, barge := b, ringdown := r }).positions = s.positions :=
      moveLine_positions_of_state rfl
    have directory := moveLine_frame s l { s.line l with cls := k, barge := b, ringdown := r } .directory (by decide)
    have kept : (s.moveLine l { s.line l with cls := k, barge := b, ringdown := r }).ringsFor full s.line :=
      State.ringsFor.congr h directory (fun p => by simp [State.position, positions]) fun _ => .refl _
    refine .viewed (kept.refileRing (l := l) (fun m e => moveLine_line_ne s _ e) ?_ ?_) ?_
    · rw [moveLine_line]
    · rw [moveLine_line]
    · exact funext fun m => (lines_of_frame (refileRing_frame _ l) (by decide) m).symm
  · next still =>
    refine h.moveLine fun state => ⟨state, fun _ => rfl, fun ringing => ?_⟩
    have : (s.line l).cls = k := by
      by_contra ne
      rcases ringing with e | e <;> simp [ne, e] at still
    exact this.symm

theorem commitSlot_directory_ne (b : Staging) (page : Fin 128) (acc : State × CommitCounts) (i : Fin 16) {q : PositionId}
    (e : q ≠ pagePosition page) : (commitSlot b page acc i).1.directory.get q = acc.1.directory.get q := by
  unfold commitSlot State.commitEntry
  dsimp only
  repeat' split
  all_goals simp [State.setEntry, e]

theorem foldl_commitSlot_directory_ne (b : Staging) (page : Fin 128) (xs : List (Fin 16)) (acc : State × CommitCounts)
    {q : PositionId} (e : q ≠ pagePosition page) :
    (xs.foldl (commitSlot b page) acc).1.directory.get q = acc.1.directory.get q := by
  induction xs generalizing acc with
  | nil => rfl
  | cons i xs ih => rw [List.foldl_cons, ih, commitSlot_directory_ne b page acc i e]

theorem State.ringsOk.applyPage (h : s.ringsOk full) (c : Port) (page : Fin 128) : (s.applyPage c page).1.ringsOk full := by
  refine .viewed ?_ (funext fun m => (lines_of_frame (applyPage_frame s c page) (by decide) m).symm)
  have frame := foldl_commitSlot_frame (s.stagingOf c) page (ascending 16) (s, ⟨0, 0, 0⟩)
  have others {q : PositionId} (e : q ≠ pagePosition page) :=
    foldl_commitSlot_directory_ne (s.stagingOf c) page (ascending 16) (s, ⟨0, 0, 0⟩) e
  unfold State.applyPage
  dsimp only
  generalize (ascending 16).foldl (commitSlot (s.stagingOf c) page) (s, ⟨0, 0, 0⟩) = u at frame others ⊢
  exact State.ringsFor.directoryChanged h (.refl s) (u.1.setStaging c Staging.emptied) (frame .lines (by decide))
    (frame .positions (by decide)) fun q e => others e

theorem State.ringsOk.wipe (h : s.ringsOk full) (p : PositionId) : (s.wipe p).ringsOk full := by
  refine .viewed ?_ (funext fun m => (lines_of_frame (wipe_frame s p) (by decide) m).symm)
  unfold State.wipe
  dsimp only
  exact State.ringsFor.directoryChanged h (.refl s) _ rfl rfl fun q e => by simp [e]

/-! ### Every transaction and every step -/

theorem Moves.ringsOk {s t : State} (m : Moves s t) (h : s.ringsOk full) : t.ringsOk full := by
  cases m with
  | aside frame => exact h.of_parts frame
  | posted frame core =>
    exact h.congr (frame .directory (by decide)) (fun p => (core p).ringQueue)
      fun l => by rw [lines_of_frame frame]; exact .refl _
  | spoken p x _ _ => exact h.of_parts (setSpeaker_frame s p x)
  | keyed p n x _ _ _ => exact h.setChannel p n x
  | grouped g x _ => exact h.of_parts (setGroup_frame s g x)
  | touched l x core state => exact h.setLine (.of _ _ state core.holdOwner core.cls)
  | moved l x core => exact h.moveLine_same core.holdOwner core.cls
  | configured l k b r => exact h.configureLine l k b r
  | seated p hs l k o _ => exact ((h.take l _).replaceSlot p hs _ _).reportOwner _
  | joined p hs g k => exact h.replaceSlot p hs _ _
  | released p hs => exact h.releaseSlot p hs
  | held p hs l k _ => exact ((h.hold l p hs).setSlot p hs none).reportEnd p k
  | dropped g p hs =>
    unfold State.dropGroupSlot
    split
    · exact (h.setSlot p hs none).reportSlot p _
    · exact h
  | attached p n => exact h.sendTake p n
  | planned p old new => exact h.installPlan p old new
  | detached p n => exact h.channelLinkLoss p n
  | cleared l e r entered => exact h.clearLine l r entered
  | abandoned l onHold => exact h.abandon l onHold
  | committed c page => exact h.applyPage c page
  | wiped p _ => exact h.wipe p

theorem powerOn_ringsOk (q m : Bool) (pending : List Instr) :
    State.ringsOk { State.powerOn q m with pending := pending } full := by
  intro p
  rw [powerOn_position]
  refine ⟨List.nodup_nil, List.Pairwise.nil, fun l kind => ?_, fun _ e he => absurd he List.not_mem_nil⟩
  have idle : (State.line { State.powerOn q m with pending := pending } l).state = .idle := by rw [powerOn_line]; rfl
  rw [wantedRing_none (by simp [idle]) (by simp [idle])]
  simp [Position.powerOn]

theorem step_ringsOk (h : s.ringsOk full) (stepped : step s = .next t) : t.ringsOk full :=
  step_keeps (P := fun s => s.ringsOk full) powerOn_ringsOk (fun _ _ m h => m.ringsOk h) h stepped

/-- Settles O9: the ring queues are empty after power-on, and every transaction keeps them exact, without the fields of the
entries and with them. -/
theorem stepKeepsRingQueues : Obligations.StepKeepsRingQueues := by
  refine ⟨fun s t _ h stepped => (ringsFor_iff t).1 (step_ringsOk ((ringsFor_iff s).2 h) stepped), ?_⟩
  intro s t _ h fields stepped
  exact ((ringsFor_full_iff t).1 (step_ringsOk ((ringsFor_full_iff s).2 ⟨h, fields⟩) stepped)).2

end Sys2Proof.Machine
end

section
/-! PROOFS. What an event does before its end: it writes neither link nor port, takes no time, and changes the notice queues
by raising notices alone. -/

namespace Sys2Proof.Machine

-- One theorem after another: side by side they hold the memory of too many stacks.
set_option Elab.async false

/-- No link and no port was written, no time passed, and the notice queues changed by raised notices alone. -/
structure Works (s t : State) : Prop where
  links : t.links = s.links
  ports : t.ports = s.ports
  guards : t.guards = s.guards
  told : Told s t

variable (s : State)

theorem Works.refl : Works s s := ⟨rfl, rfl, rfl, .refl s⟩

variable {s}

theorem Works.trans {t u : State} (h : Works s t) (k : Works t u) : Works s u :=
  ⟨k.links.trans h.links, k.ports.trans h.ports, k.guards.trans h.guards, h.told.trans k.told⟩

theorem Works.of_told {ch : List Part} {t : State} (frame : SameExcept ch s t) (told : Told s t)
    (links : Part.links ∉ ch := by decide) (ports : Part.ports ∉ ch := by decide)
    (guards : Part.guards ∉ ch := by decide) : Works s t :=
  ⟨frame .links links, frame .ports ports, frame .guards guards, told⟩

theorem Works.of_frame {ch : List Part} {t : State} (frame : SameExcept ch s t) (links : Part.links ∉ ch := by decide)
    (ports : Part.ports ∉ ch := by decide) (guards : Part.guards ∉ ch := by decide)
    (notices : Part.notices ∉ ch := by decide) (clock : Part.clock ∉ ch := by decide) : Works s t :=
  ⟨frame .links links, frame .ports ports, frame .guards guards, .of_frame frame notices clock⟩

theorem Works.foldl {α : Type} {f : State → α → State} (h : ∀ s a, Works s (f s a)) (xs : List α) (s : State) :
    Works s (xs.foldl f s) := by
  induction xs generalizing s with
  | nil => exact .refl s
  | cons x xs ih => exact (h s x).trans (ih (f s x))

/-- What comes after a frame that leaves links, ports, notices and clock. -/
theorem Works.then_frame {ch : List Part} {t u : State} (h : Works s t) (frame : SameExcept ch t u)
    (links : Part.links ∉ ch := by decide) (ports : Part.ports ∉ ch := by decide)
    (guards : Part.guards ∉ ch := by decide) (notices : Part.notices ∉ ch := by decide)
    (clock : Part.clock ∉ ch := by decide) : Works s u :=
  h.trans (.of_frame frame links ports guards notices clock)

variable (s)

/-! ### Lines -/

theorem raise_works (b : NoticeBody) : Works s (s.raise b) := .of_told (raise_frame s b) (raise_told s b)

theorem foldl_raise_works (bs : List NoticeBody) : Works s (bs.foldl State.raise s) := .foldl raise_works bs s

theorem moveLine_works (l : LineId) (x : Line) : Works s (s.moveLine l x) :=
  .of_told (moveLine_frame s l x) (moveLine_told s l x)

theorem reportSlot_works (p : PositionId) (old : Option Held) : Works s (s.reportSlot p old) :=
  .of_told (reportSlot_frame s p old) (reportSlot_told s p old)

theorem reportOwner_works (o : Option KeyRef) : Works s (s.reportOwner o) :=
  .of_told (reportOwner_frame s o) (reportOwner_told s o)

theorem leave_works (l : LineId) (p : PositionId) (x : Path) : Works s (s.leave l p x).1 :=
  .of_told (leave_frame s l p x) (leave_told s l p x)

theorem privacyRequest_works (l : LineId) (p : PositionId) (h : Handset) : Works s (s.privacyRequest l p h).1 := by
  unfold State.privacyRequest
  split
  · exact moveLine_works s _ _
  · split <;> exact .refl s

theorem reRing_works (l : LineId) (p : PositionId) (h : Handset) : Works s (s.reRing l p h).1 := by
  unfold State.reRing
  split
  · exact .refl s
  split
  · exact moveLine_works s _ _
  · split
    · exact moveLine_works s _ _
    · exact .refl s
  all_goals exact .refl s

theorem abandon_works (l : LineId) : Works s (s.abandon l) := by
  unfold State.abandon
  exact (((Works.of_frame (setLine_frame s _ _)).trans (reportOwner_works _ _)).trans (moveLine_works _ _ _)).trans
    (raise_works _ _)

theorem partyRemoved_works (r : ResultCode) (x : Party) : Works s (State.partyRemoved r s x) := by
  unfold State.partyRemoved
  split
  · exact (Works.of_frame (setSlot_frame s _ _ _)).trans (reportSlot_works _ _ _)
  · exact .of_frame (setChannel_frame s _ _ _)

theorem clearLine_works (l : LineId) (e : LineState) (r : ResultCode) : Works s (s.clearLine l e r) := by
  unfold State.clearLine
  refine Works.trans ?_ (moveLine_works _ _ _)
  refine Works.trans ?_ (reportOwner_works _ _)
  refine Works.then_frame ?_ (setLine_frame _ _ _)
  exact (Works.of_frame (setLine_frame s _ _)).trans (.foldl (fun s x => partyRemoved_works s r x) _ _)

theorem configureLine_works (l : LineId) (k : LineClass) (b : BargePolicy) (r : Ringdown) :
    Works s (s.configureLine l k b r) := by
  unfold State.configureLine
  dsimp only
  split
  · exact (moveLine_works s _ _).then_frame (refileRing_frame _ _)
  · exact moveLine_works s _ _

theorem serviceLine_works (l : LineId) (d : ServiceDirection) : Works s (s.serviceLine l d).1 := by
  unfold State.serviceLine
  dsimp only
  split
  case h_10 =>
    split
    · exact moveLine_works s _ _
    · exact moveLine_works s _ _
  case h_1 => exact .refl s
  case h_2 => exact clearLine_works s _ _ _
  case h_3 => exact clearLine_works s _ _ _
  case h_4 => exact clearLine_works s _ _ _
  case h_5 => exact clearLine_works s _ _ _
  case h_6 => exact clearLine_works s _ _ _
  case h_7 => exact clearLine_works s _ _ _
  case h_8 => exact clearLine_works s _ _ _
  case h_9 => exact clearLine_works s _ _ _
  all_goals exact .refl s

theorem enterRinging_works (l : LineId) (timer : Option LineTimer) : Works s (s.enterRinging l timer) :=
  (moveLine_works s _ _).trans (raise_works _ _)

theorem missedCall_works (l : LineId) : Works s (s.missedCall l) := (moveLine_works s _ _).trans (raise_works _ _)

theorem flChange_works (l : LineId) (v : Bool) : Works s (s.flChange l v) := by
  unfold State.flChange
  split
  · split
    · exact moveLine_works s _ _
    · exact .refl s
  · split
    · exact .refl s
    · exact raise_works s _
  · split
    · exact .refl s
    · exact abandon_works s l
  · split
    · exact .refl s
    · exact abandon_works s l
  all_goals exact .refl s

theorem rdChange_works (l : LineId) (v : Bool) : Works s (s.rdChange l v) := by
  unfold State.rdChange
  split
  · split
    · exact enterRinging_works s l _
    · exact .refl s
  · split
    · exact .refl s
    · exact missedCall_works s l
  · split
    · exact moveLine_works s _ _
    · exact .refl s
  · exact raise_works s _
  all_goals exact .refl s

theorem signalEvent_works (l : LineId) (now : Signals) : Works s (s.signalEvent l now) := by
  have recorded : Works s (s.setLine l { s.line l with signals := now }) := .of_frame (setLine_frame s _ _)
  unfold State.signalEvent
  dsimp only
  split
  · exact recorded.trans (clearLine_works _ _ _ _)
  split
  · exact recorded.trans (moveLine_works _ _ _)
  · have fl : ∀ u, Works s u → Works s (if (s.line l).signals.fl = now.fl then u else u.flChange l now.fl) := by
      intro u hu
      split
      · exact hu
      · exact hu.trans (flChange_works _ _ _)
    split
    · exact fl _ recorded
    · exact (fl _ recorded).trans (rdChange_works _ _ _)

/-! ### Groups -/

theorem grouped_raised_works (g : GroupId) (x : Group) (bs : List NoticeBody) :
    Works s (bs.foldl State.raise (s.setGroup g x)) :=
  (Works.of_frame (setGroup_frame s g x)).trans (foldl_raise_works _ bs)

theorem talkRequest_works (g : GroupId) (p : PositionId) (src : Path) : Works s (s.talkRequest g p src).1 := by
  unfold State.talkRequest
  dsimp only
  split
  · exact .refl s
  split
  · exact .refl s
  · split
    · exact .refl s
    split
    · exact (Works.of_frame (setGroup_frame s _ _)).trans (raise_works _ _)
    split
    · exact .of_frame (setGroup_frame s _ _)
    · exact .refl s

theorem talkRelease_works (g : GroupId) (p : PositionId) (src : Path) : Works s (s.talkRelease g p src).1 :=
  .of_told (talkRelease_frame s g p src) (talkRelease_told s g p src)

theorem removeEntries_works (p : PositionId) (g : GroupId) : Works s (State.removeEntries p s g) :=
  .of_told (removeEntries_frame s p g) (removeEntries_told s p g)

theorem handTimeout_works (p : PositionId) (src : Path) : Works s (s.handTimeout p src) := by
  unfold State.handTimeout State.setMustRelease
  split
  · exact .refl s
  · dsimp only
    split
    · exact .of_frame (setChannel_frame s _ _ _)
    · exact .refl s

theorem floorTimeout_works (g : GroupId) (p : PositionId) (src : Path) : Works s (s.floorTimeout g p src) := by
  unfold State.floorTimeout
  rw [grantHead_is]
  refine Works.trans ?_ (grouped_raised_works _ g _ _)
  refine Works.trans ?_ (handTimeout_works _ p src)
  exact (Works.of_frame (setGroup_frame s _ _)).trans (raise_works _ _)

theorem dropGroupSlot_works (g : GroupId) (p : PositionId) (h : Handset) : Works s (State.dropGroupSlot g p s h) := by
  unfold State.dropGroupSlot
  split
  · exact (Works.of_frame (setSlot_frame s _ _ _)).trans (reportSlot_works _ _ _)
  · exact .refl s

theorem removeMember_works (g : GroupId) (p : PositionId) : Works s (s.removeMember g p) := by
  unfold State.removeMember
  refine Works.trans ?_ (.foldl (fun t h => dropGroupSlot_works t g p h) _ _)
  exact (Works.of_frame (setGroup_frame s _ _)).trans (removeEntries_works _ _ _)

theorem termCount_frame (n : Nat) : SameExcept [.termCount] s { s with termCount := n } := by
  intro q hq
  cases q <;> first | rfl | simp at hq

theorem defineGroup_works (g : GroupId) (t f : Nat) : Works s (s.defineGroup g t f).1 := by
  have defined : Works s { s.setGroup g ⟨true, t, floorTaken f, [], [], []⟩ with termCount := s.termCount + t } :=
    (Works.of_frame (setGroup_frame s _ _)).then_frame (termCount_frame _ _)
  unfold State.defineGroup
  dsimp only
  repeat' split
  · exact .refl s
  · exact .refl s
  · exact defined
  · exact defined

/-! ### Attaching -/

theorem sendTake_works (p : PositionId) (n : ChannelId) : Works s (State.sendTake p s n) :=
  .of_told (sendTake_frame s p n) (sendTake_told s p n)

theorem offersCleared_works : Works s { s with offers := [] } := ⟨rfl, rfl, rfl, rfl, [], .refl s⟩

/-- The takes of the offered opportunities raise LINE_STATE notices at most. -/
theorem takeOffers_works : Works s s.takeOffers := by
  refine Works.trans (Works.trans (offersCleared_works s) (.foldl (fun t l => ?_) _ _)) (offersCleared_works _)
  refine .foldl (fun u p => .foldl (fun v n => ?_) _ u) _ t
  unfold State.attachOne
  split
  · exact sendTake_works v p n
  · exact .refl v

theorem linkUpTakes_works (p : PositionId) : Works s (s.linkUpTakes p) := by
  unfold State.linkUpTakes
  split
  · exact .foldl (fun t n => sendTake_works t p n) _ s
  · exact .refl s

theorem takeDown_works (p : PositionId) (n : ChannelId) : Works s (s.takeDown p n) := by
  unfold State.takeDown
  dsimp only
  split
  · split
    · exact leave_works s _ _ _
    · exact .refl s
  · split
    · exact talkRelease_works s _ _ _
    · exact .refl s
  · exact .refl s

theorem planChannel_works (p : PositionId) (n : ChannelId) : Works s (State.planChannel p s n) := by
  unfold State.planChannel
  dsimp only
  split
  · exact (Works.of_frame (talkbackUpdate_frame s _ _ _)).then_frame (setChannel_frame _ _ _ _)
  · exact (takeDown_works s _ _).then_frame (setChannel_frame _ _ _ _)

theorem attachPhase_works (p : PositionId) (n : ChannelId) : Works s (State.attachPhase p s n) := by
  have set (x : Channel) : Works s (s.setChannel p n x) := .of_frame (setChannel_frame s p n x)
  unfold State.attachPhase
  dsimp only
  split
  · split
    · exact .refl s
    split
    · exact (set _).trans (sendTake_works _ _ _)
    · exact set _
  · exact set _
  · exact set _

theorem installPlan_works (p : PositionId) (old new : Nat) : Works s (s.installPlan p old new) := by
  unfold State.installPlan
  refine Works.then_frame (Works.then_frame ?_ (termCount_frame _ _)) (setSpeaker_frame _ _ _)
  exact (Works.foldl (fun t n => planChannel_works t p n) _ s).trans (.foldl (fun t n => attachPhase_works t p n) _ _)

theorem mixApply_works (p : PositionId) : Works s (s.mixApply p).1 := by
  unfold State.mixApply
  dsimp only
  split
  · exact installPlan_works s _ _ _
  · exact .refl s

/-! ### Denials and keys -/

theorem denyKey_works (p : PositionId) (x : Option LampId) (r : ResultCode) (o : Origin) :
    Works s (s.denyKey p x r o) := by
  unfold State.denyKey
  dsimp only
  split
  · exact (raise_works s _).then_frame (setPosition_frame _ _ _)
  · exact raise_works s _

theorem replaceSlot_works (p : PositionId) (h : Handset) (old : Option Held) (new : Held) :
    Works s (s.replaceSlot p h old new) := .of_told (replaceSlot_frame s p h old new) (replaceSlot_told s p h old new)

theorem releaseSlot_works (p : PositionId) (h : Handset) : Works s (s.releaseSlot p h).1 :=
  .of_told (releaseSlot_frame s p h) (releaseSlot_told s p h)

theorem takeIntoSlot_works (p : PositionId) (h : Handset) (l : LineId) (k : Key) (o : Origin) :
    Works s (s.takeIntoSlot p h l k o).1 := by
  unfold State.takeIntoSlot
  dsimp only
  split
  · dsimp only; exact denyKey_works s _ _ _ _
  · have taken : Works s (s.take l (s.handsetTake p h k o)).1 := .of_told (take_frame s _ _) (take_told s _ _)
    split <;> rename_i e
    · rw [e] at taken
      exact (taken.trans (replaceSlot_works _ _ _ _ _)).trans (reportOwner_works _ _)
    · dsimp only; exact denyKey_works s _ _ _ _

theorem groupKey_works (p : PositionId) (h : Handset) (g : GroupId) (k : Key) (o : Origin) :
    Works s (s.groupKey p h g k o).1 := by
  unfold State.groupKey
  dsimp only
  repeat' split
  case isTrue => exact .refl s
  case isFalse.isTrue => dsimp only; exact denyKey_works s _ _ _ _
  case isFalse.isFalse.isTrue => dsimp only; exact denyKey_works s _ _ _ _
  case isFalse.isFalse.isFalse.isTrue => dsimp only; exact denyKey_works s _ _ _ _
  all_goals
    rename_i heq
    have asked := (replaceSlot_works s p h (s.slot p h) ⟨.group g, k⟩).trans (talkRequest_works _ g p (.handset h))
    rw [heq] at asked
  · exact asked.trans (show Works _ (_ : State) by dsimp only; exact denyKey_works _ _ _ _ _)
  · exact asked

theorem pressKey_works (p : PositionId) (k : Key) (o : Origin) : Works s (s.pressKey p k o).1 := by
  unfold State.pressKey
  dsimp only
  repeat' split
  · dsimp only; exact denyKey_works s _ _ _ _
  · exact reRing_works s _ _ _
  · exact takeIntoSlot_works s _ _ _ _ _
  · exact groupKey_works s _ _ _ _ _

theorem holdKey_works (p : PositionId) (o : Origin) : Works s (s.holdKey p o).1 := by
  unfold State.holdKey
  dsimp only
  split
  · dsimp only; exact denyKey_works s _ _ _ _
  · have held (l : LineId) : Works s (s.hold l p (s.selected p)).1 := .of_told (hold_frame s _ _ _) (hold_told s _ _ _)
    exact ((held _).then_frame (setSlot_frame _ _ _ _)).trans (.of_told (reportEnd_frame _ _ _) (reportEnd_told _ _ _))
  · exact releaseSlot_works s _ _

theorem answerHead_works (p : PositionId) (h : Handset) (o : Origin) : Works s (s.answerHead p h o).1 := by
  unfold State.answerHead
  split
  · dsimp only; exact denyKey_works s _ _ _ _
  · exact takeIntoSlot_works s _ _ _ _ _

theorem privacyKey_works (p : PositionId) (o : Origin) : Works s (s.privacyKey p o).1 := by
  unfold State.privacyKey
  dsimp only
  split
  · dsimp only; exact denyKey_works s _ _ _ _
  · dsimp only; exact denyKey_works s _ _ _ _
  · rename_i l _ _
    have asked := privacyRequest_works s l p (s.selected p)
    split <;> rename_i heq
    · rwa [heq] at asked
    · dsimp only; exact denyKey_works s _ _ _ _

theorem selectKey_works (p : PositionId) (h : Handset) : Works s (s.selectKey p h).1 := by
  unfold State.selectKey
  split
  · exact .refl s
  · exact .of_frame (setPosition_frame s _ _)

theorem silenceKey_works (p : PositionId) : Works s (s.silenceKey p).1 := by
  unfold State.silenceKey
  dsimp only
  split
  · exact .refl s
  · exact .of_frame (setPosition_frame s _ _)

theorem channelResult_works (p : PositionId) (n : ChannelId) (o : Origin) {x : State × ResultCode}
    (h : Works s x.1) : Works s (State.channelResult p n o x).1 := by
  unfold State.channelResult
  split
  case h_6 => exact h
  all_goals dsimp only; exact h.trans (denyKey_works _ _ _ _ _)

theorem talkKeyDown_works (p : PositionId) (n : ChannelId) : Works s (s.talkKeyDown p n).1 := by
  unfold State.talkKeyDown
  dsimp only
  split
  · exact .refl s
  split
  · exact .refl s
  · split
    · exact (Works.of_frame (updateTalking_frame s _ _ _ _)).then_frame (setChannel_frame _ _ _ _)
    · exact .refl s
  · next g _ =>
    have asked := talkRequest_works s g p (.channel n)
    split <;> rename_i heq <;> rw [heq] at asked
    · exact asked.then_frame (setChannel_frame _ _ _ _)
    · exact asked.then_frame (setChannel_frame _ _ _ _)
    · exact asked.then_frame (setChannel_frame _ _ _ _)
    · exact asked

theorem talkKeyUp_works (p : PositionId) (n : ChannelId) : Works s (s.talkKeyUp p n).1 := by
  have up : Works s (s.setChannel p n { s.channel p n with ptt := false, mustRelease := false }) :=
    .of_frame (setChannel_frame s _ _ _)
  unfold State.talkKeyUp
  dsimp only
  repeat' split
  · exact .refl s
  · exact up.trans (talkRelease_works _ _ _ _)
  · exact up.then_frame (updateTalking_frame _ _ _ _ _)
  · exact up
  · exact up

theorem hookOnEvent_works (p : PositionId) (h : Handset) : Works s (s.hookOnEvent p h) := by
  unfold State.hookOnEvent
  split
  · exact .refl s
  · exact (Works.of_frame (setPosition_frame s _ _)).trans (releaseSlot_works _ _ _)

theorem hookOffEvent_works (p : PositionId) (h : Handset) : Works s (s.hookOffEvent p h) := by
  have lifted (x : Position) : Works s (s.setPosition p x) := .of_frame (setPosition_frame s _ _)
  unfold State.hookOffEvent
  dsimp only
  repeat' split
  · exact .refl s
  · exact (lifted _).then_frame (updateTalking_frame _ _ _ _ _)
  · exact lifted _
  · exact (lifted _).trans (answerHead_works _ _ _ _)
  · exact lifted _

theorem funcEvent_works (p : PositionId) (f : Func) (n : ChannelId) (down : Bool) (o : Origin) :
    Works s (s.funcEvent p f n down o).1 := by
  unfold State.funcEvent
  split
  · exact talkKeyUp_works s _ _
  · exact holdKey_works s _ _
  · exact releaseSlot_works s _ _
  · exact answerHead_works s _ _ _
  · exact privacyKey_works s _ _
  · exact selectKey_works s _ _
  · exact selectKey_works s _ _
  · exact silenceKey_works s _
  · exact channelResult_works s _ _ _ (.of_frame (muteKey_frame s _ _))
  · exact channelResult_works s _ _ _ (talkKeyDown_works s _ _)
  all_goals exact .refl s

theorem inject_works (p : PositionId) (e : InjectEvent) : Works s (s.inject p e).1 := by
  unfold State.inject
  split
  · exact pressKey_works s _ _ _
  · exact .refl s
  · exact funcEvent_works s _ _ _ _ _

/-! ### Knobs and links -/

theorem knobStep_works (p : PositionId) (ls : Loudspeaker) (v : Step) : Works s (s.knobStep p ls v) := by
  unfold State.knobStep
  split
  · exact .refl s
  · exact (Works.of_frame (setSpeaker_frame s _ _)).trans (raise_works _ _)

theorem knobResidue_works (p : PositionId) (j : KnobId) (a b : Bool) (r : Int) : Works s (s.knobResidue p j a b r) := by
  have stored (x : Position) : Works s (s.setPosition p x) := .of_frame (setPosition_frame s _ _)
  unfold State.knobResidue
  dsimp only
  split
  · exact (stored _).trans (knobStep_works _ _ _ _)
  split
  · exact (stored _).trans (knobStep_works _ _ _ _)
  · exact stored _

theorem knobEvent_works (p : PositionId) (j : KnobId) (a b : Bool) : Works s (s.knobEvent p j a b) := by
  unfold State.knobEvent
  dsimp only
  split
  · exact knobResidue_works s _ _ _ _ _
  · exact knobResidue_works s _ _ _ _ _
  · exact knobResidue_works s _ _ _ _ _
  · exact .refl s

theorem positionLinkLoss_frame (p : PositionId) :
    SameExcept [.lines, .positions, .notices, .offers, .groups, .termCount, .directory, .speakers] s
      (s.positionLinkLoss p) := by
  unfold State.positionLinkLoss
  refine SameExcept.step (ch1 := [.lines, .positions, .notices, .offers, .groups, .termCount, .directory, .speakers]) ?_
    (setPosition_frame _ _ _)
  refine SameExcept.step (ch1 := [.lines, .positions, .notices, .offers, .groups, .termCount, .directory, .speakers]) ?_
    (intercomLinkLoss_frame _ _)
  refine SameExcept.step (ch1 := slotParts) ?_ (speakerLinkLoss_frame _ _)
  exact (SameExcept.step (ch1 := [.positions]) (setPosition_frame s _ _) (releaseSlot_frame _ _ _)).trans
    (releaseSlot_frame _ _ _)

theorem positionLinkLoss_works (p : PositionId) : Works s (s.positionLinkLoss p) :=
  .of_told (positionLinkLoss_frame s p) (positionLinkLoss_told s p)

/-! ### The directory -/

theorem applyPage_works (c : Port) (page : Fin 128) : Works s (s.applyPage c page).1 := .of_frame (applyPage_frame s c page)

/-- A wipe is the work of an event on the state with the guard opened. -/
theorem wipe_works (p : PositionId) : Works (s.setGuard p .openGuard) (s.wipe p) := by
  have emptied : SameExcept [.directory] (s.setGuard p .openGuard)
      ({ s with directory := s.directory.set p (Table.fill 64 ⟨.empty, none⟩) }.setGuard p .openGuard) := by
    intro q hq
    cases q <;> first | rfl | simp at hq
  exact .of_frame (emptied.step (ch := [.directory, .positions]) (directoryChanged_frame _ p (s.directory.get p)))

end Sys2Proof.Machine
end

section
/-! PROOFS. Lamp images, lamp queues, notice queues, port records and attach opportunities over every command. -/

namespace Sys2Proof.Machine

-- One theorem after another: side by side they hold the memory of too many stacks.
set_option Elab.async false

/-! ### What a shown code reads -/

/-- The parts that no shown code reads. -/
abbrev unlitParts : List Part :=
  [.pending, .clock, .offers, .quiet, .quietPin, .mntPin, .termCount, .lineClip, .positionClip, .guards, .staging, .links,
    .turretOut, .highway, .highwayOut, .ports, .params, .notices]

/-- Everything that a shown code reads is as it was: of the groups, the members may have changed. -/
structure SameShown (s t : State) : Prop where
  lamps : t.lamps = s.lamps
  linkUp : ∀ p, (t.position p).linkUp = (s.position p).linkUp
  layout : ∀ p, (t.position p).layout = (s.position p).layout
  deny : ∀ p, (t.position p).deny = (s.position p).deny
  slot : ∀ p h, t.slot p h = s.slot p h
  line : ∀ l, t.line l = s.line l
  group : ∀ g, ∃ ms, t.group g = { s.group g with members := ms }
  channel : ∀ p n, t.channel p n = s.channel p n
  entry : ∀ p k, t.entry p k = s.entry p k

section
variable {s t u : State}

theorem SameShown.of_frame {ch : List Part} (frame : SameExcept ch s t)
    (sub : ∀ q ∈ ch, q ∈ unlitParts := by decide) : SameShown s t := by
  have same : SameExcept unlitParts s t := frame.mono sub
  have positions : t.positions = s.positions := same .positions (by decide)
  have lines : t.lines = s.lines := same .lines (by decide)
  have groups : t.groups = s.groups := same .groups (by decide)
  have speakers : t.speakers = s.speakers := same .speakers (by decide)
  have directory : t.directory = s.directory := same .directory (by decide)
  refine ⟨same .lamps (by decide), ?_, ?_, ?_, ?_, ?_, fun g => ⟨(s.group g).members, ?_⟩, ?_, ?_⟩ <;> intros <;>
    simp only [State.position, State.slot, State.line, State.group, State.channel, State.speaker, State.entry, positions,
      lines, groups, speakers, directory]

theorem SameShown.refl (s : State) : SameShown s s := .of_frame (SameExcept.refl [] s)

theorem SameShown.trans (h : SameShown s t) (k : SameShown t u) : SameShown s u := by
  refine ⟨k.lamps.trans h.lamps, fun p => (k.linkUp p).trans (h.linkUp p), fun p => (k.layout p).trans (h.layout p),
    fun p => (k.deny p).trans (h.deny p), fun p g => (k.slot p g).trans (h.slot p g),
    fun l => (k.line l).trans (h.line l), fun g => ?_, fun p n => (k.channel p n).trans (h.channel p n),
    fun p x => (k.entry p x).trans (h.entry p x)⟩
  obtain ⟨ms, eq⟩ := h.group g
  obtain ⟨ms', eq'⟩ := k.group g
  exact ⟨ms', by rw [eq', eq]⟩

/-- Where the position records keep link state, layout, deny displays and slots, and nothing else changes. -/
theorem SameShown.of_positions (frame : SameExcept [.positions] s t)
    (linkUp : ∀ p, (t.position p).linkUp = (s.position p).linkUp)
    (layout : ∀ p, (t.position p).layout = (s.position p).layout)
    (deny : ∀ p, (t.position p).deny = (s.position p).deny) (slot : ∀ p h, t.slot p h = s.slot p h) : SameShown s t := by
  have lines : t.lines = s.lines := frame .lines (by decide)
  have groups : t.groups = s.groups := frame .groups (by decide)
  have speakers : t.speakers = s.speakers := frame .speakers (by decide)
  have directory : t.directory = s.directory := frame .directory (by decide)
  refine ⟨frame .lamps (by decide), linkUp, layout, deny, slot, ?_, fun g => ⟨(s.group g).members, ?_⟩, ?_, ?_⟩ <;> intros <;>
    simp only [State.line, State.group, State.channel, State.speaker, State.entry, lines, groups, speakers, directory]

/-- What the tables say about a lamp carries over to a state that shows the same. -/
theorem LampIs.transfer (same : SameShown s t) {p : PositionId} {x : LampId} {c : LampCode} (h : LampIs s p x c) :
    LampIs t p x c := by
  obtain ⟨-, -, -, deny, slot, line, group, channel, entry⟩ := same
  refine ⟨?_, ?_, ?_, ?_, ?_⟩ <;> rw [deny p]
  · exact h.deny
  · intro none k at_ content
    rw [entry] at content
    exact h.emptyKey none k at_ content
  · intro none k l r b u at_ content
    rw [entry] at content
    rw [line]
    exact h.lineKey none k l r b u at_ content
  · intro none k g at_ content
    rw [entry] at content
    simp only [slot]
    obtain ⟨ms, eq⟩ := group g
    rw [eq]
    have lamp := h.groupKey none k g at_ content
    exact ⟨lamp.undefinedGroup, lamp.talks, lamp.waits, lamp.listens, lamp.elsewhere⟩
  · intro none n at_
    rw [channel]
    have lamp := h.channel none n at_
    refine ⟨lamp.noSource, lamp.waiting, ?_, ?_, ?_, ?_, ?_⟩
    · intro l
      rw [line]
      exact lamp.lineTalks l
    · intro l
      rw [line]
      exact lamp.lineListens l
    all_goals
      intro g
      obtain ⟨ms, eq⟩ := group g
      rw [eq]
    · exact lamp.groupTalks g
    · exact lamp.groupWaits g
    · exact lamp.groupListens g

theorem SameShown.lampsAgree (same : SameShown s t) (h : s.lampsAgree) : t.lampsAgree := by
  intro p up fresh x shown
  rw [same.linkUp] at up
  rw [same.lamps] at fresh ⊢
  rw [same.layout] at shown
  exact (h p up fresh x shown).transfer same

end

/-- Whatever an event did before its end, the images agree with the tables after it. -/
theorem finish_lampsAgree (s : State) : s.finish.lampsAgree := sendLamps_lampsAgree _

/-! ### Lamp queues -/

/-- At most one update a lamp. -/
def Link.queueOk (x : Link) : Prop := (x.lampQueue.map LampUpdate.lamp).Nodup

theorem handUpdate_nodup {q : List LampUpdate} (h : (q.map LampUpdate.lamp).Nodup) (u : LampUpdate) :
    ((handUpdate q u).map LampUpdate.lamp).Nodup := by
  unfold handUpdate
  rw [List.map_append, List.nodup_append]
  refine ⟨h.sublist (List.filter_sublist.map _), by simp, ?_⟩
  intro a ha b hb
  obtain ⟨v, hv, rfl⟩ := List.mem_map.1 ha
  obtain rfl : b = u.lamp := by simpa using hb
  simpa using (List.mem_filter.1 hv).2

theorem foldl_handUpdate_nodup (us : List LampUpdate) {q : List LampUpdate} (h : (q.map LampUpdate.lamp).Nodup) :
    ((us.foldl handUpdate q).map LampUpdate.lamp).Nodup := by
  induction us generalizing q with
  | nil => exact h
  | cons u us ih => exact ih (handUpdate_nodup h u)

theorem lampQueuesOk_of_links {s t : State} (links : t.links = s.links) (h : s.lampQueuesOk) : t.lampQueuesOk := by
  intro p
  rw [State.link, links]
  exact h p

theorem setLink_lampQueuesOk {s : State} {p : PositionId} {x : Link} (h : s.lampQueuesOk) (ok : x.queueOk) :
    (s.setLink p x).lampQueuesOk := by
  intro q
  by_cases e : q = p
  · subst e; simpa [Link.queueOk] using ok
  · simpa [e] using h q

theorem sendLamps_lampQueuesOk {s : State} (h : s.lampQueuesOk) : s.sendLamps.lampQueuesOk := by
  intro p
  rw [sendLamps_link]
  exact foldl_handUpdate_nodup _ (h p)

theorem fullRefresh_lampQueuesOk {s : State} (p : PositionId) (h : s.lampQueuesOk) : (s.fullRefresh p).lampQueuesOk :=
  lampQueuesOk_of_links (s := s.setLink p _) rfl (setLink_lampQueuesOk h (foldl_handUpdate_nodup _ (h p)))

/-! ### Notice queues -/

theorem NoticeQueue.ok.offered {q : NoticeQueue} (h : q.ok) (due : Nat) (b : NoticeBody) : (q.offered due b).ok := by
  obtain ⟨atMost, threshold, ageLimit, ageTimer⟩ := h
  unfold NoticeQueue.offered
  split
  · unfold NoticeQueue.intake
    split
    · exact ⟨atMost, threshold, ageLimit, ageTimer⟩
    · next room =>
      refine ⟨?_, threshold, ageLimit, ?_⟩
      · simp only [List.length_append, List.length_singleton]
        omega
      · cases attention : q.ageAttention <;> simp_all
  · exact ⟨atMost, threshold, ageLimit, ageTimer⟩

theorem NoticeQueue.ok.read {q : NoticeQueue} (h : q.ok) (due n : Nat) : (q.afterRead due n).ok := by
  refine ⟨?_, h.threshold, h.ageLimit, ?_⟩
  · have := h.atMost
    simp only [NoticeQueue.afterRead, List.length_drop]
    omega
  · cases e : (q.queue.drop n).isEmpty <;> simp [NoticeQueue.afterRead, e]

theorem NoticeQueue.ok.cleared {q : NoticeQueue} (h : q.ok) : q.emptied.ok :=
  ⟨Nat.zero_le _, h.threshold, h.ageLimit, rfl⟩

theorem NoticeQueue.ok.setup {q : NoticeQueue} (h : q.ok) (m : BitVec 6) (t a : Nat) :
    ({ q with mask := m, threshold := thresholdTaken t, ageLimit := ageLimitTaken a } : NoticeQueue).ok := by
  refine ⟨h.atMost, ?_, ?_, h.ageTimer⟩
  · dsimp only
    unfold thresholdTaken
    repeat' split
    all_goals simp
  · dsimp only
    unfold ageLimitTaken
    repeat' split
    all_goals omega

theorem NoticeQueue.ok.aged {q : NoticeQueue} (h : q.ok) :
    ({ q with ageTimer := none, ageAttention := true } : NoticeQueue).ok :=
  ⟨h.atMost, h.threshold, h.ageLimit, by simp⟩

theorem noticesOk_of_notices {s t : State} (notices : t.notices = s.notices) (h : s.noticesOk) : t.noticesOk := by
  intro c
  rw [State.noticeQueue, notices]
  exact h c

theorem Told.noticesOk {s t : State} (told : Told s t) (h : s.noticesOk) : t.noticesOk := by
  obtain ⟨-, bs, raised⟩ := told
  intro c
  rw [raised c]
  have offers : ∀ (bs : List NoticeBody) (q : NoticeQueue), q.ok →
      (bs.foldl (fun q b => q.offered (t.clock + q.ageLimit * Config.periodsPerMs) b) q).ok := by
    intro bs
    induction bs with
    | nil => exact fun q ok => ok
    | cons b bs ih => exact fun q ok => ih _ (ok.offered _ b)
  exact offers bs _ (h c)

theorem setNoticeQueue_noticesOk {s : State} {c : Port} {x : NoticeQueue} (h : s.noticesOk) (ok : x.ok) :
    (s.setNoticeQueue c x).noticesOk := by
  intro d
  by_cases e : d = c
  · subst e
    simpa [State.noticeQueue, State.setNoticeQueue] using ok
  · simpa [State.noticeQueue, State.setNoticeQueue, e] using h d

/-! ### Port records -/

theorem responseFrame_length_pos (tag : Byte) (r : ResultCode) (data : List Byte) :
    0 < (responseFrame tag r data).length := by
  simp [responseFrame]

/-- A record that differs in flags, answer and shifted bytes alone. -/
theorem PortRecord.ok.congr {x y : PortRecord} (h : x.ok) (state : y.state = x.state) (slot : y.slot = x.slot)
    (readPosition : y.readPosition = x.readPosition) (discard : y.discard = x.discard)
    (inFlight : y.inFlight = x.inFlight) : y.ok := by
  obtain ⟨h1, h2, h3, h4, h5⟩ := h
  constructor <;> simp only [state, slot, readPosition, discard, inFlight]
  exacts [h1, h2, h3, h4, h5]

/-- A response stands in a READY port. -/
theorem PortRecord.ok_ready {x : PortRecord} (tag : Byte) (r : ResultCode) (data : List Byte)
    (state : x.state = .ready) (slot : x.slot = some (responseFrame tag r data)) (readPosition : x.readPosition = 0)
    (inFlight : x.inFlight.isSome = x.discard) : x.ok := by
  refine ⟨by simp [state, slot], ?_, by simp [slot], by simp [state, inFlight], by simp [state]⟩
  intro f e
  rw [slot] at e
  obtain rfl := Option.some.inj e
  rw [readPosition]
  exact responseFrame_length_pos ..

theorem PortRecord.free_iff (x : PortRecord) : x.free = true ↔ x.state = .idle ∧ x.discard = false := by
  simp [PortRecord.free]

theorem portsOk_of_ports {s t : State} (ports : t.ports = s.ports) (h : s.portsOk) : t.portsOk := by
  intro c
  rw [State.port, ports]
  exact h c

theorem setPort_portsOk {s : State} {c : Port} {x : PortRecord} (h : s.portsOk) (ok : x.ok) : (s.setPort c x).portsOk := by
  intro d
  by_cases e : d = c
  · subst e
    simpa [State.port, State.setPort] using ok
  · simpa [State.port, State.setPort, e] using h d

theorem answer_portsOk {s : State} (c : Port) (r : ResultCode) (d : List Byte) (h : s.portsOk) :
    (s.answer c r d).portsOk := setPort_portsOk h ((h c).congr rfl rfl rfl rfl rfl)

theorem beginTransfer_portsOk {s : State} (c : Port) (n : Nat) (h : s.portsOk) : (s.beginTransfer c n).portsOk := by
  unfold State.beginTransfer
  dsimp only
  split <;> exact setPort_portsOk h ((h c).congr rfl rfl rfl rfl rfl)

theorem portReset_portsOk {s : State} (c : Port) (tag : Byte) (h : s.portsOk) : (s.portReset c tag).portsOk := by
  refine setPort_portsOk (portsOk_of_ports rfl h) (PortRecord.ok_ready tag .ok [] rfl rfl rfl ?_)
  have := (h c).inFlight
  unfold PortRecord.discardAfterReset
  split <;> simp_all

theorem dispatch_portsOk {s : State} (c : Port) (tag number : Byte) (args : List Byte) (h : s.portsOk) :
    (s.dispatch c tag number args).portsOk := by
  have dropped : (s.dropRequest c).portsOk := setPort_portsOk h ((h c).congr rfl rfl rfl rfl rfl)
  have responds (r : ResultCode) (data : List Byte) (idle : (s.port c).state = .idle) :
      (s.portResponds c tag r data).portsOk := by
    refine setPort_portsOk h (PortRecord.ok_ready tag r data rfl rfl rfl ?_)
    simpa [idle] using (h c).inFlight
  unfold State.dispatch
  split
  · split
    · exact portReset_portsOk c tag h
    split
    · next idle => exact responds _ _ idle
    · exact dropped
  split
  · exact dropped
  next free =>
  simp only [Bool.not_eq_true', Bool.not_eq_false, PortRecord.free_iff] at free
  obtain ⟨idle, undiscarded⟩ := free
  split
  · exact responds _ _ idle
  split
  · have position := (h c).emptyPosition
    have slot : (s.port c).slot = none := by simpa [idle] using (h c).slot
    refine setPort_portsOk h ⟨?_, ?_, ?_, ?_, ?_⟩
    · simp [slot]
    · simp [slot]
    · exact position
    · simp
    · exact fun _ => undiscarded
  · exact responds _ _ idle

theorem pureRead_portsOk {s : State} (c : Port) (status : Byte) (n : Nat) (h : s.portsOk) :
    (s.pureRead c status n).portsOk := by
  unfold State.pureRead
  dsimp only
  split
  · next frame ready slot =>
    have inFlight : (s.port c).inFlight.isSome = (s.port c).discard := by simpa [ready] using (h c).inFlight
    split
    · exact setPort_portsOk h ⟨by simp, by simp, by simp, by simpa using inFlight, by simp⟩
    · next more =>
      refine setPort_portsOk h ⟨by simp [ready, slot], ?_, by simp [slot], by simp [ready, inFlight], by simp [ready]⟩
      intro f e
      have e : (s.port c).slot = some f := e
      rw [slot] at e
      obtain rfl := Option.some.inj e
      simp only [List.length_drop] at more
      show (s.port c).readPosition + (n - 2) < frame.length
      omega
  all_goals exact h

theorem returnResult_portsOk {s : State} (c : Port) (f : InFlight) (a : Answer)
    (h : s.portsOk) : (s.returnResult c f a).portsOk := by
  obtain ⟨slot, position, empty, inFlight, busy⟩ := h c
  unfold State.returnResult
  dsimp only
  split
  · next discard =>
    have idle : (s.port c).state ≠ .busy := fun e => by simp [busy e] at discard
    exact setPort_portsOk h ⟨slot, position, empty, by simp [idle], fun _ => rfl⟩
  · next discard =>
    refine setPort_portsOk h (PortRecord.ok_ready f.tag a.result a.data rfl rfl rfl ?_)
    simp [discard]

theorem returnRead_portsOk {s : State} (c : Port) (h : s.portsOk) : (s.returnRead c).portsOk := by
  unfold State.returnRead
  split
  · next f a _ _ =>
    split
    · exact returnResult_portsOk c f a h
    · exact h
  all_goals exact h

/-! ### The four together -/

/-- Lamp queues, notice queues and port records as their rules say, and no attach opportunity left over. -/
structure State.tidy (s : State) : Prop where
  lampQueues : s.lampQueuesOk
  notices : s.noticesOk
  ports : s.portsOk
  offers : s.offers = []

/-- The lamp images agree and the queues and ports are tidy after it if they were before it. -/
structure Settles (s t : State) : Prop where
  lamps : s.lampsAgree → t.lampsAgree
  tidy : s.tidy → t.tidy

/-- And no guard moves (R144). -/
structure Keeps (s t : State) : Prop extends Settles s t where
  guards : t.guards = s.guards

/-- What a command's next state keeps. -/
def NextKeeps (s : State) (o : Host.Outcome State Fault Refusal) : Prop := ∀ t, o = .next t → Keeps s t

theorem nextKeeps {s t : State} (h : Keeps s t) : NextKeeps s (.next t) := by
  rintro u ⟨⟩
  exact h

section
variable {s t u : State}

theorem Settles.trans (h : Settles s t) (k : Settles t u) : Settles s u :=
  ⟨fun a => k.lamps (h.lamps a), fun a => k.tidy (h.tidy a)⟩

/-- A frame of parts that neither lamps nor queues nor ports read. -/
theorem Settles.of_shown {ch : List Part} (frame : SameExcept ch s t) (shown : SameShown s t)
    (links : Part.links ∉ ch := by decide) (notices : Part.notices ∉ ch := by decide)
    (ports : Part.ports ∉ ch := by decide) (offers : Part.offers ∉ ch := by decide) : Settles s t := by
  refine ⟨shown.lampsAgree, fun h => ?_⟩
  exact ⟨lampQueuesOk_of_links (frame .links links) h.lampQueues, noticesOk_of_notices (frame .notices notices) h.notices,
    portsOk_of_ports (frame .ports ports) h.ports, (frame .offers offers).trans h.offers⟩

theorem Keeps.refl (s : State) : Keeps s s := ⟨⟨id, id⟩, rfl⟩

theorem Keeps.trans (h : Keeps s t) (k : Keeps t u) : Keeps s u :=
  ⟨h.toSettles.trans k.toSettles, k.guards.trans h.guards⟩

theorem Keeps.of_shown {ch : List Part} (frame : SameExcept ch s t) (shown : SameShown s t)
    (links : Part.links ∉ ch := by decide) (notices : Part.notices ∉ ch := by decide)
    (ports : Part.ports ∉ ch := by decide) (offers : Part.offers ∉ ch := by decide)
    (guards : Part.guards ∉ ch := by decide) : Keeps s t :=
  ⟨.of_shown frame shown links notices ports offers, frame .guards guards⟩

theorem Keeps.of_frame {ch : List Part} (frame : SameExcept ch s t) (sub : ∀ q ∈ ch, q ∈ unlitParts := by decide)
    (links : Part.links ∉ ch := by decide) (notices : Part.notices ∉ ch := by decide)
    (ports : Part.ports ∉ ch := by decide) (offers : Part.offers ∉ ch := by decide)
    (guards : Part.guards ∉ ch := by decide) : Keeps s t :=
  .of_shown frame (.of_frame frame sub) links notices ports offers guards

theorem Keeps.of_ports (frame : SameExcept [.ports] s t) (ok : s.portsOk → t.portsOk) : Keeps s t := by
  refine ⟨⟨(SameShown.of_frame frame).lampsAgree, fun h => ?_⟩, frame .guards (by decide)⟩
  exact ⟨lampQueuesOk_of_links (frame .links (by decide)) h.lampQueues,
    noticesOk_of_notices (frame .notices (by decide)) h.notices, ok h.ports, (frame .offers (by decide)).trans h.offers⟩

theorem Keeps.of_notices (frame : SameExcept [.notices] s t) (ok : s.noticesOk → t.noticesOk) : Keeps s t := by
  refine ⟨⟨(SameShown.of_frame frame).lampsAgree, fun h => ?_⟩, frame .guards (by decide)⟩
  exact ⟨lampQueuesOk_of_links (frame .links (by decide)) h.lampQueues, ok h.notices,
    portsOk_of_ports (frame .ports (by decide)) h.ports, (frame .offers (by decide)).trans h.offers⟩

theorem Keeps.of_links (frame : SameExcept [.links] s t) (ok : s.lampQueuesOk → t.lampQueuesOk) : Keeps s t := by
  refine ⟨⟨(SameShown.of_frame frame).lampsAgree, fun h => ?_⟩, frame .guards (by decide)⟩
  exact ⟨ok h.lampQueues, noticesOk_of_notices (frame .notices (by decide)) h.notices,
    portsOk_of_ports (frame .ports (by decide)) h.ports, (frame .offers (by decide)).trans h.offers⟩

theorem Keeps.setLink (p : PositionId) {x : Link} (ok : (s.link p).queueOk → x.queueOk) : Keeps s (s.setLink p x) :=
  .of_links (setLink_frame s p x) fun h => setLink_lampQueuesOk h (ok (h p))

theorem answer_keeps (s : State) (c : Port) (r : ResultCode) (d : List Byte) : Keeps s (s.answer c r d) :=
  .of_ports (answer_frame s c r d) (answer_portsOk c r d)

theorem Keeps.answer (h : Keeps s t) (c : Port) (r : ResultCode) (d : List Byte) : Keeps s (t.answer c r d) :=
  h.trans (answer_keeps t c r d)

theorem raise_keeps (s : State) (b : NoticeBody) : Keeps s (s.raise b) :=
  .of_notices (raise_frame s b) (raise_told s b).noticesOk

theorem reach_keeps (s : State) (due : Nat) : Keeps s (s.reach due) := .of_frame (reach_frame s due)

/-- The queues and ports of `s` are as they were in `t`, or as their rules say: what an event's work leaves of them. -/
theorem Works.finish_tidy (h : Works s t) (tidy : s.tidy) : t.finish.tidy := by
  have ended := h.trans (takeOffers_works t)
  exact ⟨sendLamps_lampQueuesOk (lampQueuesOk_of_links ended.links tidy.lampQueues),
    noticesOk_of_notices rfl (ended.told.noticesOk tidy.notices), portsOk_of_ports (s := t.takeOffers) rfl
      (portsOk_of_ports ended.ports tidy.ports), rfl⟩

/-- An event that works and ends. -/
theorem Works.finish (h : Works s t) : Keeps s t.finish :=
  ⟨⟨fun _ => finish_lampsAgree t, h.finish_tidy⟩, (finish_frame t .guards (by decide)).trans h.guards⟩

/-- A request that works, answers and ends as an event. -/
theorem Works.answered_finish (h : Works s t) (c : Port) (r : ResultCode) (d : List Byte) :
    NextKeeps s (.next (t.answer c r d).finish) := by
  refine nextKeeps ⟨⟨fun _ => finish_lampsAgree _, fun tidy => ?_⟩,
    (finish_frame (t.answer c r d) .guards (by decide)).trans h.guards⟩
  have ended := takeOffers_works (t.answer c r d)
  refine ⟨sendLamps_lampQueuesOk (lampQueuesOk_of_links (ended.links.trans h.links) tidy.lampQueues),
    noticesOk_of_notices rfl (ended.told.noticesOk (noticesOk_of_notices rfl (h.told.noticesOk tidy.notices))),
    portsOk_of_ports (s := (t.answer c r d).takeOffers) rfl (portsOk_of_ports ended.ports ?_), rfl⟩
  exact answer_portsOk c r d (portsOk_of_ports h.ports tidy.ports)

end

end Sys2Proof.Machine
end

section
/-! PROOFS. Every command keeps the lamp images, the queues and the port records (R65, R157, R162, R179, R181). -/

namespace Sys2Proof.Machine

-- One theorem after another: side by side they hold the memory of too many stacks.
set_option Elab.async false

variable (s : State)

/-- A refused request and a read. -/
theorem answered_only_keeps (c : Port) (r : ResultCode) (d : List Byte) : NextKeeps s (.next (s.answer c r d)) :=
  nextKeeps (answer_keeps s c r d)

/-- What a command's next state settles. -/
def NextSettles (s : State) (o : Host.Outcome State Fault Refusal) : Prop := ∀ t, o = .next t → Settles s t

theorem nextSettles {s t : State} (h : Settles s t) : NextSettles s (.next t) := by
  rintro u ⟨⟩
  exact h

theorem NextKeeps.settles {s : State} {o : Host.Outcome State Fault Refusal} (h : NextKeeps s o) : NextSettles s o :=
  fun t e => (h t e).toSettles

theorem idle_keeps : NextKeeps s (.next s) := nextKeeps (.refl s)

theorem takeDelivered_keeps (p : PositionId) (ev : TurretEvent) : Keeps s (s.takeDelivered p ev) := by
  refine .setLink p fun h => ?_
  unfold Link.taken
  split <;> exact h

theorem turretEvent_keeps (p : PositionId) (ev : TurretEvent) {act : State → State} (h : ∀ t : State, Works t (act t)) :
    NextKeeps s (.next (s.turretEvent p ev act)) := by
  refine nextKeeps ?_
  unfold State.turretEvent
  dsimp only
  split
  · exact (takeDelivered_keeps s p ev).trans (h _).finish
  · exact takeDelivered_keeps s p ev

/-- A timer's event: the clock is brought to its time, the work is done and the event ends. -/
theorem timed_keeps (due : Nat) {t : State} (h : Works (s.reach due) t) : NextKeeps s (.next t.finish) :=
  nextKeeps ((reach_keeps s due).trans h.finish)

/-! ### Lines -/

theorem execLineConfigure_keeps (c : Port) (l k b r : Byte) : NextKeeps s (execLineConfigure c l k b r s) := by
  unfold execLineConfigure
  split
  · exact (configureLine_works s _ _ _ _).answered_finish c _ _
  · exact answered_only_keeps s c _ _

theorem execLineService_keeps (c : Port) (l d : Byte) : NextKeeps s (execLineService c l d s) := by
  unfold execLineService
  split
  · exact (serviceLine_works s _ _).answered_finish c _ _
  · exact answered_only_keeps s c _ _

theorem execLineStatusRead_keeps (c : Port) (l : Byte) : NextKeeps s (execLineStatusRead c l s) := by
  unfold execLineStatusRead
  split <;> exact answered_only_keeps s c _ _

theorem execLineClearMissed_keeps (c : Port) (l : Byte) : NextKeeps s (execLineClearMissed c l s) := by
  unfold execLineClearMissed
  split
  · exact (Works.of_frame (setLine_frame s _ _)).answered_finish c _ _
  · exact answered_only_keeps s c _ _

theorem execSignalChange_keeps (l : LineId) (now : Signals) : NextKeeps s (execSignalChange l now s) := by
  have taken : SameExcept [.highway] s { s with highway := s.highway.set l ((s.highway.get l).taken now) } := by
    intro q hq
    cases q <;> first | rfl | simp at hq
  exact nextKeeps ((Works.of_frame taken).trans (signalEvent_works _ l now)).finish

theorem execBurstExpiry_keeps (l : LineId) : NextKeeps s (execBurstExpiry l s) := by
  unfold execBurstExpiry
  split
  · exact timed_keeps s _ (moveLine_works _ _ _)
  · exact timed_keeps s _ (moveLine_works _ _ _)
  · exact idle_keeps s

theorem execAnswerWaitExpiry_keeps (l : LineId) : NextKeeps s (execAnswerWaitExpiry l s) := by
  unfold execAnswerWaitExpiry
  split
  · dsimp only
    split
    · exact timed_keeps s _ (moveLine_works _ _ _)
    · exact timed_keeps s _ ((moveLine_works _ _ _).trans (raise_works _ _))
  · exact idle_keeps s

theorem execHoldExpiry_keeps (l : LineId) : NextKeeps s (execHoldExpiry l s) := by
  unfold execHoldExpiry
  split
  · exact timed_keeps s _ ((moveLine_works _ _ _).trans (raise_works _ _))
  · exact idle_keeps s

theorem execRecallExpiry_keeps (l : LineId) : NextKeeps s (execRecallExpiry l s) := by
  unfold execRecallExpiry
  split
  · exact timed_keeps s _ (abandon_works _ _)
  · exact idle_keeps s

theorem execGuardExpiry_keeps (l : LineId) : NextKeeps s (execGuardExpiry l s) := by
  unfold execGuardExpiry
  split
  · dsimp only
    split
    · exact timed_keeps s _ (enterRinging_works _ _ _)
    · exact timed_keeps s _ (moveLine_works _ _ _)
  · exact idle_keeps s

/-! ### Positions -/

theorem execKeyInject_keeps (c : Port) (p k x n d : Byte) : NextKeeps s (execKeyInject c p k x n d s) := by
  unfold execKeyInject
  repeat' split
  · exact answered_only_keeps s c _ _
  · exact answered_only_keeps s c _ _
  · rename_i p _ _ e _ _ _ _ _ _ heq
    have injected := inject_works s p e
    rw [heq] at injected
    exact injected.answered_finish c _ _
  · exact answered_only_keeps s c _ _

/-- A position record with link state, layout, deny displays and slots as they were. -/
theorem setPosition_keeps (p : PositionId) (x : Position) (linkUp : x.linkUp = (s.position p).linkUp)
    (layout : x.layout = (s.position p).layout) (deny : x.deny = (s.position p).deny)
    (slot : ∀ h, (x.handset h).slot = ((s.position p).handset h).slot) : Keeps s (s.setPosition p x) := by
  refine .of_shown (setPosition_frame s p x) (.of_positions (setPosition_frame s p x) ?_ ?_ ?_ ?_)
  case refine_4 =>
    intro q h
    rw [State.slot, State.slot]
    by_cases e : q = p
    · subst e; simpa using slot h
    · simp [e]
  all_goals
    intro q
    by_cases e : q = p
    · subst e; simpa
    · simp [e]

theorem execPositionConfigure_keeps (c : Port) (p sw al hs rs : Byte) (t : Half) :
    NextKeeps s (execPositionConfigure c p sw al hs rs t s) := by
  unfold execPositionConfigure
  split
  · dsimp only
    split
    · refine nextKeeps (Keeps.answer ?_ c _ _)
      exact setPosition_keeps s _ _ rfl rfl rfl fun h => by cases h <;> rfl
    · refine nextKeeps (Keeps.answer ?_ c _ _)
      exact setPosition_keeps s _ _ rfl rfl rfl fun h => by cases h <;> rfl
  · exact answered_only_keeps s c _ _

theorem execPositionStatusRead_keeps (c : Port) (p : Byte) : NextKeeps s (execPositionStatusRead c p s) := by
  unfold execPositionStatusRead
  split <;> exact answered_only_keeps s c _ _

theorem execDenyTimerExpiry_keeps (p : PositionId) (x : LampId) : NextKeeps s (execDenyTimerExpiry p x s) := by
  unfold execDenyTimerExpiry
  split
  · exact timed_keeps s _ (.of_frame (setPosition_frame _ _ _))
  · exact idle_keeps s

theorem execCadenceTimerExpiry_keeps (p : PositionId) : NextKeeps s (execCadenceTimerExpiry p s) := by
  unfold execCadenceTimerExpiry
  split
  · next c _ =>
    split
    · refine nextKeeps ((reach_keeps s c.due).trans ?_)
      unfold Position.changePhase
      split
      · split <;> exact setPosition_keeps _ p _ rfl rfl rfl fun h => by cases h <;> rfl
      · exact setPosition_keeps _ p _ rfl rfl rfl fun _ => rfl
    · exact idle_keeps s
  · exact idle_keeps s

/-! ### Groups -/

theorem execGroupDefine_keeps (c : Port) (g t f : Byte) : NextKeeps s (execGroupDefine c g t f s) := by
  unfold execGroupDefine
  split
  · exact (defineGroup_works s _ _ _).answered_finish c _ _
  · exact answered_only_keeps s c _ _

theorem execGroupUndefine_keeps (c : Port) (g : Byte) : NextKeeps s (execGroupUndefine c g s) := by
  unfold execGroupUndefine
  repeat' split
  · exact answered_only_keeps s c _ _
  · exact answered_only_keeps s c _ _
  · exact answered_only_keeps s c _ _
  · exact ((Works.of_frame (setGroup_frame s _ _)).then_frame (termCount_frame _ _)).answered_finish c _ _

/-- A group whose members alone are written. -/
theorem setMembers_keeps (g : GroupId) (ms : List Member) : Keeps s (s.setGroup g { s.group g with members := ms }) := by
  have frame := setGroup_frame s g { s.group g with members := ms }
  refine .of_shown frame ⟨rfl, fun _ => rfl, fun _ => rfl, fun _ => rfl, fun _ _ => rfl, fun _ => rfl, fun h => ?_,
    fun _ _ => rfl, fun _ _ => rfl⟩
  by_cases e : h = g
  · subst e
    exact ⟨ms, by simp⟩
  · exact ⟨(s.group h).members, by simp [e]⟩

theorem addMember_keeps (g : GroupId) (p : PositionId) (k : LineClass) : Keeps s (s.addMember g p k).1 := by
  unfold State.addMember
  dsimp only
  repeat' split
  · exact .refl s
  · exact .refl s
  · exact setMembers_keeps s g _
  · exact .refl s
  · exact setMembers_keeps s g _

theorem execMemberAdd_keeps (c : Port) (g p k : Byte) : NextKeeps s (execMemberAdd c g p k s) := by
  unfold execMemberAdd
  split
  · exact nextKeeps ((addMember_keeps s _ _ _).answer c _ _)
  · exact answered_only_keeps s c _ _

theorem execMemberRemove_keeps (c : Port) (g p : Byte) : NextKeeps s (execMemberRemove c g p s) := by
  unfold execMemberRemove
  repeat' split
  · exact answered_only_keeps s c _ _
  · exact answered_only_keeps s c _ _
  · exact (removeMember_works s _ _).answered_finish c _ _
  · exact answered_only_keeps s c _ _

theorem execGroupStatusRead_keeps (c : Port) (g : Byte) : NextKeeps s (execGroupStatusRead c g s) := by
  unfold execGroupStatusRead
  split <;> exact answered_only_keeps s c _ _

theorem execFloorTimerExpiry_keeps (g : GroupId) (p : PositionId) : NextKeeps s (execFloorTimerExpiry g p s) := by
  unfold execFloorTimerExpiry
  split
  · exact timed_keeps s _ (floorTimeout_works _ _ _ _)
  · exact idle_keeps s

/-! ### The Speaker Field -/

/-- A speaker record with its channels as they were. -/
theorem setSpeaker_keeps (p : PositionId) (x : Speaker) (channels : x.channels = (s.speaker p).channels) :
    Keeps s (s.setSpeaker p x) := by
  refine .of_shown (setSpeaker_frame s p x) ⟨rfl, fun _ => rfl, fun _ => rfl, fun _ => rfl, fun _ _ => rfl, fun _ => rfl,
    fun g => ⟨(s.group g).members, rfl⟩, fun q n => ?_, fun _ _ => rfl⟩
  by_cases e : q = p
  · subst e; simp [State.channel, channels]
  · simp [State.channel, e]

theorem execPlanSet_keeps (c : Port) (p n sk sn lv ls tb : Byte) :
    NextKeeps s (execPlanSet c p n sk sn lv ls tb s) := by
  unfold execPlanSet
  split
  · have staged (p : PositionId) (x : Table 8 ChannelPlan) : Keeps s (s.setSpeaker p { s.speaker p with plan := x }) :=
      setSpeaker_keeps s p _ rfl
    dsimp only
    split <;> exact nextKeeps ((staged _ _).answer c _ _)
  · exact answered_only_keeps s c _ _

theorem execPlanPosition_keeps (c : Port) (p d f : Byte) : NextKeeps s (execPlanPosition c p d f s) := by
  unfold execPlanPosition
  split
  · next p _ =>
    have staged : Keeps s
        (s.setSpeaker p { s.speaker p with stagedDuck := clampDuck d, stagedFloor := clampFloor f }) :=
      setSpeaker_keeps s p _ rfl
    dsimp only
    split <;> exact nextKeeps (staged.answer c _ _)
  · exact answered_only_keeps s c _ _

/-- A MIX APPLY that the budget refuses changes nothing (R98). -/
theorem mixApply_refused (p : PositionId) (refused : (s.mixApply p).2 ≠ .ok) : (s.mixApply p).1 = s := by
  unfold State.mixApply at refused ⊢
  dsimp only at refused ⊢
  split at refused
  · exact absurd rfl refused
  · next tight => rw [if_neg tight]

theorem execMixApply_keeps (c : Port) (p : Byte) : NextKeeps s (execMixApply c p s) := by
  unfold execMixApply
  split
  · exact answered_only_keeps s c _ _
  · next p _ =>
    have applied := mixApply_works s p
    have refused := mixApply_refused s p
    generalize s.mixApply p = x at applied refused ⊢
    obtain ⟨t, r⟩ := x
    cases r
    case ok => exact applied.answered_finish c _ _
    all_goals
      obtain rfl : t = s := refused (by simp)
      exact answered_only_keeps t c _ _

theorem execSpeakerStatusRead_keeps (c : Port) (p : Byte) : NextKeeps s (execSpeakerStatusRead c p s) := by
  unfold execSpeakerStatusRead
  split <;> exact answered_only_keeps s c _ _

theorem setQuiet_keeps (v : Bool) (q : Quiet) : Keeps s { s with quietPin := v, quiet := q } := by
  refine .of_frame (ch := [.quietPin, .quiet]) fun q hq => ?_
  cases q <;> first | rfl | simp at hq

theorem execSpeakersResume_keeps (c : Port) : NextKeeps s (execSpeakersResume c s) := by
  unfold execSpeakersResume
  split
  · exact nextKeeps ((setQuiet_keeps s s.quietPin .off).answer c _ _)
  · exact answered_only_keeps s c _ _
  · exact answered_only_keeps s c _ _

theorem execQuietAsserted_keeps : NextKeeps s (execQuietAsserted s) := by
  unfold execQuietAsserted
  split
  · exact nextKeeps (setQuiet_keeps s true s.quiet)
  · exact nextKeeps ((setQuiet_keeps s true .on).trans (raise_keeps _ _))
  · exact nextKeeps ((setQuiet_keeps s true .on).trans (raise_keeps _ _))

theorem execQuietDeasserted_keeps : NextKeeps s (execQuietDeasserted s) := by
  unfold execQuietDeasserted
  split
  · exact nextKeeps ((setQuiet_keeps s false s.quietAfter).trans (raise_keeps _ _))
  · exact nextKeeps (setQuiet_keeps s false s.quiet)
  · exact nextKeeps (setQuiet_keeps s false s.quiet)

/-! ### The directory -/

theorem setStaging_keeps (c : Port) (x : Staging) : Keeps s (s.setStaging c x) := .of_frame (setStaging_frame s c x)

theorem loadSlot_keeps (c : Port) (pg : Fin 128) (i : Fin 16) (x : Content) : Keeps s (s.loadSlot c pg i x).1 := by
  unfold State.loadSlot
  dsimp only
  split
  · exact .refl s
  · exact setStaging_keeps s c _

theorem execPageLoad_keeps (c : Port) (pg sl k t a : Byte) : NextKeeps s (execPageLoad c pg sl k t a s) := by
  unfold execPageLoad
  split
  · exact nextKeeps ((loadSlot_keeps s c _ _ _).answer c _ _)
  · exact answered_only_keeps s c _ _

theorem execPageDiscard_keeps (c : Port) : NextKeeps s (execPageDiscard c s) :=
  nextKeeps ((setStaging_keeps s c _).answer c _ _)

theorem execPageCommit_keeps (c : Port) (pg : Byte) : NextKeeps s (execPageCommit c pg s) := by
  unfold execPageCommit
  cases pageArg pg with
  | none => exact answered_only_keeps s c _ _
  | some page =>
    dsimp only
    by_cases other : (s.stagingOf c).page ≠ some page
    · rw [if_pos other]
      exact answered_only_keeps s c _ _
    by_cases guarded : (!(s.guardOf (pagePosition page)).allows c) = true
    · rw [if_neg other, if_pos guarded]
      exact answered_only_keeps s c _ _
    · rw [if_neg other, if_neg guarded]
      exact (applyPage_works s c page).answered_finish c _ _

theorem setGuard_settles (p : PositionId) (x : Guard) : Settles s (s.setGuard p x) :=
  .of_shown (setGuard_frame s p x) (.of_frame (setGuard_frame s p x))

theorem execGuardSet_settles (c : Port) (p g : Byte) : NextSettles s (execGuardSet c p g s) := by
  unfold execGuardSet
  repeat' split
  · exact nextSettles ((setGuard_settles s _ _).trans (answer_keeps _ c _ _).toSettles)
  · exact (answered_only_keeps s c _ _).settles
  · exact (answered_only_keeps s c _ _).settles

theorem execEntryRead_keeps (c : Port) (p k : Byte) : NextKeeps s (execEntryRead c p k s) := by
  unfold execEntryRead
  split <;> exact answered_only_keeps s c _ _

theorem execPositionWipe_settles (c : Port) (p : Byte) (mnt : Bool) : NextSettles s (execPositionWipe c p mnt s) := by
  have pinned : Keeps s { s with mntPin := mnt } := by
    refine .of_frame (ch := [.mntPin]) fun q hq => ?_
    cases q <;> first | rfl | simp at hq
  unfold execPositionWipe
  dsimp only
  repeat' split
  · exact (nextKeeps (pinned.answer c _ _)).settles
  · exact (nextKeeps (pinned.answer c _ _)).settles
  · exact (nextKeeps (pinned.answer c _ _)).settles
  · next q _ _ _ =>
    intro t e
    refine (pinned.toSettles.trans (setGuard_settles _ q .openGuard)).trans ?_
    exact ((wipe_works _ _).answered_finish c _ _ t e).toSettles

/-! ### Mixing, ports and notices -/

theorem execLevelRead_keeps (c : Port) (k n : Byte) : NextKeeps s (execLevelRead c k n s) := by
  unfold execLevelRead State.readPositionLevels State.readLineLevel
  split
  · refine nextKeeps (Keeps.answer (.of_frame (ch := [.positionClip]) fun q hq => ?_) c _ _)
    cases q <;> first | rfl | simp at hq
  · refine nextKeeps (Keeps.answer (.of_frame (ch := [.lineClip]) fun q hq => ?_) c _ _)
    cases q <;> first | rfl | simp at hq
  · exact answered_only_keeps s c _ _

theorem advanceTone_lit (x : Position) : x.advanceTone.linkUp = x.linkUp ∧ x.advanceTone.layout = x.layout ∧
    x.advanceTone.deny = x.deny ∧ ∀ h, (x.advanceTone.handset h).slot = (x.handset h).slot := by
  unfold Position.advanceTone
  split
  · exact ⟨rfl, rfl, rfl, fun h => by cases h <;> rfl⟩
  all_goals exact ⟨rfl, rfl, rfl, fun _ => rfl⟩

theorem afterPeriod_queueOk {x : Link} (h : x.queueOk) : x.afterPeriod.queueOk := by
  unfold Link.queueOk Link.afterPeriod at *
  dsimp only
  split
  · exact h.sublist ((List.drop_sublist 2 _).map _)
  · exact h
  · exact h

theorem period_keeps : Keeps s s.period := by
  have toned : Keeps s { s with positions := s.positions.map Position.advanceTone } := by
    have frame : SameExcept [.positions] s { s with positions := s.positions.map Position.advanceTone } := by
      intro q hq
      cases q <;> first | rfl | simp at hq
    have record (p : PositionId) : State.position { s with positions := s.positions.map Position.advanceTone } p =
        (s.position p).advanceTone := by simp [State.position]
    refine .of_shown frame (.of_positions frame ?_ ?_ ?_ ?_) <;> intro p
    · rw [record]; exact (advanceTone_lit _).1
    · rw [record]; exact (advanceTone_lit _).2.1
    · rw [record]; exact (advanceTone_lit _).2.2.1
    · intro h
      rw [State.slot, record]; exact (advanceTone_lit _).2.2.2 h
  have sent (t : State) : Keeps t { t with links := t.links.map Link.afterPeriod } := by
    refine .of_links (fun q hq => ?_) fun h p => ?_
    · cases q <;> first | rfl | simp at hq
    · have := afterPeriod_queueOk (h p)
      simpa [State.link, Link.queueOk] using this
  have outputs : Keeps { { s with positions := s.positions.map Position.advanceTone } with
        links := s.links.map Link.afterPeriod }
      { s with
        clock := s.clock + 1
        lineClip := Table.ofFn s.lineClipAfter
        positionClip := Table.ofFn s.positionClipAfter
        positions := s.positions.map Position.advanceTone
        turretOut := Table.ofFn s.outboundTurret
        links := s.links.map Link.afterPeriod
        highwayOut := Table.ofFn s.outboundHighway } := by
    refine .of_frame (ch := [.clock, .lineClip, .positionClip, .turretOut, .highwayOut]) fun q hq => ?_
    cases q <;> first | rfl | simp at hq
  exact ((toned.trans (sent _)).trans outputs).trans
    (.of_notices (foldl_raise_frame _ _) (foldl_raise_works _ _).told.noticesOk)

theorem setNoticeQueue_keeps (c : Port) {x : NoticeQueue} (ok : (s.noticeQueue c).ok → x.ok) :
    Keeps s (s.setNoticeQueue c x) := by
  refine .of_notices (fun q hq => ?_) fun h => setNoticeQueue_noticesOk h (ok (h c))
  cases q <;> first | rfl | simp at hq

theorem portReset_keeps (c : Port) (tag : Byte) : Keeps s (s.portReset c tag) := by
  have emptied : Keeps s ((s.setStaging c Staging.emptied).setNoticeQueue c (s.noticeQueue c).emptied) :=
    (setStaging_keeps s c _).trans (setNoticeQueue_keeps _ c fun h => NoticeQueue.ok.cleared h)
  have ports : s.portsOk → (s.portReset c tag).portsOk := portReset_portsOk c tag
  refine ⟨⟨fun h => ?_, fun h => ?_⟩, rfl⟩
  · exact (SameShown.of_frame (setPort_frame _ c _)).lampsAgree (emptied.lamps h)
  · have t := emptied.tidy h
    exact ⟨lampQueuesOk_of_links rfl t.lampQueues, noticesOk_of_notices rfl t.notices, ports h.ports, t.offers⟩

theorem transfer_keeps (c : Port) (bytes : List Byte) : Keeps s (s.transfer c bytes) := by
  have begun : Keeps s (s.beginTransfer c bytes.length) := by
    refine .of_ports ?_ (beginTransfer_portsOk c _)
    unfold State.beginTransfer
    dsimp only
    split <;> exact setPort_frame s c _
  have dispatched (t : State) (tag number : Byte) (args : List Byte) : Keeps t (t.dispatch c tag number args) := by
    by_cases reset : number.toNat = portResetNumber ∧ args.isEmpty = true
    · have : t.dispatch c tag number args = t.portReset c tag := by simp [State.dispatch, reset.1, reset.2]
      rw [this]
      exact portReset_keeps t c tag
    · refine .of_ports ?_ (dispatch_portsOk c tag number args)
      unfold State.dispatch
      repeat' split
      · next n e => exact absurd ⟨n, e⟩ reset
      all_goals exact setPort_frame t c _
  have read (t : State) (status : Byte) (n : Nat) : Keeps t (t.pureRead c status n) := by
    refine .of_ports ?_ (pureRead_portsOk c status n)
    unfold State.pureRead
    dsimp only
    repeat' split
    · exact setPort_frame t c _
    · exact setPort_frame t c _
    all_goals exact .refl _ t
  unfold State.transfer
  dsimp only
  split
  · exact begun
  · exact begun.trans (.of_ports (setPort_frame _ c _) fun h => setPort_portsOk h ((h c).congr rfl rfl rfl rfl rfl))
  · exact begun.trans (read _ _ _)
  · exact begun.trans (dispatched _ _ _ _)

theorem execResultReturn_keeps (c : Port) : NextKeeps s (execResultReturn c s) := by
  unfold execResultReturn
  split
  · exact nextKeeps (.of_ports (returnResult_frame s c _ _) (returnResult_portsOk c _ _))
  all_goals exact idle_keeps s

theorem execSetParameter_keeps (c : Port) (n : Byte) (v : Half) : NextKeeps s (execSetParameter c n v s) := by
  unfold execSetParameter
  split
  · refine nextKeeps (Keeps.answer (.of_frame (ch := [.params]) fun q hq => ?_) c _ _)
    cases q <;> first | rfl | simp at hq
  · exact answered_only_keeps s c _ _

theorem execNoticeSetup_keeps (c : Port) (m t : Byte) (a : Half) : NextKeeps s (execNoticeSetup c m t a s) := by
  unfold execNoticeSetup
  split
  · exact answered_only_keeps s c _ _
  · exact nextKeeps ((setNoticeQueue_keeps s c fun h => h.setup _ _ _).answer c _ _)

theorem returnRead_keeps (c : Port) : Keeps s (s.returnRead c) := .of_ports (returnRead_frame s c) (returnRead_portsOk c)

theorem execNoticeRead_keeps (c : Port) (n : Byte) : NextKeeps s (execNoticeRead c n s) := by
  unfold execNoticeRead
  dsimp only
  split
  · exact nextKeeps ((answer_keeps s c _ _).trans (returnRead_keeps _ c))
  · exact nextKeeps (((setNoticeQueue_keeps s c fun h => h.read _ _).answer c _ _).trans (returnRead_keeps _ c))

theorem execAgeTimerExpiry_keeps (c : Port) : NextKeeps s (execAgeTimerExpiry c s) := by
  unfold execAgeTimerExpiry
  split
  · exact nextKeeps ((reach_keeps s _).trans (setNoticeQueue_keeps _ c fun h => NoticeQueue.ok.aged h))
  · exact idle_keeps s

/-! ### Links -/

/-- The loss of a link empties its lamp queue before its work, and ends as an event. -/
theorem linkLoss_keeps (p : PositionId) (cause : LossCause) : Keeps s (s.linkLoss p cause) := by
  have lost : Keeps s (s.setLink p ((s.link p).lost cause)) := .setLink p fun _ => by
    cases cause <;> exact List.nodup_nil
  have worked := (positionLinkLoss_works { s.setLink p ((s.link p).lost cause) with
      lamps := s.lamps.set p { s.lamps.get p with stale := true } } p).trans (raise_works _ (.linkDown p cause))
  refine ⟨⟨fun _ => finish_lampsAgree _, fun tidy => ?_⟩, worked.finish.guards⟩
  have stale : State.tidy { s.setLink p ((s.link p).lost cause) with
      lamps := s.lamps.set p { s.lamps.get p with stale := true } } := by
    obtain ⟨lampQueues, notices, ports, offers⟩ := lost.tidy tidy
    exact ⟨lampQueuesOk_of_links rfl lampQueues, noticesOk_of_notices rfl notices, portsOk_of_ports rfl ports, offers⟩
  exact worked.finish_tidy stale

theorem judgeAnnounce_keeps (p : PositionId) (kc kn : Byte) : Keeps s (s.judgeAnnounce p kc kn) := by
  unfold State.judgeAnnounce
  split
  · exact raise_keeps s _
  · next y _ =>
    have up : Keeps s (s.setLink p
        { s.link p with state := .up, layout := some y, knobCount := min 2 kn.toNat, attachDue := true }) :=
      .setLink p fun h => h
    refine ⟨⟨fun _ => finish_lampsAgree _, fun tidy => ?_⟩, (finish_frame _ .guards (by decide)).trans rfl⟩
    obtain ⟨lampQueues, notices, ports, offers⟩ := up.tidy tidy
    refine (raise_works _ _).finish_tidy ⟨fullRefresh_lampQueuesOk p (lampQueuesOk_of_links rfl lampQueues),
      noticesOk_of_notices rfl notices, portsOk_of_ports rfl ports, offers⟩

theorem execAnnounce_keeps (p : PositionId) (kc kn : Byte) : NextKeeps s (execAnnounce p kc kn s) := by
  have taken := takeDelivered_keeps s p (.announce kc kn)
  have after (t : State) : Keeps t (t.setLink p (t.link p).afterAnnounce) := .setLink p fun h => by
    unfold Link.afterAnnounce
    split <;> exact h
  unfold execAnnounce
  dsimp only
  split
  · exact nextKeeps taken
  · exact nextKeeps ((taken.trans (judgeAnnounce_keeps _ p kc kn)).trans (after _))
  · exact nextKeeps (((taken.trans (linkLoss_keeps _ p _)).trans (judgeAnnounce_keeps _ p kc kn)).trans (after _))

theorem execLossTimerExpiry_keeps (p : PositionId) : NextKeeps s (execLossTimerExpiry p s) := by
  unfold execLossTimerExpiry
  split
  · exact idle_keeps s
  · next due _ =>
    dsimp only
    split
    · exact nextKeeps ((reach_keeps s due).trans (linkLoss_keeps _ p _))
    · exact nextKeeps ((reach_keeps s due).trans (.setLink p fun _ => List.nodup_nil))
    · exact nextKeeps (reach_keeps s due)

theorem execTurretFrame_keeps (p : PositionId) (f : TurretFrame) : NextKeeps s (execTurretFrame p f s) := by
  refine nextKeeps (.setLink p fun h => ?_)
  cases f <;> exact h

theorem execHighwayFrame_keeps (slots : Table 160 Timeslot) : NextKeeps s (execHighwayFrame slots s) := by
  refine nextKeeps (.of_frame (ch := [.highway]) fun q hq => ?_)
  cases q <;> first | rfl | simp at hq

theorem execLinkUpAttach_keeps (p : PositionId) : NextKeeps s (execLinkUpAttach p s) := by
  have taken : Keeps s (s.setLink p { s.link p with attachDue := false }) := .setLink p fun h => h
  exact nextKeeps (taken.trans (linkUpTakes_works _ p).finish)

/-! ### Every command -/

/-- Only reset, GUARD SET and POSITION WIPE can move a guard. -/
theorem exec_keeps (i : Instr) : (∃ q m, i = .powerOnReset q m) ∨ (∃ c p g, i = .guardSet c p g) ∨
    (∃ c p m, i = .positionWipe c p m) ∨ NextKeeps s (exec i s) := by
  cases i with
  | powerOnReset q m => exact .inl ⟨q, m, rfl⟩
  | lineConfigure c l k b r => exact .inr (.inr (.inr (execLineConfigure_keeps s c l k b r)))
  | lineService c l d => exact .inr (.inr (.inr (execLineService_keeps s c l d)))
  | lineStatusRead c l => exact .inr (.inr (.inr (execLineStatusRead_keeps s c l)))
  | lineClearMissed c l => exact .inr (.inr (.inr (execLineClearMissed_keeps s c l)))
  | keyInject c p k x n d => exact .inr (.inr (.inr (execKeyInject_keeps s c p k x n d)))
  | positionConfigure c p sw al hs rs t => exact .inr (.inr (.inr (execPositionConfigure_keeps s c p sw al hs rs t)))
  | positionStatusRead c p => exact .inr (.inr (.inr (execPositionStatusRead_keeps s c p)))
  | groupDefine c g t f => exact .inr (.inr (.inr (execGroupDefine_keeps s c g t f)))
  | groupUndefine c g => exact .inr (.inr (.inr (execGroupUndefine_keeps s c g)))
  | memberAdd c g p k => exact .inr (.inr (.inr (execMemberAdd_keeps s c g p k)))
  | memberRemove c g p => exact .inr (.inr (.inr (execMemberRemove_keeps s c g p)))
  | groupStatusRead c g => exact .inr (.inr (.inr (execGroupStatusRead_keeps s c g)))
  | planSet c p n sk sn lv ls tb => exact .inr (.inr (.inr (execPlanSet_keeps s c p n sk sn lv ls tb)))
  | planPosition c p d f => exact .inr (.inr (.inr (execPlanPosition_keeps s c p d f)))
  | mixApply c p => exact .inr (.inr (.inr (execMixApply_keeps s c p)))
  | speakerStatusRead c p => exact .inr (.inr (.inr (execSpeakerStatusRead_keeps s c p)))
  | speakersResume c => exact .inr (.inr (.inr (execSpeakersResume_keeps s c)))
  | levelRead c k n => exact .inr (.inr (.inr (execLevelRead_keeps s c k n)))
  | pageLoad c pg sl k t a => exact .inr (.inr (.inr (execPageLoad_keeps s c pg sl k t a)))
  | pageCommit c pg => exact .inr (.inr (.inr (execPageCommit_keeps s c pg)))
  | pageDiscard c => exact .inr (.inr (.inr (execPageDiscard_keeps s c)))
  | guardSet c p g => exact .inr (.inl ⟨c, p, g, rfl⟩)
  | entryRead c p k => exact .inr (.inr (.inr (execEntryRead_keeps s c p k)))
  | positionWipe c p mnt => exact .inr (.inr (.inl ⟨c, p, mnt, rfl⟩))
  | portReset c tag => exact .inr (.inr (.inr (nextKeeps (portReset_keeps s c tag))))
  | setParameter c n v => exact .inr (.inr (.inr (execSetParameter_keeps s c n v)))
  | parameterRead c => exact .inr (.inr (.inr (answered_only_keeps s c _ _)))
  | noticeSetup c m t a => exact .inr (.inr (.inr (execNoticeSetup_keeps s c m t a)))
  | noticeRead c n => exact .inr (.inr (.inr (execNoticeRead_keeps s c n)))
  | requestFrame c bytes => exact .inr (.inr (.inr (nextKeeps (transfer_keeps s c bytes))))
  | malformedFrame c bytes => exact .inr (.inr (.inr (nextKeeps (transfer_keeps s c bytes))))
  | statusPoll c bytes => exact .inr (.inr (.inr (nextKeeps (transfer_keeps s c bytes))))
  | pureRead c bytes => exact .inr (.inr (.inr (nextKeeps (transfer_keeps s c bytes))))
  | resultReturn c => exact .inr (.inr (.inr (execResultReturn_keeps s c)))
  | keyDown p k =>
    refine .inr (.inr (.inr (turretEvent_keeps s p _ fun t => ?_)))
    split
    · exact pressKey_works t p k .turret
    · exact .refl t
  | hold p => exact .inr (.inr (.inr (turretEvent_keeps s p _ fun t => holdKey_works t p .turret)))
  | release p => exact .inr (.inr (.inr (turretEvent_keeps s p _ fun t => releaseSlot_works t p _)))
  | answer p => exact .inr (.inr (.inr (turretEvent_keeps s p _ fun t => answerHead_works t p _ .turret)))
  | privacy p => exact .inr (.inr (.inr (turretEvent_keeps s p _ fun t => privacyKey_works t p .turret)))
  | selectH0 p => exact .inr (.inr (.inr (turretEvent_keeps s p _ fun t => selectKey_works t p .h0)))
  | selectH1 p => exact .inr (.inr (.inr (turretEvent_keeps s p _ fun t => selectKey_works t p .h1)))
  | ringSilence p => exact .inr (.inr (.inr (turretEvent_keeps s p _ fun t => silenceKey_works t p)))
  | spkMute p n =>
    exact .inr (.inr (.inr (turretEvent_keeps s p _ fun t => channelResult_works t p n _ (.of_frame (muteKey_frame t p n)))))
  | spkTalkDown p n =>
    exact .inr (.inr (.inr (turretEvent_keeps s p _ fun t => channelResult_works t p n _ (talkKeyDown_works t p n))))
  | spkTalkUp p n => exact .inr (.inr (.inr (turretEvent_keeps s p _ fun t => talkKeyUp_works t p n)))
  | hookOn p h => exact .inr (.inr (.inr (turretEvent_keeps s p _ fun t => hookOnEvent_works t p h)))
  | hookOff p h => exact .inr (.inr (.inr (turretEvent_keeps s p _ fun t => hookOffEvent_works t p h)))
  | knob p j a b =>
    refine .inr (.inr (.inr (turretEvent_keeps s p _ fun t => ?_)))
    split
    · exact knobEvent_works t p j a b
    · exact .refl t
  | turretFrame p f => exact .inr (.inr (.inr (execTurretFrame_keeps s p f)))
  | announce p kc kn => exact .inr (.inr (.inr (execAnnounce_keeps s p kc kn)))
  | lossTimerExpiry p => exact .inr (.inr (.inr (execLossTimerExpiry_keeps s p)))
  | linkUpAttach p => exact .inr (.inr (.inr (execLinkUpAttach_keeps s p)))
  | highwayFrame slots => exact .inr (.inr (.inr (execHighwayFrame_keeps s slots)))
  | signalChange l now => exact .inr (.inr (.inr (execSignalChange_keeps s l now)))
  | burstExpiry l => exact .inr (.inr (.inr (execBurstExpiry_keeps s l)))
  | answerWaitExpiry l => exact .inr (.inr (.inr (execAnswerWaitExpiry_keeps s l)))
  | holdExpiry l => exact .inr (.inr (.inr (execHoldExpiry_keeps s l)))
  | recallExpiry l => exact .inr (.inr (.inr (execRecallExpiry_keeps s l)))
  | guardExpiry l => exact .inr (.inr (.inr (execGuardExpiry_keeps s l)))
  | denyTimerExpiry p x => exact .inr (.inr (.inr (execDenyTimerExpiry_keeps s p x)))
  | cadenceTimerExpiry p => exact .inr (.inr (.inr (execCadenceTimerExpiry_keeps s p)))
  | floorTimerExpiry g p => exact .inr (.inr (.inr (execFloorTimerExpiry_keeps s g p)))
  | ageTimerExpiry c => exact .inr (.inr (.inr (execAgeTimerExpiry_keeps s c)))
  | quietAsserted => exact .inr (.inr (.inr (execQuietAsserted_keeps s)))
  | quietDeasserted => exact .inr (.inr (.inr (execQuietDeasserted_keeps s)))
  | samplePeriod => exact .inr (.inr (.inr (nextKeeps (period_keeps s))))

theorem exec_settles (i : Instr) : (∃ q m, i = .powerOnReset q m) ∨ NextSettles s (exec i s) := by
  rcases exec_keeps s i with reset | ⟨c, p, g, rfl⟩ | ⟨c, p, m, rfl⟩ | keeps
  · exact .inl reset
  · exact .inr (execGuardSet_settles s c p g)
  · exact .inr (execPositionWipe_settles s c p m)
  · exact .inr keeps.settles

/-! ### Reset -/

theorem powerOn_lampsAgree (q m : Bool) (pending : List Instr) :
    State.lampsAgree { State.powerOn q m with pending := pending } := by
  intro p up
  rw [powerOn_position] at up
  exact absurd up (by decide)

theorem powerOn_tidy (q m : Bool) (pending : List Instr) : State.tidy { State.powerOn q m with pending := pending } := by
  refine ⟨fun p => ?_, fun c => ?_, fun c => ?_, rfl⟩
  · have reset : State.link { State.powerOn q m with pending := pending } p = Link.powerOn := Table.get_fill _ p
    rw [reset]
    exact List.nodup_nil
  · have reset : State.noticeQueue { State.powerOn q m with pending := pending } c = NoticeQueue.powerOn :=
      Table.get_fill _ c
    rw [reset]
    exact ⟨Nat.zero_le _, .inl rfl, by decide, rfl⟩
  · have reset : State.port { State.powerOn q m with pending := pending } c = PortRecord.powerOn := Table.get_fill _ c
    rw [reset]
    exact ⟨rfl, by simp [PortRecord.powerOn], fun _ => rfl, rfl, fun _ => rfl⟩

theorem step_keeps_tidy {s t : State} (stepped : step s = .next t) :
    (s.lampsAgree → t.lampsAgree) ∧ (s.tidy → t.tidy) := by
  unfold step at stepped
  split at stepped
  · cases stepped
    exact ⟨id, id⟩
  next c rest _ =>
  have front : Keeps s { s with pending := rest } := by
    refine .of_frame (ch := [.pending]) fun q hq => ?_
    cases q <;> first | rfl | simp at hq
  rcases exec_settles { s with pending := rest } c with ⟨q, m, rfl⟩ | settles
  · cases stepped
    exact ⟨fun _ => powerOn_lampsAgree q m rest, fun _ => powerOn_tidy q m rest⟩
  · have both := front.toSettles.trans (settles t stepped)
    exact ⟨both.lamps, both.tidy⟩

/-- Settles O11: a command writes images, queues and ports through a few operations, each of which keeps them, and an event
ends with the comparison of every lamp. -/
theorem stepKeepsRanges : Obligations.StepKeepsRanges := by
  refine ⟨fun s t knobs stepped => step_knobsOk knobs stepped, fun s t lamps stepped => (step_keeps_tidy stepped).1 lamps,
    fun s t lampQueues notices ports offers stepped => ?_⟩
  have tidy := (step_keeps_tidy stepped).2 ⟨lampQueues, notices, ports, offers⟩
  exact ⟨tidy.lampQueues, tidy.notices, tidy.ports, tidy.offers⟩

end Sys2Proof.Machine
end

section
/-! PROOFS. What commands have in common: the arguments they read, the answer of a port, and the end of an event that leaves
no attach opportunity to take. -/

namespace Sys2Proof.Machine

-- One theorem after another: side by side they hold the memory of too many stacks.
set_option Elab.async false

/-! ### Bytes -/

theorem byteOf_toNat {n : Nat} (h : n < 256) : (byteOf n).toNat = n := by
  simp only [byteOf, BitVec.toNat_ofNat]
  omega

@[simp] theorem byteOf_line (l : LineId) : (byteOf l.val).toNat = l.val := byteOf_toNat (by omega)
@[simp] theorem byteOf_position (p : PositionId) : (byteOf p.val).toNat = p.val := byteOf_toNat (by omega)
@[simp] theorem byteOf_group (g : GroupId) : (byteOf g.val).toNat = g.val := byteOf_toNat (by omega)
@[simp] theorem byteOf_key (k : Key) : (byteOf k.val).toNat = k.val := byteOf_toNat (by omega)
@[simp] theorem byteOf_page (k : Fin 128) : (byteOf k.val).toNat = k.val := byteOf_toNat (by omega)
@[simp] theorem byteOf_channel (n : ChannelId) : (byteOf n.val).toNat = n.val := byteOf_toNat (by omega)

/-! ### Arguments that are read -/

theorem numberArg_byteOf {n : Nat} (i : Fin n) (h : n ≤ 256) : numberArg n (byteOf i.val) = some i := by
  have : (byteOf i.val).toNat = i.val := byteOf_toNat (by omega)
  simp [numberArg, this]

@[simp] theorem lineArg_byteOf (l : LineId) : lineArg (byteOf l.val) = some l := numberArg_byteOf l (by decide)
@[simp] theorem positionArg_byteOf (p : PositionId) : positionArg (byteOf p.val) = some p := numberArg_byteOf p (by decide)
@[simp] theorem groupArg_byteOf (g : GroupId) : groupArg (byteOf g.val) = some g := numberArg_byteOf g (by decide)
@[simp] theorem channelArg_byteOf (n : ChannelId) : channelArg (byteOf n.val) = some n := numberArg_byteOf n (by decide)
@[simp] theorem keyArg_byteOf (k : Key) : keyArg (byteOf k.val) = some k := numberArg_byteOf k (by decide)
@[simp] theorem pageArg_byteOf (pg : Fin 128) : pageArg (byteOf pg.val) = some pg := numberArg_byteOf pg (by decide)
@[simp] theorem slotArg_byteOf (i : Fin 16) : slotArg (byteOf i.val) = some i := numberArg_byteOf i (by decide)
@[simp] theorem classArg_byteOf (k : LineClass) : classArg (byteOf k.code) = some k := by cases k <;> rfl
@[simp] theorem bargeArg_byteOf (b : BargePolicy) : bargeArg (byteOf b.code) = some b := by cases b <;> rfl
@[simp] theorem ringdownArg_byteOf (r : Ringdown) : ringdownArg (byteOf r.code) = some r := by cases r <;> rfl

/-! ### Arguments out of range -/

theorem numberArg_val {n : Nat} {b : Byte} {i : Fin n} (h : numberArg n b = some i) : i.val = b.toNat := by
  unfold numberArg at h
  split at h
  · cases h; rfl
  · cases h

/-- A number that was read is in its range. -/
theorem numberArg_lt {n : Nat} {b : Byte} {i : Fin n} (h : numberArg n b = some i) : b.toNat < n := by
  rw [← numberArg_val h]
  exact i.isLt

theorem lineArg_lt {b : Byte} {l : LineId} (h : lineArg b = some l) : b.toNat < 160 := numberArg_lt h
theorem positionArg_lt {b : Byte} {p : PositionId} (h : positionArg b = some p) : b.toNat < 32 := numberArg_lt h
theorem groupArg_lt {b : Byte} {g : GroupId} (h : groupArg b = some g) : b.toNat < 16 := numberArg_lt h
theorem channelArg_lt {b : Byte} {n : ChannelId} (h : channelArg b = some n) : b.toNat < 8 := numberArg_lt h
theorem keyArg_lt {b : Byte} {k : Key} (h : keyArg b = some k) : b.toNat < 64 := numberArg_lt h
theorem pageArg_lt {b : Byte} {k : Fin 128} (h : pageArg b = some k) : b.toNat < 128 := numberArg_lt h
theorem slotArg_lt {b : Byte} {k : Fin 16} (h : slotArg b = some k) : b.toNat < 16 := numberArg_lt h

theorem flagArg_lt {b : Byte} {v : Bool} (h : flagArg b = some v) : b.toNat < 2 := by
  unfold flagArg at h
  split at h <;> first | omega | cases h

theorem classArg_lt {b : Byte} {v : LineClass} (h : classArg b = some v) : b.toNat < 2 := by
  unfold classArg at h
  split at h <;> first | omega | cases h

theorem bargeArg_lt {b : Byte} {v : BargePolicy} (h : bargeArg b = some v) : b.toNat < 2 := by
  unfold bargeArg at h
  split at h <;> first | omega | cases h

theorem ringdownArg_lt {b : Byte} {v : Ringdown} (h : ringdownArg b = some v) : b.toNat < 2 := by
  unfold ringdownArg at h
  split at h <;> first | omega | cases h

theorem directionArg_lt {b : Byte} {v : ServiceDirection} (h : directionArg b = some v) : b.toNat < 2 := by
  unfold directionArg at h
  split at h <;> first | omega | cases h

theorem switchAwayArg_lt {b : Byte} {v : SwitchAway} (h : switchAwayArg b = some v) : b.toNat < 2 := by
  unfold switchAwayArg at h
  split at h <;> first | omega | cases h

theorem loudspeakerArg_lt {b : Byte} {v : Loudspeaker} (h : loudspeakerArg b = some v) : b.toNat < 2 := by
  unfold loudspeakerArg at h
  split at h <;> first | omega | cases h

theorem guardArg_lt {b : Byte} {v : GuardName} (h : guardArg b = some v) : b.toNat < 4 := by
  unfold guardArg at h
  split at h <;> first | omega | cases h

theorem toneArg_hertz {b : Half} {v : RingerTone} (h : toneArg b = some v) :
    b.toNat = 400 ∨ b.toNat = 500 ∨ b.toNat = 800 ∨ b.toNat = 1000 := by
  unfold toneArg at h
  split at h <;> first | omega | cases h

theorem talkerLimitArg_range {b : Byte} {t : Nat} (h : talkerLimitArg b = some t) :
    t = b.toNat ∧ 1 ≤ b.toNat ∧ b.toNat ≤ 8 := by
  unfold talkerLimitArg at h
  split at h <;> cases h
  next limit => exact ⟨rfl, limit⟩

theorem sourceArg_range {k n : Byte} {v : Option Source} (h : sourceArg k n = some v) :
    k.toNat < 3 ∧ (k.toNat = 1 → n.toNat < 160) ∧ (k.toNat = 2 → n.toNat < 16) := by
  unfold sourceArg at h
  split at h
  · omega
  · next one =>
    obtain ⟨l, e, -⟩ := Option.map_eq_some_iff.1 h
    have := lineArg_lt e
    omega
  · next two =>
    obtain ⟨g, e, -⟩ := Option.map_eq_some_iff.1 h
    have := groupArg_lt e
    omega
  · cases h

theorem contentArg_range {k n a : Byte} {v : Content} (h : contentArg k n a = some v) :
    k.toNat < 3 ∧ (k.toNat = 1 → n.toNat < 160) ∧ (k.toNat = 2 → n.toNat < 16) := by
  unfold contentArg at h
  split at h
  · omega
  · next one =>
    obtain ⟨l, e, -⟩ := Option.map_eq_some_iff.1 h
    have := lineArg_lt e
    omega
  · next two =>
    obtain ⟨g, e, -⟩ := Option.map_eq_some_iff.1 h
    have := groupArg_lt e
    omega
  · cases h

theorem funcArg_lt {b : Byte} {f : Func} (h : funcArg b = some f) : b.toNat < 9 := by
  unfold funcArg at h
  split at h <;> first | omega | cases h

/-- The channel of SPK_MUTE and SPK_TALK, the functions 7 and 8, is read and in range. -/
theorem injectChannel_range {b ch : Byte} {f : Func} {n : ChannelId} (h : funcArg b = some f)
    (read : injectChannel f ch = some n) : 7 ≤ b.toNat → ch.toNat < 8 := by
  intro seven
  unfold funcArg at h
  split at h <;> first | omega | cases h
  · exact channelArg_lt read
  · exact channelArg_lt read

/-- The event of a KEY INJECT has its kind, code, channel and direction in range, and a key that the layout has. -/
theorem injectArg_range {y : Layout} {kind code ch dir : Byte} {e : InjectEvent}
    (h : injectArg y kind code ch dir = some e) :
    dir.toNat < 2 ∧ kind.toNat < 2 ∧ (kind.toNat = 0 → code.toNat < y.keyCount ∧ code.toNat < 64) ∧
      (kind.toNat = 1 → code.toNat < 9 ∧ (7 ≤ code.toNat → ch.toNat < 8)) := by
  unfold injectArg at h
  split at h
  · next key flag =>
    have := flagArg_lt flag
    split at h
    · next k read =>
      have := keyArg_lt read
      have val : k.val = code.toNat := numberArg_val read
      split at h
      · omega
      · cases h
    · cases h
  · next func flag =>
    have := flagArg_lt flag
    split at h
    · next f read =>
      obtain ⟨n, e, -⟩ := Option.map_eq_some_iff.1 h
      have := funcArg_lt read
      have := injectChannel_range read e
      exact ⟨by omega, by omega, by omega, fun _ => ⟨by omega, this⟩⟩
    · cases h
  · cases h

theorem maskArg_lt {b : Byte} {m : BitVec 6} (h : maskArg b = some m) : b.toNat < 64 := by
  unfold maskArg at h
  split at h
  · assumption
  · cases h

/-- A parameter that can be set has a number up to 6, and QUIET_AUTORESUME the value 0 or 1. -/
theorem Params.set_range {x : Params} {n v : Nat} {y : Params × Nat} (h : x.set n v = some y) : n < 7 ∧ (n = 6 → v < 2) := by
  unfold Params.set at h
  split at h
  case h_7 =>
    split at h
    · omega
    · omega
    · cases h
  case h_8 => cases h
  all_goals omega

/-! ### Answers -/

/-- The answer of a port is its own alone. -/
theorem answered_of_ports {s t u : State} {c : Port} {r : ResultCode} {d : List Byte} (before : u.ports = s.ports)
    (after : t.ports = (u.answer c r d).ports) : Answered c r d s t := by
  have port (c' : Port) : t.port c' = (s.answer c r d).port c' := by
    simp only [State.port, after, State.answer, State.setPort, before]
  refine ⟨?_, fun c' ne => ?_⟩
  · rw [port]; simp [State.answer, State.setPort, State.port]
  · rw [port]; simp [State.answer, State.setPort, State.port, ne]

theorem answer_answered (s : State) (c : Port) (r : ResultCode) (d : List Byte) : Answered c r d s (s.answer c r d) :=
  answered_of_ports rfl rfl

/-- A command that only answers. -/
theorem next_answered {s : State} {o : Host.Outcome State Fault Refusal} {c : Port} {r : ResultCode} {d : List Byte}
    (h : o = .next (s.answer c r d)) : ∃ t, o = .next t ∧ Answered c r d s t ∧ SameExcept [.ports] s t :=
  ⟨_, h, answer_answered s c r d, answer_frame s c r d⟩

/-! ### The end of an event -/

/-- State `t` is `u` after an end of event that took no attach opportunity: lamp updates alone were handed. -/
structure Ended (u t : State) : Prop where
  frame : SameExcept [.offers, .links, .lamps] u t
  queues : OnlyLampQueues u t
  offers : t.offers = []

theorem finish_ended {u : State} (h : ∀ l ∈ u.offers, u.noneWaits l) : Ended u u.finish := by
  refine ⟨?_, finish_queues u, rfl⟩
  rw [finish_none u h]
  intro q hq
  cases q <;> first | rfl | simp at hq

theorem finish_ended_none {u : State} (h : u.offers = []) : Ended u u.finish := finish_ended (by simp [h])

section
variable {s t u : State} (e : Ended u t)
include e

theorem Ended.line (l : LineId) : t.line l = u.line l := by rw [State.line, e.frame .lines (by decide)]; rfl

theorem Ended.position (p : PositionId) : t.position p = u.position p := by
  rw [State.position, e.frame .positions (by decide)]; rfl

theorem Ended.positions : t.positions = u.positions := e.frame .positions (by decide)

theorem Ended.group (g : GroupId) : t.group g = u.group g := by rw [State.group, e.frame .groups (by decide)]; rfl

theorem Ended.speaker (p : PositionId) : t.speaker p = u.speaker p := by
  rw [State.speaker, e.frame .speakers (by decide)]; rfl

theorem Ended.speakers : t.speakers = u.speakers := e.frame .speakers (by decide)

theorem Ended.channel (p : PositionId) (n : ChannelId) : t.channel p n = u.channel p n := by
  rw [State.channel, e.speaker]; rfl

theorem Ended.entry (p : PositionId) (k : Key) : t.entry p k = u.entry p k := by
  rw [State.entry, e.frame .directory (by decide)]; rfl

theorem Ended.slot (p : PositionId) (h : Handset) : t.slot p h = u.slot p h := by rw [State.slot, e.position]; rfl

theorem Ended.clock : t.clock = u.clock := e.frame .clock (by decide)

theorem Ended.termCount : t.termCount = u.termCount := e.frame .termCount (by decide)

theorem Ended.raised {bs : List NoticeBody} (h : Raised bs s u) : Raised bs s t :=
  h.congr rfl (e.frame .notices (by decide)) e.clock

theorem Ended.answered {c : Port} {r : ResultCode} {d : List Byte} {v : State} (before : v.ports = s.ports)
    (after : u.ports = (v.answer c r d).ports) : Answered c r d s t :=
  answered_of_ports before ((e.frame .ports (by decide)).trans after)

theorem Ended.onlyLampQueues (links : u.links = s.links) : OnlyLampQueues s t := (OnlyLampQueues.of_links links).trans e.queues

/-- What an event changed and its end, from a state without opportunities to one without. -/
theorem Ended.same {ch ch' : List Part} (before : SameExcept ch s u) (none : s.offers = [])
    (sub : ∀ q ∈ ch, q ∈ Part.offers :: ch' := by decide) (lit : Part.links ∈ ch' ∧ Part.lamps ∈ ch' := by decide) :
    SameExcept ch' s t := by
  have all : SameExcept (.offers :: ch') s t := by
    refine (before.mono sub).trans (e.frame.mono fun q hq => ?_)
    simp only [List.mem_cons, List.not_mem_nil, or_false] at hq
    rcases hq with rfl | rfl | rfl
    · exact List.mem_cons_self
    · exact List.mem_cons_of_mem _ lit.1
    · exact List.mem_cons_of_mem _ lit.2
  intro q hq
  by_cases o : q = .offers
  · subst o
    exact e.offers.trans none.symm
  · exact all q (by simp [o, hq])

end

end Sys2Proof.Machine
end

section
/-! PROOFS. The machine and its requests: the front command, power-on, the frames of requests and refused arguments. -/

namespace Sys2Proof.Machine

-- One theorem after another: side by side they hold the memory of too many stacks.
set_option Elab.async false

/-- Settles O1: with a command at the front, `step` is `exec` of it by definition. -/
theorem stepRunsFront : Obligations.StepRunsFront := by
  intro s c rest front
  simp [step, front]

/-! ### Power-on -/

/-- The power-on position record, field by field (R33). -/
theorem Position.powerOn_fields : Position.powerOn.ringerCondition = .stopped ∧
    (∀ h, (Position.powerOn.handset h).hook = .on ∧ (Position.powerOn.handset h).slot = none) ∧
    (∀ j, Position.powerOn.knob j = ⟨false, false, 0⟩) ∧ ∀ x, Position.powerOn.deny.get x = none := by
  refine ⟨rfl, fun h => ?_, fun j => ?_, fun x => ?_⟩
  · cases h <;> exact ⟨rfl, rfl⟩
  · unfold Position.knob
    split <;> rfl
  · exact Table.get_fill none x

/-- Settles O2: every table of `State.powerOn` is filled with its power-on record. -/
theorem powerOnValues : Obligations.PowerOnValues := by
  intro q m s
  obtain ⟨stopped, handsets, knobs, deny⟩ := Position.powerOn_fields
  refine ⟨{ State.powerOn q m with pending := s.pending }, rfl, rfl, fun l => powerOn_line q m _ l, fun p => ?_,
    fun p => ?_, fun g => Table.get_fill _ g, fun p n => powerOn_channel q m _ p n, fun p => ?_, rfl, rfl,
    fun l => Table.get_fill _ l, fun p o => ?_, fun p k => powerOn_entry q m _ p k, fun p => Table.get_fill _ p,
    fun c => ?_, fun p => ?_, fun l => ?_, fun c => ?_, rfl, fun c => ?_, ?_⟩
  · have slots (h : Handset) : State.hook { State.powerOn q m with pending := s.pending } p h = .on ∧
        State.slot { State.powerOn q m with pending := s.pending } p h = none := by
      rw [State.hook, State.slot, powerOn_position]
      exact handsets h
    refine ⟨?_, ?_, slots, ?_⟩
    all_goals simp only [State.selected, powerOn_position]
    · rfl
    · rfl
    · exact ⟨rfl, rfl, rfl, rfl, rfl, rfl, rfl, stopped, rfl, knobs, deny⟩
  · have reset : State.lamps { State.powerOn q m with pending := s.pending } = Table.fill 32 LampImage.powerOn := rfl
    rw [reset, Table.get_fill]
    exact ⟨rfl, fun x => Table.get_fill _ x⟩
  · have reset : State.speaker { State.powerOn q m with pending := s.pending } p = Speaker.powerOn := Table.get_fill _ p
    rw [reset]
    exact ⟨fun n => Table.get_fill _ n, rfl, rfl, rfl, rfl, rfl, rfl⟩
  · have reset : State.positionClip { State.powerOn q m with pending := s.pending } =
        Table.fill 32 ⟨false, false, false, false⟩ := rfl
    rw [reset, Table.get_fill]
    cases o <;> rfl
  · have reset : State.stagingOf { State.powerOn q m with pending := s.pending } c = Staging.emptied := Table.get_fill _ c
    rw [reset]
    exact ⟨rfl, fun i => Table.get_fill _ i⟩
  · have reset : State.link { State.powerOn q m with pending := s.pending } p = Link.powerOn := Table.get_fill _ p
    rw [reset]
    exact ⟨rfl, rfl, rfl, rfl, rfl⟩
  · have reset : State.highway { State.powerOn q m with pending := s.pending } = Table.fill 160 HighwayLine.powerOn := rfl
    rw [reset, Table.get_fill]
    rfl
  · have reset : State.port { State.powerOn q m with pending := s.pending } c = PortRecord.powerOn := Table.get_fill _ c
    rw [reset]
    exact ⟨rfl, rfl, rfl, rfl, rfl, rfl⟩
  · have queue : State.noticeQueue { State.powerOn q m with pending := s.pending } c = NoticeQueue.powerOn :=
      Table.get_fill _ c
    have port : State.port { State.powerOn q m with pending := s.pending } c = PortRecord.powerOn := Table.get_fill _ c
    rw [State.attn, queue, port]
    exact ⟨rfl, rfl⟩
  · rintro rfl rfl
    rfl

/-- Settles O3: every invariant holds of the power-on tables, with both inputs deasserted. -/
theorem resetMeetsInvariants : Obligations.ResetMeetsInvariants := by
  have attach := powerOn_attachOk false false []
  have rings := (ringsFor_full_iff _).1 (powerOn_ringsOk (full := True) false false [])
  have tidy := powerOn_tidy false false []
  exact ⟨(termsAgree_iff _).2 (powerOn_balanced false false), powerOn_linesOk false false [], powerOn_slotsAgree false false [],
    attach.1, attach.2, powerOn_pendingBound false false [], rings.1, rings.2, powerOn_groupsOk false false [],
    powerOn_knobsOk false false [], powerOn_lampsAgree false false [], tidy.lampQueues, tidy.notices, tidy.ports,
    tidy.offers⟩

/-! ### Request frames -/

/-- The two bytes of a frame length read back as that length. -/
theorem frameLength_halfBytes {n : Nat} (h : n < 65536) : frameLength (byteOf (n / 256)) (byteOf n) = n := by
  simp only [frameLength, byteOf, BitVec.toNat_ofNat]
  omega

/-- The transfer of a frame, whatever bytes follow it, is judged the request it carries (R164). -/
theorem judgeTransfer_frame (tag : Byte) (n : Nat) (args extra : List Byte) (short : args.length + 2 < 65536) :
    judgeTransfer (frameBytes tag n args ++ extra) = .request tag (byteOf n) args := by
  have length := frameLength_halfBytes short
  simp only [frameBytes, halfBytes, List.cons_append, List.nil_append, judgeTransfer, length]
  rw [if_neg (by omega), if_neg (by omega), if_neg (by simp)]
  simp

/-- The two bytes of a 16-bit argument put together again. -/
theorem halfArg_bytes (v : Half) : v.extractLsb' 8 8 ++ v.extractLsb' 0 8 = v := by
  apply BitVec.eq_of_getLsbD_eq
  intro i hi
  simp only [BitVec.getLsbD_append, BitVec.getLsbD_extractLsb']
  by_cases low : i < 8
  · simp [low]
  · have high : i - 8 < 8 := by omega
    have back : 8 + (i - 8) = i := by omega
    simp [low, high, back]

/-- A request of the catalogue whose command comes back from its number and arguments reads back as that request. -/
theorem frame_readsBack {i : Instr} {n : Nat} {args : List Byte} (counted : catalogueArgs n = some args.length)
    (small : n < 256) (short : args.length < 8) (back : ∃ c tag mnt, requestCommand c tag mnt n args = some i) :
    catalogueArgs n = some args.length ∧
      (∀ (tag : Byte) (extra : List Byte),
        judgeTransfer (frameBytes tag n args ++ extra) = .request tag (byteOf n) args ∧ (byteOf n).toNat = n) ∧
      ∃ c tag mnt, requestCommand c tag mnt n args = some i :=
  ⟨counted, fun tag extra => ⟨judgeTransfer_frame tag n args extra (by omega), byteOf_toNat small⟩, back⟩

/-- Settles O12: the length field counts the arguments, and the catalogue names each request by its number. -/
theorem requestFramesReadBack : Obligations.RequestFramesReadBack := by
  intro i n args request
  cases i <;> simp only [requestBytes, reduceCtorEq, Option.some.injEq, Prod.mk.injEq] at request <;>
    obtain ⟨rfl, rfl⟩ := request <;> refine frame_readsBack rfl (by decide) (by simp) ?_
  case portReset c tag => exact ⟨c, tag, false, rfl⟩
  case positionWipe c p mnt => exact ⟨c, 0, mnt, rfl⟩
  case positionConfigure c p sw al hs rs t =>
    exact ⟨c, 0, false, congrArg (fun v => some (Instr.positionConfigure c p sw al hs rs v)) (halfArg_bytes t)⟩
  case setParameter c n v =>
    exact ⟨c, 0, false, congrArg (fun v => some (Instr.setParameter c n v)) (halfArg_bytes v)⟩
  case noticeSetup c m t v =>
    exact ⟨c, 0, false, congrArg (fun v => some (Instr.noticeSetup c m t v)) (halfArg_bytes v)⟩
  all_goals exact ⟨‹Port›, 0, false, rfl⟩

/-! ### Refused arguments -/

/-- Settles O13: each reader gives a value for the stated bytes alone, and a request whose readers do not all give one is
answered with BAD_ARG. -/
theorem badArgumentsRefused : Obligations.BadArgumentsRefused := by
  intro c s a b d e f g h w
  refine ⟨fun bad => ?_, fun bad => ?_, fun bad => ?_, fun bad => ?_, fun bad => ?_, fun bad => ?_, fun bad => ?_,
    fun bad => ?_, fun bad => ?_, fun bad => ?_, fun bad => ?_, fun bad => ?_, fun bad => ?_, fun bad => ?_, fun bad => ?_,
    fun bad => ?_, fun bad => ?_, fun bad => ?_, fun bad => ?_, fun bad => ?_, fun bad => ?_, fun bad => ?_, fun bad => ?_,
    fun bad idle => ?_, fun bad mnt => ?_, fun p bad => ?_⟩
  · show execLineConfigure c a b d e s = _
    unfold execLineConfigure
    split
    · next l k p r => have := lineArg_lt l; have := classArg_lt k; have := bargeArg_lt p; have := ringdownArg_lt r; omega
    · rfl
  · show execLineService c a b s = _
    unfold execLineService
    split
    · next l x => have := lineArg_lt l; have := directionArg_lt x; omega
    · rfl
  · show execLineStatusRead c a s = _
    unfold execLineStatusRead
    split
    · next l => have := lineArg_lt l; omega
    · rfl
  · show execLineClearMissed c a s = _
    unfold execLineClearMissed
    split
    · next l => have := lineArg_lt l; omega
    · rfl
  · show execKeyInject c a b d e f s = _
    unfold execKeyInject
    split
    · rfl
    next p =>
    split
    · rfl
    · next i => have := positionArg_lt p; have := injectArg_range i; omega
  · show execPositionConfigure c a b d e f w s = _
    unfold execPositionConfigure
    split
    · next p x v t =>
      have := positionArg_lt p; have := switchAwayArg_lt x; have := flagArg_lt v; have := toneArg_hertz t; omega
    · rfl
  · show execPositionStatusRead c a s = _
    unfold execPositionStatusRead
    split
    · next p => have := positionArg_lt p; omega
    · rfl
  · show execGroupDefine c a b d s = _
    unfold execGroupDefine
    split
    · next x t => have := groupArg_lt x; have := talkerLimitArg_range t; omega
    · rfl
  · show execGroupUndefine c a s = _
    unfold execGroupUndefine
    split
    · rfl
    · next x => have := groupArg_lt x; omega
  · show execMemberAdd c a b d s = _
    unfold execMemberAdd
    split
    · next x p k => have := groupArg_lt x; have := positionArg_lt p; have := classArg_lt k; omega
    · rfl
  · show execMemberRemove c a b s = _
    unfold execMemberRemove
    split
    · next x p => have := groupArg_lt x; have := positionArg_lt p; omega
    · rfl
  · show execGroupStatusRead c a s = _
    unfold execGroupStatusRead
    split
    · next x => have := groupArg_lt x; omega
    · rfl
  · show execPlanSet c a b d e f g h s = _
    unfold execPlanSet
    split
    · next p n x v t =>
      have := positionArg_lt p; have := channelArg_lt n; have := sourceArg_range x; have := loudspeakerArg_lt v
      have := flagArg_lt t; omega
    · rfl
  · show execPlanPosition c a b d s = _
    unfold execPlanPosition
    split
    · next p => have := positionArg_lt p; omega
    · rfl
  · show execMixApply c a s = _
    unfold execMixApply
    split
    · rfl
    · next p => have := positionArg_lt p; omega
  · show execSpeakerStatusRead c a s = _
    unfold execSpeakerStatusRead
    split
    · next p => have := positionArg_lt p; omega
    · rfl
  · show execLevelRead c a b s = _
    unfold execLevelRead
    split
    · next zero p => have := positionArg_lt p; omega
    · next one l => have := lineArg_lt l; omega
    · rfl
  · show execPageLoad c a b d e f s = _
    unfold execPageLoad
    split
    · next pg i x => have := pageArg_lt pg; have := slotArg_lt i; have := contentArg_range x; omega
    · rfl
  · show execPageCommit c a s = _
    unfold execPageCommit
    split
    · rfl
    · next pg => have := pageArg_lt pg; omega
  · show execGuardSet c a b s = _
    unfold execGuardSet
    split
    · next p x => have := positionArg_lt p; have := guardArg_lt x; omega
    · rfl
  · show execEntryRead c a b s = _
    unfold execEntryRead
    split
    · next p k => have := positionArg_lt p; have := keyArg_lt k; omega
    · rfl
  · show execSetParameter c a w s = _
    unfold execSetParameter
    split
    · next x => have := Params.set_range x; omega
    · rfl
  · show execNoticeSetup c a b w s = _
    unfold execNoticeSetup
    split
    · rfl
    · next m => have := maskArg_lt m; omega
  · show execNoticeRead c a s = _
    unfold execNoticeRead
    rw [if_pos (show 8 < a.toNat from bad), returnRead_other]
    intro f flying number
    have flying : (s.port c).inFlight = some f := by simpa [State.answer, State.setPort, State.port] using flying
    exact idle f flying (BitVec.eq_of_toNat_eq number)
  · show execPositionWipe c a mnt s = _
    unfold execPositionWipe
    dsimp only
    split
    · rfl
    · next p => have := positionArg_lt p; omega
  · show execKeyInject c (byteOf p.val) 0 b d e s = _
    unfold execKeyInject
    rw [positionArg_byteOf]
    dsimp only
    split
    · rfl
    · next i =>
      obtain ⟨-, -, key, -⟩ := injectArg_range i
      have := key rfl
      omega

end Sys2Proof.Machine
end

section
/-! PROOFS. The status reads (R30, R58, R81, R112, R147, R171) and the clip flags and missed counts that reads clear (R31,
R128). -/

namespace Sys2Proof.Machine

-- One theorem after another: side by side they hold the memory of too many stacks.
set_option Elab.async false

/-! ### The data of the reads -/

/-- A table's records coded in `m` bytes each take `n * m` bytes. -/
theorem Table.flatMap_length {n : Nat} {α : Type} (t : Table n α) (f : α → List Byte) {m : Nat}
    (h : ∀ x, (f x).length = m) : (t.items.flatMap f).length = n * m := by
  rw [List.length_flatMap]
  simp [h, t.length_eq]

theorem sourceBytes_length (x : Option Source) : (sourceBytes x).length = 2 := by
  rcases x with _ | (l | g) <;> rfl

theorem channelBytes_length (x : Channel) : (channelBytes x).length = 10 := by
  simp [channelBytes, sourceBytes_length]

theorem planBytes_length (x : ChannelPlan) : (planBytes x).length = 5 := by
  simp [planBytes, sourceBytes_length]

/-- The eight channels, the eight plans, the levels, the conversation, the suppressions and the quiet state (R112). -/
theorem speakerData_length (s : State) (p : PositionId) : (s.speakerData p).length = 136 := by
  simp only [State.speakerData, List.length_append, Table.flatMap_length _ _ channelBytes_length,
    Table.flatMap_length _ _ planBytes_length]
  simp [ascending]

/-- The byte of attributes holds the three of them in its low bits (R172). -/
theorem attributeByte_bits (r b u : Bool) : (attributeByte r b u).getLsbD 0 = r ∧ (attributeByte r b u).getLsbD 1 = b ∧
    (attributeByte r b u).getLsbD 2 = u ∧ (attributeByte r b u).toNat < 8 := by
  revert r b u
  decide

/-- The bytes of a content are those that the statements name. -/
theorem contentBytes_shown (hidden : Bool) (x : Content) : ContentShown hidden x (contentBytes hidden x) := by
  cases x with
  | empty => rfl
  | line l r b u => exact ⟨attributeByte r b u, rfl, attributeByte_bits r b u⟩
  | group g => rfl

/-- A guard withholds targets from every port but the owner of an OWNED_PRIVATE one (R144, R147). -/
theorem withholds_iff (x : Guard) (c : Port) : x.withholds c = true ↔ ∃ o : Port, x = .ownedPrivate o ∧ o ≠ c := by
  cases x <;> simp [Guard.withholds]

section
variable (s : State) (c : Port)

theorem exec_lineStatusRead (l : LineId) :
    exec (.lineStatusRead c (byteOf l.val)) s = .next (s.answer c .ok (s.lineData l)) := by
  show execLineStatusRead c (byteOf l.val) s = _
  simp [execLineStatusRead]

theorem exec_positionStatusRead (p : PositionId) :
    exec (.positionStatusRead c (byteOf p.val)) s = .next (s.answer c .ok (s.positionData p)) := by
  show execPositionStatusRead c (byteOf p.val) s = _
  simp [execPositionStatusRead]

theorem exec_groupStatusRead (g : GroupId) :
    exec (.groupStatusRead c (byteOf g.val)) s = .next (s.answer c .ok (s.groupData g)) := by
  show execGroupStatusRead c (byteOf g.val) s = _
  simp [execGroupStatusRead]

theorem exec_speakerStatusRead (p : PositionId) :
    exec (.speakerStatusRead c (byteOf p.val)) s = .next (s.answer c .ok (s.speakerData p)) := by
  show execSpeakerStatusRead c (byteOf p.val) s = _
  simp [execSpeakerStatusRead]

theorem exec_entryRead (p : PositionId) (k : Key) :
    exec (.entryRead c (byteOf p.val) (byteOf k.val)) s = .next (s.answer c .ok (s.entryData c p k)) := by
  show execEntryRead c (byteOf p.val) (byteOf k.val) s = _
  simp [execEntryRead]

theorem exec_lineClearMissed (l : LineId) :
    exec (.lineClearMissed c (byteOf l.val)) s =
      .next ((s.setLine l { s.line l with missed := 0 }).answer c .ok [byteOf (s.line l).missed]).finish := by
  show execLineClearMissed c (byteOf l.val) s = _
  simp [execLineClearMissed]

theorem exec_levelRead_position (p : PositionId) :
    exec (.levelRead c 0 (byteOf p.val)) s = .next (s.readPositionLevels c p) := by
  show execLevelRead c 0 (byteOf p.val) s = _
  simp [execLevelRead]

theorem exec_levelRead_line (l : LineId) : exec (.levelRead c 1 (byteOf l.val)) s = .next (s.readLineLevel c l) := by
  show execLevelRead c 1 (byteOf l.val) s = _
  simp [execLevelRead]

end

/-- Settles O14: a read only answers, with the record as it stands. -/
theorem readsChangeNothing : Obligations.ReadsChangeNothing := by
  intro c s
  refine ⟨fun l => ?_, fun p => ?_, fun g => ?_, fun p => ?_, fun p k hidden hide => ?_, ?_⟩
  · obtain ⟨t, run, answered, frame⟩ := next_answered (exec_lineStatusRead s c l)
    exact ⟨t, _, run, answered, frame⟩
  · obtain ⟨t, run, answered, frame⟩ := next_answered (exec_positionStatusRead s c p)
    exact ⟨t, _, run, answered, frame⟩
  · obtain ⟨t, run, answered, frame⟩ := next_answered (exec_groupStatusRead s c g)
    exact ⟨t, _, run, answered, frame⟩
  · obtain ⟨t, run, answered, frame⟩ := next_answered (exec_speakerStatusRead s c p)
    exact ⟨t, run, answered, speakerData_length s p, frame⟩
  · obtain rfl : hidden = (s.guardOf p).withholds c := by rw [Bool.eq_iff_iff, hide, withholds_iff]
    obtain ⟨t, run, answered, frame⟩ := next_answered (exec_entryRead s c p k)
    obtain ⟨code, owner, guard⟩ : ∃ code owner, guardBytes (s.guardOf p) = [code, owner] := by
      cases s.guardOf p <;> exact ⟨_, _, rfl⟩
    simp only [State.entryData, guard] at answered
    refine ⟨t, _, _, code, owner, run, frame, answered, contentBytes_shown _ _, ?_, ?_, ?_, ?_, ?_, ?_⟩
    · intro none; rw [none]
    · intro x pending; rw [pending]; exact contentBytes_shown _ _
    · intro e
      rw [e] at guard
      cases guard; exact ⟨rfl, rfl⟩
    · intro o e
      rw [e] at guard
      cases guard; exact ⟨rfl, rfl⟩
    · intro o e
      rw [e] at guard
      cases guard; exact ⟨rfl, rfl⟩
    · intro e
      rw [e] at guard
      cases guard; exact ⟨rfl, rfl⟩
  · have number : s.params.quietAutoresume.toNat = if s.params.quietAutoresume then 1 else 0 := by
      cases s.params.quietAutoresume <;> rfl
    obtain ⟨t, run, answered, frame⟩ := next_answered (show exec (.parameterRead c) s = _ from rfl)
    rw [Params.data, number] at answered
    exact ⟨t, run, frame, answered⟩

/-! ### Reads that clear -/

/-- Settles O45: the read returns what stands and writes the cleared record. -/
theorem readAndClear : Obligations.ReadAndClear := by
  intro c s
  refine ⟨fun p => ?_, fun l => ?_, fun l none => ?_⟩
  · refine ⟨_, exec_levelRead_position s c p, answered_of_ports rfl rfl, fun q => Table.get_set _ _ _ _, ?_⟩
    intro q hq
    cases q <;> first | rfl | simp at hq
  · refine ⟨_, exec_levelRead_line s c l, answered_of_ports rfl rfl, fun q => Table.get_set _ _ _ _, ?_⟩
    intro q hq
    cases q <;> first | rfl | simp at hq
  · refine ⟨_, exec_lineClearMissed s c l, ?_⟩
    have ended := finish_ended_none
      (u := (s.setLine l { s.line l with missed := 0 }).answer c .ok [byteOf (s.line l).missed]) none
    refine ⟨ended.answered (v := s.setLine l { s.line l with missed := 0 }) rfl rfl, ?_, fun l' ne => ?_,
      ended.onlyLampQueues rfl, ended.same (ch := [.lines, .ports]) ((setLine_frame s _ _).step (answer_frame _ _ _ _)) none⟩
    · exact (ended.line l).trans (State.setLine_line s l _)
    · exact (ended.line l').trans (State.setLine_line_ne s _ ne)

end Sys2Proof.Machine
end

section
/-! PROOFS. Requests that write values alone: members, plans and positions, floor parameters, the quiet state, and the
intake of notices (R57, R79, R96, R97, R110, R111, R170, R179). -/

namespace Sys2Proof.Machine

-- One theorem after another: side by side they hold the memory of too many stacks.
set_option Elab.async false

/-! ### Members -/

theorem exec_memberAdd (s : State) (c : Port) (g : GroupId) (p : PositionId) (k : LineClass) :
    exec (.memberAdd c (byteOf g.val) (byteOf p.val) (byteOf k.code)) s =
      .next ((s.addMember g p k).1.answer c (s.addMember g p k).2 []) := by
  show execMemberAdd c _ _ _ s = _
  simp [execMemberAdd]

theorem Group.member?_position {x : Group} {p : PositionId} {m : Member} (h : x.member? p = some m) : m.position = p := by
  simpa [Group.member?] using List.find?_some h

/-- MEMBER ADD by what the group is and what the position is in it (R79). -/
theorem addMember_cases (s : State) (g : GroupId) (p : PositionId) (k : LineClass) :
    ((s.group g).defined = false ∧ s.addMember g p k = (s, .notDefined)) ∨
    ((s.group g).defined = true ∧ (s.group g).member? p = some ⟨p, k⟩ ∧ s.addMember g p k = (s, .noChange)) ∨
    (∃ k', (s.group g).defined = true ∧ (s.group g).member? p = some ⟨p, k'⟩ ∧ k' ≠ k ∧ s.addMember g p k =
      (s.setGroup g { s.group g with
        members := (s.group g).members.map fun y => if y.position = p then { y with cls := k } else y }, .ok)) ∨
    ((s.group g).defined = true ∧ (s.group g).member? p = none ∧ 32 ≤ (s.group g).members.length ∧
      s.addMember g p k = (s, .groupFull)) ∨
    ((s.group g).defined = true ∧ (s.group g).member? p = none ∧ (s.group g).members.length < 32 ∧
      s.addMember g p k = (s.setGroup g { s.group g with members := (s.group g).members ++ [⟨p, k⟩] }, .ok)) := by
  cases defined : (s.group g).defined with
  | false => exact .inl ⟨rfl, by simp [State.addMember, defined]⟩
  | true =>
    cases member : (s.group g).member? p with
    | none =>
      by_cases full : 32 ≤ (s.group g).members.length
      · exact .inr (.inr (.inr (.inl ⟨rfl, rfl, full, by simp [State.addMember, defined, member, Config.maxMembers, full]⟩)))
      · exact .inr (.inr (.inr (.inr ⟨rfl, rfl, by omega,
          by simp [State.addMember, defined, member, Config.maxMembers, full]⟩)))
    | some m =>
      obtain ⟨q, k'⟩ := m
      obtain rfl : q = p := Group.member?_position member
      by_cases same : k' = k
      · subst same
        exact .inr (.inl ⟨rfl, rfl, by simp [State.addMember, defined, member]⟩)
      · exact .inr (.inr (.inl ⟨k', rfl, rfl, same, by simp [State.addMember, defined, member, same]⟩))

/-- Settles O33: the five outcomes of MEMBER ADD exclude each other, and each writes at most the member list. -/
theorem memberAdded : Obligations.MemberAdded := by
  refine ⟨fun c a b d s => ?_, fun c g p k s => ?_⟩
  · obtain ⟨-, -, -, -, -, -, -, -, -, memberAdd, -⟩ := badArgumentsRefused c s a b d 0 0 0 0 0
    exact memberAdd
  have written (ms : List Member) : SameExcept [.groups, .ports] s
      ((s.setGroup g { s.group g with members := ms }).answer c .ok []) :=
    (setGroup_frame s g _).step (answer_frame _ _ _ _)
  have others (ms : List Member) (r : ResultCode) : OtherGroups g s
      ((s.setGroup g { s.group g with members := ms }).answer c r []) := fun g' ne => State.setGroup_group_ne s _ ne
  have record (ms : List Member) (r : ResultCode) :
      ((s.setGroup g { s.group g with members := ms }).answer c r []).group g = { s.group g with members := ms } :=
    State.setGroup_group s g _
  rcases addMember_cases s g p k with ⟨defined, run⟩ | ⟨defined, member, run⟩ | ⟨k', defined, member, ne, run⟩ |
      ⟨defined, member, full, run⟩ | ⟨defined, member, room, run⟩ <;>
    refine ⟨_, (s.addMember g p k).2, exec_memberAdd s c g p k, ?_⟩ <;> rw [run]
  · exact ⟨answer_answered s c _ _, (answer_frame s c _ _).mono, fun _ _ => rfl, rfl, fun _ => ⟨rfl, rfl⟩,
      by simp [defined], by simp [defined], by simp [defined], by simp [defined]⟩
  · exact ⟨answer_answered s c _ _, (answer_frame s c _ _).mono, fun _ _ => rfl, rfl, by simp [defined],
      fun _ _ => ⟨rfl, rfl⟩, by simp [member], by simp [member], by simp [member]⟩
  · refine ⟨answered_of_ports rfl rfl, written _, others _ _, by rw [record], by simp [defined], by simp [member, ne],
      fun k'' _ _ _ => ⟨rfl, ?_⟩, by simp [member], by simp [member]⟩
    rw [record]
    refine List.map_congr_left fun y _ => ?_
    split
    · next e => rw [← e]
    · rfl
  · exact ⟨answer_answered s c _ _, (answer_frame s c _ _).mono, fun _ _ => rfl, rfl, by simp [defined],
      by simp [member], by simp [member], by omega, fun _ _ _ => ⟨rfl, rfl⟩⟩
  · refine ⟨answered_of_ports rfl rfl, written _, others _ _, by rw [record], by simp [defined], by simp [member],
      by simp [member], fun _ _ _ => ⟨rfl, ?_⟩, by omega⟩
    rw [record]

/-! ### Plans and positions -/

theorem clampStep_is (b : Byte) : clampStep b = ⟨min 27 b.toNat, by omega⟩ := by
  unfold clampStep
  split
  · next h => exact Fin.ext (show b.toNat = min 27 b.toNat by omega)
  · next h => exact Fin.ext (show 27 = min 27 b.toNat by omega)

theorem clampDuck_is (b : Byte) : clampDuck b = ⟨min 12 b.toNat, by omega⟩ := by
  unfold clampDuck
  split
  · next h => exact Fin.ext (show b.toNat = min 12 b.toNat by omega)
  · next h => exact Fin.ext (show 12 = min 12 b.toNat by omega)

theorem clampFloor_is (b : Byte) : clampFloor b = ⟨max 1 (min 27 b.toNat), by omega⟩ := by
  unfold clampFloor
  split
  · next h => exact Fin.ext (show 1 = max 1 (min 27 b.toNat) by omega)
  · next h =>
    rw [clampStep_is]
    exact Fin.ext (show min 27 b.toNat = max 1 (min 27 b.toNat) by omega)

@[simp] theorem loudspeakerArg_byteOf (ls : Loudspeaker) : loudspeakerArg (byteOf ls.code) = some ls := by cases ls <;> rfl
@[simp] theorem flagArg_flagByte (v : Bool) : flagArg (flagByte v) = some v := by cases v <;> rfl
@[simp] theorem switchAwayArg_byteOf (w : SwitchAway) : switchAwayArg (byteOf w.code) = some w := by cases w <;> rfl

theorem toneArg_of_hertz {w : Half} {tone : RingerTone} (h : w.toNat = tone.hertz) : toneArg w = some tone := by
  unfold toneArg
  rw [h]
  cases tone <;> rfl

/-- The kind byte of a source (R172). -/
def sourceKind : Option Source → Byte
  | none => 0
  | some (.line _) => 1
  | some (.group _) => 2

/-- A source is read back from its kind and number; the number of no source is not read (R172, log entry 13). -/
theorem sourceArg_kind {src : Option Source} {num : Byte} (line : ∀ l, src = some (.line l) → num = byteOf l.val)
    (group : ∀ g, src = some (.group g) → num = byteOf g.val) : sourceArg (sourceKind src) num = some src := by
  rcases src with _ | (l | g)
  · rfl
  · rw [line l rfl]
    simp [sourceKind, sourceArg]
  · rw [group g rfl]
    simp [sourceKind, sourceArg]

theorem setSpeaker_speaker (s : State) (p : PositionId) (x : Speaker) : (s.setSpeaker p x).speaker p = x := by
  simp [State.setSpeaker, State.speaker]

theorem setSpeaker_speaker_ne (s : State) {p q : PositionId} (x : Speaker) (h : q ≠ p) :
    (s.setSpeaker p x).speaker q = s.speaker q := by
  simp [State.setSpeaker, State.speaker, h]

/-- Settles O37: each request writes its clamped values into one record, and CLAMPED goes by whether one was clamped. -/
theorem configurationWritten : Obligations.ConfigurationWritten := by
  intro c p s
  refine ⟨fun n src num v ls tb line group => ?_, fun d f => ?_, fun sw al hs rs tone w hertz => ?_⟩
  · have run : exec (.planSet c (byteOf p.val) (byteOf n.val) (sourceKind src) num v (byteOf ls.code) (flagByte tb)) s =
        .next ((s.setSpeaker p { s.speaker p with plan := (s.speaker p).plan.set n ⟨src, clampStep v, ls, tb⟩ }).answer c
          (if v.toNat ≤ 27 then .ok else .clamped) (if v.toNat ≤ 27 then [] else [27])) := by
      show execPlanSet c _ _ _ _ _ _ _ s = _
      simp only [execPlanSet, positionArg_byteOf, channelArg_byteOf, loudspeakerArg_byteOf, flagArg_flagByte,
        sourceArg_kind line group, clampStep_is]
      by_cases small : v.toNat ≤ 27
      · rw [if_pos (by omega), if_pos small, if_pos small]
      · have taken : min 27 v.toNat = 27 := by omega
        rw [if_neg (by omega), if_neg small, if_neg small]
        simp only [taken]
        rfl
    refine ⟨_, run, fun n' => ?_, ?_, fun q ne => setSpeaker_speaker_ne s _ ne, fun small => ?_, fun large => ?_, ?_⟩
    · have record := setSpeaker_speaker s p { s.speaker p with plan := (s.speaker p).plan.set n ⟨src, clampStep v, ls, tb⟩ }
      rw [← clampStep_is v]
      exact (congrArg (fun x : Speaker => x.plan.get n') record).trans (Table.get_set _ _ _ _)
    · have record := setSpeaker_speaker s p { s.speaker p with plan := (s.speaker p).plan.set n ⟨src, clampStep v, ls, tb⟩ }
      exact congrArg (fun x : Speaker => { x with plan := (s.speaker p).plan }) record
    · rw [if_pos small, if_pos small]
      exact answered_of_ports rfl rfl
    · rw [if_neg (by omega), if_neg (by omega)]
      exact answered_of_ports rfl rfl
    · exact (setSpeaker_frame s p _).step (answer_frame _ _ _ _)
  · have run : exec (.planPosition c (byteOf p.val) d f) s =
        .next ((s.setSpeaker p { s.speaker p with stagedDuck := clampDuck d, stagedFloor := clampFloor f }).answer c
          (if d.toNat ≤ 12 ∧ 1 ≤ f.toNat ∧ f.toNat ≤ 27 then .ok else .clamped)
          (if d.toNat ≤ 12 ∧ 1 ≤ f.toNat ∧ f.toNat ≤ 27 then []
            else [byteOf (min 12 d.toNat), byteOf (max 1 (min 27 f.toNat))])) := by
      show execPlanPosition c _ _ _ s = _
      simp only [execPlanPosition, positionArg_byteOf, clampDuck_is, clampFloor_is, ← Bool.decide_and, decide_eq_true_eq]
      by_cases inRange : d.toNat ≤ 12 ∧ 1 ≤ f.toNat ∧ f.toNat ≤ 27
      · rw [if_pos (by omega), if_pos inRange, if_pos inRange]
      · rw [if_neg (by omega), if_neg inRange, if_neg inRange]
    refine ⟨_, run, ?_, fun q ne => setSpeaker_speaker_ne s _ ne, fun h1 h2 h3 => ?_, fun out => ?_, ?_⟩
    · rw [← clampDuck_is d, ← clampFloor_is f]
      exact setSpeaker_speaker s p _
    · rw [if_pos ⟨h1, h2, h3⟩, if_pos ⟨h1, h2, h3⟩]
      exact answered_of_ports rfl rfl
    · rw [if_neg (by omega), if_neg (by omega)]
      exact answered_of_ports rfl rfl
    · exact (setSpeaker_frame s p _).step (answer_frame _ _ _ _)
  · have run : exec (.positionConfigure c (byteOf p.val) (byteOf sw.code) (flagByte al) hs rs w) s =
        .next ((s.setPosition p { s.position p with
            switchAway := sw, answerOnLift := al, handsetStep := clampStep hs, ringerStep := clampStep rs
            ringerTone := tone }).answer c
          (if hs.toNat ≤ 27 ∧ rs.toNat ≤ 27 then .ok else .clamped)
          (if hs.toNat ≤ 27 ∧ rs.toNat ≤ 27 then [] else [byteOf (min 27 hs.toNat), byteOf (min 27 rs.toNat)])) := by
      show execPositionConfigure c _ _ _ _ _ _ s = _
      simp only [execPositionConfigure, positionArg_byteOf, switchAwayArg_byteOf, flagArg_flagByte, toneArg_of_hertz hertz,
        clampStep_is, ← Bool.decide_and, decide_eq_true_eq]
      by_cases inRange : hs.toNat ≤ 27 ∧ rs.toNat ≤ 27
      · rw [if_pos (by omega), if_pos inRange, if_pos inRange]
      · rw [if_neg (by omega), if_neg inRange, if_neg inRange]
    refine ⟨_, run, ?_, fun q ne => State.setPosition_position_ne s _ ne, fun h1 h2 => ?_, fun out => ?_, ?_⟩
    · rw [← clampStep_is hs, ← clampStep_is rs]
      exact State.setPosition_position s p _
    · rw [if_pos ⟨h1, h2⟩, if_pos ⟨h1, h2⟩]
      exact answered_of_ports rfl rfl
    · rw [if_neg (by omega), if_neg (by omega)]
      exact answered_of_ports rfl rfl
    · exact (setPosition_frame s p _).step (answer_frame _ _ _ _)

/-! ### The quiet state -/

theorem quietWritten_frame (s : State) (v : Bool) (q : Quiet) : SameExcept [.quiet, .quietPin] s
    { s with quietPin := v, quiet := q } := by
  intro r hr
  cases r <;> first | rfl | simp at hr

/-- The QUIET bit of a status byte (R163). -/
theorem statusByte_quiet (s : State) (c : Port) : (s.statusByte c).getLsbD 4 = decide (s.quiet ≠ .off) := by
  simp only [State.statusByte]
  cases decide ((s.port c).state = .ready) <;> cases (s.port c).dropped <;> cases (s.port c).malformed <;>
    cases s.attn c <;> cases decide (s.quiet ≠ .off) <;> rfl

/-- Settles O42: the tables of R110 and R111, row by row of the quiet state. -/
theorem quietStates : Obligations.QuietStates := by
  intro s c
  refine ⟨?_, ?_, ?_⟩
  · have asserted (pinned : SameExcept [.quiet, .quietPin] s { s with quietPin := true, quiet := .on }) :
        ∃ t, exec .quietAsserted s = .next t ∧ t.quiet = .on ∧ t.quietPin = true ∧
          Raised (if s.quiet = .on then [] else [.quietOn]) s t ∧ SameExcept [.quiet, .quietPin, .notices] s t := by
      show ∃ t, execQuietAsserted s = .next t ∧ _
      unfold execQuietAsserted
      cases q : s.quiet with
      | on => exact ⟨_, rfl, rfl, rfl, .of_notices rfl, pinned.mono⟩
      | off => exact ⟨_, rfl, rfl, rfl, (raise_raised _ _).congr rfl rfl rfl, pinned.step (raise_frame _ _)⟩
      | holding => exact ⟨_, rfl, rfl, rfl, (raise_raised _ _).congr rfl rfl rfl, pinned.step (raise_frame _ _)⟩
    obtain ⟨t, run, quiet, pin, raised, frame⟩ := asserted (quietWritten_frame s true .on)
    exact ⟨t, run, quiet, pin, raised, frame, fun c' => by rw [statusByte_quiet, quiet]; rfl⟩
  · show ∃ t, execQuietDeasserted s = .next t ∧ _
    unfold execQuietDeasserted
    cases q : s.quiet with
    | on =>
      exact ⟨_, rfl, rfl, fun _ => ⟨rfl, (raise_raised _ _).congr rfl rfl rfl⟩, by simp,
        (quietWritten_frame s false s.quietAfter).step (raise_frame _ _)⟩
    | off => exact ⟨_, rfl, rfl, by simp, fun _ => ⟨rfl, .of_notices rfl⟩, (quietWritten_frame s false _).mono⟩
    | holding => exact ⟨_, rfl, rfl, by simp, fun _ => ⟨rfl, .of_notices rfl⟩, (quietWritten_frame s false _).mono⟩
  · show ∃ t, execSpeakersResume c s = .next t ∧ _
    unfold execSpeakersResume
    have resumed : SameExcept [.quiet] s { s with quiet := .off } := by
      intro r hr
      cases r <;> first | rfl | simp at hr
    cases q : s.quiet with
    | holding =>
      exact ⟨_, rfl, resumed.step (answer_frame _ c _ _), fun _ => ⟨rfl, answered_of_ports rfl rfl⟩, by simp, by simp⟩
    | on =>
      exact ⟨_, rfl, (answer_frame s c _ _).mono, by simp, fun _ => ⟨q, answer_answered s c _ _⟩, by simp⟩
    | off =>
      exact ⟨_, rfl, (answer_frame s c _ _).mono, by simp, by simp, fun _ => ⟨q, answer_answered s c _ _⟩⟩

/-! ### Floor parameters -/

/-- A value clamped to a range of whole steps (R170). -/
theorem clampTo_is {lo hi step taken n : Nat} (whole : lo % step = 0 ∧ hi % step = 0) (range : lo ≤ hi)
    (below : n < lo → taken = lo) (above : hi < n → taken = hi)
    (inside : lo ≤ n → n ≤ hi → taken ≤ n ∧ n < taken + step ∧ taken % step = 0) : clampTo lo hi step n = taken := by
  obtain ⟨wlo, whi⟩ := whole
  have divides {k : Nat} (h : k % step = 0) : k / step * step = k := Nat.div_mul_cancel (Nat.dvd_of_mod_eq_zero h)
  unfold clampTo
  by_cases h1 : n < lo
  · rw [below h1, show max lo (min hi n) = lo by omega, divides wlo]
  by_cases h2 : hi < n
  · rw [above h2, show max lo (min hi n) = hi by omega, divides whi]
  · obtain ⟨le, lt, mod⟩ := inside (by omega) (by omega)
    rw [show max lo (min hi n) = n by omega, ← divides mod]
    congr 1
    apply Nat.div_eq_of_lt_le
    · rw [divides mod]; exact le
    · rw [Nat.add_mul, one_mul, divides mod]; exact lt

/-- HOLD_RECALL and RECALL_LIMIT take 0 besides (R170). -/
theorem clampRecall_is {taken n : Nat} (below : n < 10 → taken = if n = 0 then 0 else 10) (above : 600 < n → taken = 600)
    (inside : 10 ≤ n → n ≤ 600 → taken ≤ n ∧ n < taken + 10 ∧ taken % 10 = 0) : clampRecall n = taken := by
  unfold clampRecall
  split
  · next zero => rw [below (by omega), if_pos zero]
  · next pos => exact clampTo_is (by decide) (by decide) (fun h => by rw [below h, if_neg pos]) above inside

/-- A parameter that is set: its value is written and returned (R170). -/
theorem setParameter_next {s : State} {c : Port} {n v : Nat} {b : Byte} {w : Half} {x : Params} (number : b.toNat = n)
    (value : w.toNat = v) {taken : Nat} (set : s.params.set n v = some (x, taken)) :
    ∃ t, exec (.setParameter c b w) s = .next t ∧ t.params = x ∧
      Answered c (if taken = w.toNat then .ok else .clamped) (b :: halfBytes taken) s t ∧
      SameExcept [.params, .ports] s t := by
  subst number value
  refine ⟨({ s with params := x }).answer c (if taken = w.toNat then .ok else .clamped) (b :: halfBytes taken), ?_, rfl,
    answered_of_ports rfl rfl, ?_⟩
  · show execSetParameter c b w s = _
    simp only [execSetParameter, set]
  · intro q hq
    cases q <;> first | rfl | simp at hq

/-- Settles O58: each parameter is clamped to its own range and step, and the value taken is the one written. -/
theorem parameterSet : Obligations.ParameterSet := by
  intro c v s
  refine ⟨fun n lo hi step taken after row below above inside written => ?_, fun small => ?_⟩
  · subst written
    simp only [List.mem_cons, Prod.mk.injEq, List.not_mem_nil, or_false] at row
    have byte : n < 6 → (byteOf n).toNat = n := fun h => byteOf_toNat (by omega)
    rcases row with ⟨rfl, rfl, rfl, rfl⟩ | ⟨rfl, rfl, rfl, rfl⟩ | ⟨rfl, rfl, rfl, rfl⟩ | ⟨rfl, rfl, rfl, rfl⟩ |
        ⟨rfl, rfl, rfl, rfl⟩ | ⟨rfl, rfl, rfl, rfl⟩ <;>
      refine setParameter_next (byte (by decide)) rfl ?_
    case inr.inr.inr.inr.inl =>
      simp only [Params.set, clampRecall_is (fun h => by simpa using below h) above inside]
    case inr.inr.inr.inr.inr =>
      simp only [Params.set, clampRecall_is (fun h => by simpa using below h) above inside]
    all_goals
      simp only [Params.set, clampTo_is (by decide) (by decide) (fun h => by simpa using below h) above inside]
  · obtain ⟨t, run, params, answered, frame⟩ := setParameter_next (s := s) (c := c) (n := 6) (b := 6) (w := v) rfl rfl
      (x := { s.params with quietAutoresume := decide (v.toNat = 1) }) (taken := v.toNat) (by
        have : v.toNat = 0 ∨ v.toNat = 1 := by omega
        rcases this with e | e <;> rw [e] <;> rfl)
    rw [if_pos rfl] at answered
    exact ⟨t, run, params, answered, frame⟩

/-! ### The intake of a notice -/

/-- Settles O60: a raised notice is offered to the port's own queue, which takes it by mask and room. -/
theorem noticeIntake : Obligations.NoticeIntake := by
  intro b c s
  have offered : (s.raise b).noticeQueue c = (s.noticeQueue c).offered (s.dueIn (s.noticeQueue c).ageLimit) b := by
    simp [State.raise, State.noticeQueue]
  have due : s.dueIn (s.noticeQueue c).ageLimit = s.clock + (s.noticeQueue c).ageLimit * 8 := rfl
  rw [offered, due]
  refine ⟨fun unsubscribed => ?_, fun subscribed room => ?_, fun subscribed full => ?_⟩
  · simp [NoticeQueue.offered, NoticeQueue.subscribes, unsubscribed]
  · have : ¬Config.maxNotices ≤ (s.noticeQueue c).queue.length := by simp only [Config.maxNotices]; omega
    simp [NoticeQueue.offered, NoticeQueue.subscribes, subscribed, NoticeQueue.intake, this]
  · have : Config.maxNotices ≤ (s.noticeQueue c).queue.length := full
    simp [NoticeQueue.offered, NoticeQueue.subscribes, subscribed, NoticeQueue.intake, this]

end Sys2Proof.Machine
end

section
/-! PROOFS. The Appearance Directory: staging buffers, page commits, guards and wipes (R138 to R149). -/

namespace Sys2Proof.Machine

-- One theorem after another: side by side they hold the memory of too many stacks.
set_option Elab.async false

/-! ### Staging buffers -/

theorem contentArg_line (l : LineId) (r b u : Bool) :
    contentArg 1 (byteOf l.val) (attributeByte r b u) = some (.line l r b u) := by
  obtain ⟨ring, barge, pickup, -⟩ := attributeByte_bits r b u
  show (lineArg (byteOf l.val)).map (fun l => Content.line l ((attributeByte r b u).getLsbD 0)
    ((attributeByte r b u).getLsbD 1) ((attributeByte r b u).getLsbD 2)) = _
  rw [ring, barge, pickup, lineArg_byteOf]
  rfl

theorem contentArg_group (g : GroupId) (attrs : Byte) : contentArg 2 (byteOf g.val) attrs = some (.group g) := by
  simp [contentArg]

/-- PAGE LOAD of a content that is read (R139). -/
theorem exec_pageLoad (s : State) (c : Port) (pg : Fin 128) (i : Fin 16) {kind target attrs : Byte} {x : Content}
    (read : contentArg kind target attrs = some x) :
    exec (.pageLoad c (byteOf pg.val) (byteOf i.val) kind target attrs) s =
      .next ((s.loadSlot c pg i x).1.answer c (s.loadSlot c pg i x).2.1 (s.loadSlot c pg i x).2.2) := by
  show execPageLoad c _ _ _ _ _ s = _
  simp [execPageLoad, read]

/-- The buffer of a port after a load into slot `i` (R139). -/
def Staging.withSlot (b : Staging) (pg : Fin 128) (i : Fin 16) (x : Content) : Staging := ⟨some pg, b.slots.set i (some x)⟩

/-- A buffer that is empty or latched to the page takes the content (R139). -/
theorem loadSlot_taken {s : State} {c : Port} {pg : Fin 128} (i : Fin 16) (x : Content)
    (open_ : (s.stagingOf c).page = none ∨ (s.stagingOf c).page = some pg) :
    s.loadSlot c pg i x = (s.setStaging c ((s.stagingOf c).withSlot pg i x), .ok,
      [byteOf pg.val, byteOf ((s.stagingOf c).withSlot pg i x).loaded]) := by
  rcases open_ with e | e <;> simp [State.loadSlot, e, Staging.withSlot]

theorem loadSlot_mismatch {s : State} {c : Port} {pg pg' : Fin 128} (i : Fin 16) (x : Content)
    (latched : (s.stagingOf c).page = some pg') (ne : pg' ≠ pg) : s.loadSlot c pg i x = (s, .pageMismatch, []) := by
  simp [State.loadSlot, latched, ne]

theorem stagingWritten_frame (s : State) (c : Port) (x : Staging) (r : ResultCode) (d : List Byte) :
    SameExcept [.staging, .ports] s ((s.setStaging c x).answer c r d) :=
  (setStaging_frame s c x).step (answer_frame _ c r d)

/-- Settles O46: a load writes one slot of the port's own buffer, and a discard empties it. -/
theorem stagingBuffer : Obligations.StagingBuffer := by
  intro c s
  refine ⟨fun pg i l r b u open_ => ?_, fun pg pg' i g attrs => ⟨fun open_ => ?_, fun latched ne => ?_⟩, ?_⟩
  · have run := exec_pageLoad s c pg i (contentArg_line l r b u)
    rw [loadSlot_taken i _ open_] at run
    have buffer := State.setStaging_stagingOf s c ((s.stagingOf c).withSlot pg i (.line l r b u))
    refine ⟨_, _, run, answered_of_ports rfl rfl, ?_, ?_, fun i' => ?_, fun c' ne => ?_, stagingWritten_frame s c _ _ _⟩
    · exact congrArg Staging.loaded buffer.symm
    · exact congrArg Staging.page buffer
    · exact (congrArg (fun x : Staging => x.slots.get i') buffer).trans (Table.get_set _ _ _ _)
    · exact State.setStaging_stagingOf_ne s _ ne
  · have run := exec_pageLoad s c pg i (contentArg_group g attrs)
    rw [loadSlot_taken i _ open_] at run
    have buffer := State.setStaging_stagingOf s c ((s.stagingOf c).withSlot pg i (.group g))
    refine ⟨_, run, ?_, stagingWritten_frame s c _ _ _⟩
    exact (congrArg (fun x : Staging => x.slots.get i) buffer).trans (Table.get_set_self _ _ _)
  · have run := exec_pageLoad s c pg i (contentArg_group g attrs)
    rw [loadSlot_mismatch i _ latched ne] at run
    exact ⟨_, run, answer_answered s c _ _, answer_frame s c _ _⟩
  · have buffer := State.setStaging_stagingOf s c Staging.emptied
    refine ⟨_, rfl, answered_of_ports rfl rfl, ?_, fun i => ?_, fun c' ne => ?_, stagingWritten_frame s c _ _ _⟩
    · exact congrArg Staging.page buffer
    · exact (congrArg (fun x : Staging => x.slots.get i) buffer).trans (Table.get_fill _ _)
    · exact State.setStaging_stagingOf_ne s _ ne

/-! ### Committing a page -/

/-- The entry that a taken commit of content `x` leaves of entry `e`, by its binding (R142). -/
def Entry.committed (bound : Bool) (e : Entry) (x : Content) : Entry :=
  if bound = false then ⟨x, none⟩ else if e.content = x then ⟨x, none⟩ else ⟨e.content, some x⟩

theorem pageKey_injective (pg : Fin 128) {i j : Fin 16} (h : pageKey pg i = pageKey pg j) : i = j := by
  have : 16 * (pg.val % 4) + i.val = 16 * (pg.val % 4) + j.val := congrArg Fin.val h
  exact Fin.ext (by omega)

/-- The three counts together (R142). -/
def CommitCounts.total (n : CommitCounts) : Nat := n.replaced + n.deferred + n.kept

/-- One loaded slot writes its own entry by its binding and counts one (R142). -/
theorem commitEntry_is (s : State) (n : CommitCounts) (p : PositionId) (k : Key) (x : Content) :
    (s.commitEntry n p k x).1 = s.setEntry p k ((s.entry p k).committed (s.bound p k) x) ∧
      (s.commitEntry n p k x).2.total = n.total + 1 := by
  unfold State.commitEntry Entry.committed CommitCounts.total
  dsimp only
  by_cases bound : s.bound p k
  · by_cases same : (s.entry p k).content = x
    · simp [bound, same]
      omega
    · simp [bound, same]
      omega
  · simp [bound]
    omega

/-- Whether an entry is bound goes by the slots, the hold owners and its own content. -/
theorem bound_congr {s t : State} {p : PositionId} {k : Key} (positions : t.positions = s.positions)
    (lines : t.lines = s.lines) (entry : t.entry p k = s.entry p k) : t.bound p k = s.bound p k := by
  simp only [State.bound, State.slot, State.position, State.isHoldOwner, positions, lines, entry]

/-- What committing the slots of a list leaves: each of them applied by its binding before the commit, every other entry as
it was, and a count for each loaded slot. -/
theorem foldl_commitSlot_is (b : Staging) (pg : Fin 128) (is : List (Fin 16)) (nodup : is.Nodup) (s : State)
    (n : CommitCounts) :
    (∀ i ∈ is, ∀ x, b.slots.get i = some x →
      (is.foldl (commitSlot b pg) (s, n)).1.entry (pagePosition pg) (pageKey pg i) =
        (s.entry (pagePosition pg) (pageKey pg i)).committed (s.bound (pagePosition pg) (pageKey pg i)) x) ∧
    (∀ q k, (∀ i ∈ is, (q, k) = (pagePosition pg, pageKey pg i) → b.slots.get i = none) →
      (is.foldl (commitSlot b pg) (s, n)).1.entry q k = s.entry q k) ∧
    (is.foldl (commitSlot b pg) (s, n)).2.total = n.total + (is.filter fun i => (b.slots.get i).isSome).length := by
  induction is generalizing s n with
  | nil => exact ⟨fun i hi => by simp at hi, fun q k _ => rfl, by simp⟩
  | cons i is ih =>
    obtain ⟨fresh, nodup⟩ := List.nodup_cons.1 nodup
    have others : ∀ j ∈ is, (pagePosition pg, pageKey pg i) ≠ (pagePosition pg, pageKey pg j) := by
      intro j hj e
      exact fresh (pageKey_injective pg (Prod.mk.inj e).2 ▸ hj)
    rw [List.foldl_cons]
    cases slot : b.slots.get i with
    | none =>
      have skip : commitSlot b pg (s, n) i = (s, n) := by simp [commitSlot, slot]
      rw [skip]
      obtain ⟨written, kept, count⟩ := ih nodup s n
      refine ⟨fun j hj x loaded => ?_, fun q k free => kept q k fun j hj => free j (List.mem_cons_of_mem _ hj), ?_⟩
      · rcases List.mem_cons.1 hj with rfl | hj
        · rw [slot] at loaded
          cases loaded
        · exact written j hj x loaded
      · simp [count, slot]
    | some y =>
      obtain ⟨written, counted⟩ := commitEntry_is s n (pagePosition pg) (pageKey pg i) y
      have step : commitSlot b pg (s, n) i = s.commitEntry n (pagePosition pg) (pageKey pg i) y := by
        simp [commitSlot, slot]
      rw [step]
      generalize s.commitEntry n (pagePosition pg) (pageKey pg i) y = u at written counted ⊢
      obtain ⟨u, m⟩ := u
      dsimp only at written counted ⊢
      subst written
      obtain ⟨later, kept, count⟩ := ih nodup (s.setEntry (pagePosition pg) (pageKey pg i)
        ((s.entry (pagePosition pg) (pageKey pg i)).committed (s.bound (pagePosition pg) (pageKey pg i)) y)) m
      refine ⟨fun j hj x loaded => ?_, fun q k free => ?_, ?_⟩
      · rcases List.mem_cons.1 hj with rfl | hj
        · obtain rfl : y = x := Option.some.inj (slot.symm.trans loaded)
          rw [kept _ _ fun j hj e => absurd e (others j hj), setEntry_entry_self]
        · have other : State.entry _ (pagePosition pg) (pageKey pg j) = s.entry (pagePosition pg) (pageKey pg j) :=
            setEntry_entry_ne (s := s) ((s.entry (pagePosition pg) (pageKey pg i)).committed
            (s.bound (pagePosition pg) (pageKey pg i)) y) (others j hj).symm
          rw [later j hj x loaded, bound_congr (s := s) (t := s.setEntry _ _ _) rfl rfl other, other]
      · rw [kept q k fun j hj => free j (List.mem_cons_of_mem _ hj)]
        refine setEntry_entry_ne _ fun e => ?_
        have none := free i List.mem_cons_self e
        rw [slot] at none
        cases none
      · rw [count, counted]
        simp [slot]
        omega

/-- The loaded slots of a buffer, counted by number. -/
theorem loaded_is (b : Staging) : b.loaded = ((ascending 16).filter fun i => (b.slots.get i).isSome).length := by
  have items : b.slots.items = (ascending 16).map b.slots.get := by
    refine List.ext_getElem (by simp [ascending, b.slots.length_eq]) fun i h1 h2 => ?_
    simp [ascending, Table.get]
  rw [Staging.loaded, items, List.filter_map, List.length_map]
  rfl

theorem directoryChanged_other {q p : PositionId} (s : State) (old : Table 64 Entry) (ne : q ≠ p) :
    (s.directoryChanged p old).position q = s.position q := by
  have walk (ls : List LineId) (u : State) : (ls.foldl (State.updateRing p old) u).position q = u.position q := by
    induction ls generalizing u with
    | nil => rfl
    | cons l ls ih => rw [List.foldl_cons, ih, updateRing_other p q old l ne]
  exact walk _ s

/-- PAGE COMMIT of the page that its port's buffer is latched to, under a guard that allows the port (R141, R142). -/
theorem exec_pageCommit_taken {s : State} {c : Port} {pg : Fin 128} (latched : (s.stagingOf c).page = some pg)
    (allowed : (s.guardOf (pagePosition pg)).allows c = true) :
    exec (.pageCommit c (byteOf pg.val)) s = .next ((s.applyPage c pg).1.answer c .ok
      [byteOf (s.applyPage c pg).2.replaced, byteOf (s.applyPage c pg).2.deferred,
        byteOf (s.applyPage c pg).2.kept]).finish := by
  show execPageCommit c _ s = _
  simp [execPageCommit, latched, allowed]

/-- PAGE COMMIT under a guard that does not allow its port (R141). -/
theorem exec_pageCommit_guarded {s : State} {c : Port} {pg : Fin 128} (latched : (s.stagingOf c).page = some pg)
    (guarded : (s.guardOf (pagePosition pg)).allows c = false) :
    exec (.pageCommit c (byteOf pg.val)) s = .next (s.answer c .guarded []) := by
  show execPageCommit c _ s = _
  simp [execPageCommit, latched, guarded]

theorem exec_pageCommit_mismatch {s : State} {c : Port} {pg : Fin 128} (other : (s.stagingOf c).page ≠ some pg) :
    exec (.pageCommit c (byteOf pg.val)) s = .next (s.answer c .pageMismatch []) := by
  show execPageCommit c _ s = _
  simp [execPageCommit, other]

/-- A guard forbids a port when it is SEALED or owned by another (R144). -/
theorem allows_eq_false {x : Guard} {c : Port} (h : x = .sealed ∨ ∃ o, o ≠ c ∧ (x = .owned o ∨ x = .ownedPrivate o)) :
    x.allows c = false := by
  rcases h with rfl | ⟨o, ne, rfl | rfl⟩
  · rfl
  · simpa [Guard.allows] using ne
  · simpa [Guard.allows] using ne

theorem allows_eq_true {x : Guard} {c : Port} (h : x = .openGuard ∨ x = .owned c ∨ x = .ownedPrivate c) :
    x.allows c = true := by
  rcases h with rfl | rfl | rfl <;> simp [Guard.allows]

/-- What a taken commit leaves, by the commit of its slots. -/
structure Applied (s : State) (c : Port) (pg : Fin 128) (t : State) (n : CommitCounts) : Prop where
  frame : SameExcept [.directory, .staging, .positions] s t
  rings : OnlyRings s t
  committed : ∀ i x, (s.stagingOf c).slots.get i = some x → t.entry (pagePosition pg) (pageKey pg i) =
    (s.entry (pagePosition pg) (pageKey pg i)).committed (s.bound (pagePosition pg) (pageKey pg i)) x
  kept : ∀ q k, (∀ i, (q, k) = (pagePosition pg, pageKey pg i) → (s.stagingOf c).slots.get i = none) →
    t.entry q k = s.entry q k
  count : n.total = (s.stagingOf c).loaded
  buffer : ∀ c', t.stagingOf c' = if c' = c then Staging.emptied else s.stagingOf c'

theorem directoryChanged_entry (s : State) (p : PositionId) (old : Table 64 Entry) (q : PositionId) (k : Key) :
    (s.directoryChanged p old).entry q k = s.entry q k := by
  rw [State.entry, directoryChanged_frame s p old .directory (by decide)]
  rfl

theorem directoryChanged_stagingOf (s : State) (p : PositionId) (old : Table 64 Entry) (c : Port) :
    (s.directoryChanged p old).stagingOf c = s.stagingOf c := by
  rw [State.stagingOf, directoryChanged_frame s p old .staging (by decide)]
  rfl

theorem applyPage_applied (s : State) (c : Port) (pg : Fin 128) :
    Applied s c pg (s.applyPage c pg).1 (s.applyPage c pg).2 := by
  obtain ⟨committed, kept, count⟩ :=
    foldl_commitSlot_is (s.stagingOf c) pg (ascending 16) (List.nodup_finRange 16) s ⟨0, 0, 0⟩
  have frame := foldl_commitSlot_frame (s.stagingOf c) pg (ascending 16) (s, ⟨0, 0, 0⟩)
  refine ⟨applyPage_frame s c pg, applyPage_rings c pg, ?_, ?_, ?_, ?_⟩
  all_goals
    unfold State.applyPage
    dsimp only
    generalize (ascending 16).foldl (commitSlot (s.stagingOf c) pg) (s, ⟨0, 0, 0⟩) = u at committed kept count frame ⊢
  · intro i x loaded
    rw [directoryChanged_entry, ← committed i (by simp [ascending]) x loaded]
    rfl
  · intro q k free
    rw [directoryChanged_entry, ← kept q k fun i _ e => free i e]
    rfl
  · rw [loaded_is, count]
    simp [CommitCounts.total]
  · intro c'
    rw [directoryChanged_stagingOf]
    by_cases same : c' = c
    · subst same
      rw [if_pos rfl, State.setStaging_stagingOf]
    · rw [if_neg same, State.setStaging_stagingOf_ne _ _ same, State.stagingOf, frame .staging (by decide)]
      rfl

/-- Settles O47: each loaded slot is applied by its entry's binding, the ring queues follow, and the event ends. -/
theorem pageCommitApplies : Obligations.PageCommitApplies := by
  intro c pg s offers
  refine ⟨fun other => ?_, fun latched forbids => ?_, fun latched permits => ?_⟩
  · exact ⟨_, exec_pageCommit_mismatch other, answer_answered s c _ _, answer_frame s c _ _⟩
  · exact ⟨_, exec_pageCommit_guarded latched (allows_eq_false forbids), answer_answered s c _ _, answer_frame s c _ _⟩
  · have run := exec_pageCommit_taken latched (allows_eq_true permits)
    have applied := applyPage_applied s c pg
    generalize s.applyPage c pg = r at run applied
    obtain ⟨u, n⟩ := r
    dsimp only at run applied
    have before : SameExcept [.directory, .staging, .positions, .ports] s
        (u.answer c .ok [byteOf n.replaced, byteOf n.deferred, byteOf n.kept]) := applied.frame.step (answer_frame u c _ _)
    have ended : Ended (u.answer c .ok [byteOf n.replaced, byteOf n.deferred, byteOf n.kept]) _ :=
      finish_ended_none ((before .offers (by decide)).trans offers)
    have buffer (c' : Port) := (congrArg (fun d : Table 4 Staging => d.get c')
      (ended.frame .staging (by decide))).trans (applied.buffer c')
    refine ⟨_, n.replaced, n.deferred, n.kept, run, ended.answered (applied.frame .ports (by decide)) rfl,
      applied.count, fun i x loaded => ?_, fun i empty => ?_, fun q k far => ?_, ?_, fun i => ?_, fun c' ne => ?_, ?_,
      ended.onlyLampQueues (before .links (by decide)), ended.same before offers⟩
    · exact (ended.entry _ _).trans (applied.committed i x loaded)
    · refine (ended.entry _ _).trans (applied.kept _ _ fun j e => ?_)
      rw [← pageKey_injective pg (Prod.mk.inj e).2]
      exact empty
    · refine (ended.entry _ _).trans (applied.kept _ _ fun j e => ?_)
      obtain ⟨rfl, rfl⟩ := Prod.mk.inj e
      rcases far with ne | ne
      · exact absurd rfl ne
      · exact absurd rfl (ne j)
    · exact (congrArg Staging.page (buffer c)).trans (by rw [if_pos rfl]; rfl)
    · exact (congrArg (fun x : Staging => x.slots.get i) (buffer c)).trans (by rw [if_pos rfl]; exact Table.get_fill _ _)
    · exact (buffer c').trans (if_neg ne)
    · exact applied.rings.trans (OnlyRings.of_positions ended.positions)

/-! ### Guards -/

theorem guardMove_owned (x : Guard) (c : Port) : guardMove x c .owned = if x = .openGuard then some (.owned c) else none := by
  cases x <;> simp [guardMove]

theorem guardMove_ownedPrivate (x : Guard) (c : Port) :
    guardMove x c .ownedPrivate = if x = .openGuard ∨ x = .owned c then some (.ownedPrivate c) else none := by
  cases x with
  | owned o =>
    by_cases same : o = c
    · simp [guardMove, same]
    · simp [guardMove, same]
  | openGuard => simp [guardMove]
  | ownedPrivate o => simp [guardMove]
  | _ => simp [guardMove]

theorem guardMove_sealed (x : Guard) (c : Port) :
    guardMove x c .sealed = if x = .owned c ∨ x = .ownedPrivate c then some .sealed else none := by
  cases x <;> simp [guardMove]

theorem guardMove_openGuard (x : Guard) (c : Port) : guardMove x c .openGuard = none := by
  cases x <;> rfl

/-- An allowed move of a guard (R145). -/
theorem guardSet_moved {s : State} {c : Port} {p : PositionId} {code : Byte} {new : GuardName} {x : Guard}
    (read : guardArg code = some new) (move : guardMove (s.guardOf p) c new = some x) :
    ∃ t, exec (.guardSet c (byteOf p.val) code) s = .next t ∧ SameExcept [.guards, .ports] s t ∧
      (∀ q, q ≠ p → t.guardOf q = s.guardOf q) ∧ t.guardOf p = x ∧ Answered c .ok (guardBytes x) s t := by
  refine ⟨(s.setGuard p x).answer c .ok (guardBytes x), by
      show execGuardSet c _ _ s = _
      simp [execGuardSet, read, move],
    (setGuard_frame s p x).step (answer_frame _ c _ _), fun q ne => ?_, ?_, answered_of_ports rfl rfl⟩
  · exact State.setGuard_guardOf_ne s x ne
  · exact State.setGuard_guardOf s p x

/-- A move that the table does not have (R145). -/
theorem guardSet_refused {s : State} {c : Port} {p : PositionId} {code : Byte} {new : GuardName}
    (read : guardArg code = some new) (move : guardMove (s.guardOf p) c new = none) :
    ∃ t, exec (.guardSet c (byteOf p.val) code) s = .next t ∧ SameExcept [.guards, .ports] s t ∧
      (∀ q, q ≠ p → t.guardOf q = s.guardOf q) ∧ t.guardOf p = s.guardOf p ∧ Answered c .notPermitted [] s t :=
  ⟨s.answer c .notPermitted [], by
      show execGuardSet c _ _ s = _
      simp [execGuardSet, read, move],
    (answer_frame s c _ _).mono (by decide), fun q _ => rfl, rfl, answer_answered s c _ _⟩

/-- The four codes of a guard. -/
theorem guardCode_cases {code : Byte} (small : code.toNat < 4) : code = 0 ∨ code = 1 ∨ code = 2 ∨ code = 3 := by
  revert code
  decide

/-- Settles O48: the table of moves, code by code. -/
theorem guardSetMoves : Obligations.GuardSetMoves := by
  refine ⟨fun c a b s wide => ?_, fun c p code s small => ?_, fun c pg s latched forbids => ?_⟩
  · show execGuardSet c a b s = _
    unfold execGuardSet
    split
    · next p x => have := positionArg_lt p; have := guardArg_lt x; omega
    · rfl
  · rcases guardCode_cases small with rfl | rfl | rfl | rfl
    · obtain ⟨t, run, frame, others, same, answered⟩ :=
        guardSet_refused (code := 0) rfl (guardMove_openGuard (s.guardOf p) c)
      exact ⟨t, run, frame, others, (absurd · (by decide)), (absurd · (by decide)), (absurd · (by decide)),
          fun _ _ _ => ⟨same, answered⟩⟩
    · by_cases move : s.guardOf p = .openGuard
      · obtain ⟨t, run, frame, others, moved, answered⟩ :=
          guardSet_moved (code := 1) rfl ((guardMove_owned (s.guardOf p) c).trans (if_pos move))
        exact ⟨t, run, frame, others, fun _ _ => ⟨moved, answered⟩, (absurd · (by decide)), (absurd · (by decide)),
          fun no => absurd ⟨rfl, move⟩ no⟩
      · obtain ⟨t, run, frame, others, same, answered⟩ :=
          guardSet_refused (code := 1) rfl ((guardMove_owned (s.guardOf p) c).trans (if_neg move))
        exact ⟨t, run, frame, others, fun _ yes => absurd yes move, (absurd · (by decide)), (absurd · (by decide)),
          fun _ _ _ => ⟨same, answered⟩⟩
    · by_cases move : s.guardOf p = .openGuard ∨ s.guardOf p = .owned c
      · obtain ⟨t, run, frame, others, moved, answered⟩ :=
          guardSet_moved (code := 2) rfl ((guardMove_ownedPrivate (s.guardOf p) c).trans (if_pos move))
        exact ⟨t, run, frame, others, (absurd · (by decide)), fun _ _ => ⟨moved, answered⟩, (absurd · (by decide)),
          fun _ no => absurd ⟨rfl, move⟩ no⟩
      · obtain ⟨t, run, frame, others, same, answered⟩ :=
          guardSet_refused (code := 2) rfl ((guardMove_ownedPrivate (s.guardOf p) c).trans (if_neg move))
        exact ⟨t, run, frame, others, (absurd · (by decide)), fun _ yes => absurd yes move, (absurd · (by decide)),
          fun _ _ _ => ⟨same, answered⟩⟩
    · by_cases move : s.guardOf p = .owned c ∨ s.guardOf p = .ownedPrivate c
      · obtain ⟨t, run, frame, others, moved, answered⟩ :=
          guardSet_moved (code := 3) rfl ((guardMove_sealed (s.guardOf p) c).trans (if_pos move))
        exact ⟨t, run, frame, others, (absurd · (by decide)), (absurd · (by decide)), fun _ _ => ⟨moved, answered⟩,
          fun _ _ no => absurd ⟨rfl, move⟩ no⟩
      · obtain ⟨t, run, frame, others, same, answered⟩ :=
          guardSet_refused (code := 3) rfl ((guardMove_sealed (s.guardOf p) c).trans (if_neg move))
        exact ⟨t, run, frame, others, (absurd · (by decide)), (absurd · (by decide)), fun _ yes => absurd yes move,
          fun _ _ _ => ⟨same, answered⟩⟩
  · exact ⟨_, exec_pageCommit_guarded latched (allows_eq_false forbids), answer_answered s c _ _, latched,
      answer_frame s c _ _⟩

/-! ### Wiping a position -/

/-- The state in which a wipe is judged: the level of MNT has come with the command. -/
theorem mnt_frame (s : State) (mnt : Bool) : SameExcept [.mntPin] s { s with mntPin := mnt } := by
  intro q hq
  cases q <;> first | rfl | simp at hq

theorem anyBound_iff (s : State) (p : PositionId) : s.anyBound p = true ↔ ∃ k, s.bound p k = true := by
  simp [State.anyBound, ascending]

theorem wipe_entry (s : State) (p q : PositionId) (k : Key) :
    (s.wipe p).entry q k = if q = p then ⟨.empty, none⟩ else s.entry q k := by
  unfold State.wipe
  dsimp only
  rw [directoryChanged_entry]
  show (((s.directory.set p (Table.fill 64 ⟨.empty, none⟩)).get q).get k : Entry) = _
  by_cases same : q = p
  · subst same
    rw [if_pos rfl, Table.get_set_self, Table.get_fill]
  · rw [if_neg same, Table.get_set_ne _ _ same]
    rfl

theorem wipe_guardOf (s : State) (p q : PositionId) :
    (s.wipe p).guardOf q = if q = p then .openGuard else s.guardOf q := by
  rw [State.guardOf, (wipe_works s p).guards]
  by_cases same : q = p
  · subst same
    rw [if_pos rfl]
    exact State.setGuard_guardOf s q _
  · rw [if_neg same]
    exact State.setGuard_guardOf_ne s _ same

theorem wipe_others (s : State) (p : PositionId) : OtherPositions p s (s.wipe p) := fun _ ne =>
  directoryChanged_other _ _ ne

/-- A POSITION WIPE with MNT asserted and no entry bound (R148, R149). -/
theorem exec_positionWipe_taken {s : State} (c : Port) {p : PositionId} (free : ∀ k, s.bound p k = false) :
    exec (.positionWipe c (byteOf p.val) true) s =
      .next ((State.wipe { s with mntPin := true } p).answer c .ok [byteOf (s.filledEntries p)]).finish := by
  have unbound : State.anyBound { s with mntPin := true } p = false := by
    rw [← Bool.not_eq_true, anyBound_iff]
    rintro ⟨k, bound⟩
    have same : State.bound { s with mntPin := true } p k = s.bound p k := rfl
    rw [same, free k] at bound
    cases bound
  show execPositionWipe c _ _ s = _
  simp only [execPositionWipe, positionArg_byteOf, unbound]
  rfl

/-- The record that a lowest search finds satisfies its test, and no record below it does. -/
theorem findLowest_some {n : Nat} {α : Type} {t : Table n α} {q : α → Bool} {i : Fin n} (h : t.findLowest q = some i) :
    q (t.get i) = true ∧ ∀ j : Fin n, j < i → q (t.get j) = false := by
  unfold Table.findLowest at h
  split at h
  · next m found =>
    obtain ⟨lt, here, below⟩ := List.findIdx?_eq_some_iff_getElem.1 found
    rw [dif_pos (t.length_eq ▸ lt)] at h
    cases h
    exact ⟨here, fun j lt => by simpa [Table.get] using below j.val lt⟩
  · cases h

/-- An empty directory and no hold owner at the position leave its ring queue empty. -/
theorem wiped_queue {s : State} {p : PositionId} (rings : s.ringsAgree) (empty : ∀ k, s.entry p k = ⟨.empty, none⟩)
    (unheld : ∀ l k, (s.line l).holdOwner ≠ some ⟨p, k⟩) : (s.position p).ringQueue = [] := by
  have ok := (ringsFor_iff s).2 rings p
  refine List.eq_nil_iff_forall_not_mem.2 fun e he => ?_
  have wanted := ok.wanted he
  cases kind : e.kind with
  | ring =>
    obtain ⟨-, key⟩ := wantedRing_ring.1 (wanted.trans (congrArg some kind))
    obtain ⟨k, key⟩ := Option.isSome_iff_exists.1 key
    have rung := (findLowest_some key).1
    rw [show ((s.directory.get p).get k).content = .empty from congrArg Entry.content (empty k)] at rung
    cases rung
  | _ =>
    obtain ⟨-, k, owner⟩ := wantedRing_recall.1 (wanted.trans (congrArg some kind))
    exact unheld e.line k owner

/-- Settles O50: MNT is judged before the bindings; a wiped directory rings for nothing. -/
theorem positionWiped : Obligations.PositionWiped := by
  intro c p s offers
  refine ⟨?_, fun bound => ?_, fun free => ?_⟩
  · refine ⟨State.answer { s with mntPin := false } c .notPermitted [], ?_, answered_of_ports rfl rfl,
      (mnt_frame s false).step (answer_frame _ c _ _)⟩
    show execPositionWipe c _ _ s = _
    simp [execPositionWipe]
  · refine ⟨State.answer { s with mntPin := true } c .inUse [], ?_, answered_of_ports rfl rfl,
      (mnt_frame s true).step (answer_frame _ c _ _)⟩
    have any : State.anyBound { s with mntPin := true } p = true := (anyBound_iff _ p).2 bound
    show execPositionWipe c _ _ s = _
    simp [execPositionWipe, any]
  · have run := exec_positionWipe_taken c free
    have pinned := mnt_frame s true
    have unheld (l : LineId) (k : Key) : (s.line l).holdOwner ≠ some ⟨p, k⟩ := fun owner =>
      absurd (bound_iff.2 (.inr ⟨l, owner⟩)) (by simp [free k])
    have entries (q : PositionId) (k : Key) : (State.wipe { s with mntPin := true } p).entry q k =
        if q = p then ⟨.empty, none⟩ else s.entry q k := wipe_entry _ p q k
    have guards (q : PositionId) : (State.wipe { s with mntPin := true } p).guardOf q =
        if q = p then .openGuard else s.guardOf q := wipe_guardOf _ p q
    have others : OtherPositions p s (State.wipe { s with mntPin := true } p) := wipe_others { s with mntPin := true } p
    have rings : OnlyRings s (State.wipe { s with mntPin := true } p) := wipe_rings (s := { s with mntPin := true }) p
    have exact_ (h : s.ringsAgree) : (State.wipe { s with mntPin := true } p).ringsAgree := by
      have pinned : State.ringsOk { s with mntPin := true } False := .of_parts ((ringsFor_iff s).2 h) pinned
      exact (ringsFor_iff _).1 (pinned.wipe p)
    have wiped : SameExcept [.mntPin, .directory, .guards, .positions] s (State.wipe { s with mntPin := true } p) :=
      pinned.step (wipe_frame _ p)
    generalize State.wipe { s with mntPin := true } p = w at run entries guards others rings exact_ wiped
    have before : SameExcept [.mntPin, .directory, .guards, .positions, .ports] s (w.answer c .ok [byteOf (s.filledEntries p)]) :=
      wiped.step (answer_frame w c _ _)
    have ended : Ended (w.answer c .ok [byteOf (s.filledEntries p)]) _ :=
      finish_ended_none ((before .offers (by decide)).trans offers)
    refine ⟨_, s.filledEntries p, run, ended.answered (wiped .ports (by decide)) rfl, rfl, fun k => ?_, fun q ne k => ?_,
      ?_, fun q ne => ?_, fun q ne => (ended.position q).trans (others q ne), rings.trans (.of_positions ended.positions),
      ended.onlyLampQueues (before .links (by decide)), fun agree => ?_, ended.same before offers⟩
    · exact (ended.entry p k).trans ((entries p k).trans (if_pos rfl))
    · exact (ended.entry q k).trans ((entries q k).trans (if_neg ne))
    · exact (congrArg (fun x : Table 32 Guard => x.get p) (ended.frame .guards (by decide))).trans
        ((guards p).trans (if_pos rfl))
    · exact (congrArg (fun x : Table 32 Guard => x.get q) (ended.frame .guards (by decide))).trans
        ((guards q).trans (if_neg ne))
    · have empty := wiped_queue (exact_ agree) (fun k => (entries p k).trans (if_pos rfl)) fun l k => by
        rw [lines_of_frame wiped]
        exact unheld l k
      rw [Position.ringerCondition, ended.position p]
      have same : State.position (w.answer c .ok [byteOf (s.filledEntries p)]) p = w.position p := rfl
      rw [same, empty]
      exact ⟨rfl, rfl⟩

/-! ### Guards over every command -/

/-- No move ends at OPEN (R145). -/
theorem guardMove_ne_open {x y : Guard} {c : Port} {new : GuardName} (move : guardMove x c new = some y) :
    y ≠ .openGuard := by
  rintro rfl
  cases new with
  | openGuard => rw [guardMove_openGuard] at move; cases move
  | owned => rw [guardMove_owned] at move; split at move <;> cases move
  | ownedPrivate => rw [guardMove_ownedPrivate] at move; split at move <;> cases move
  | _ => rw [guardMove_sealed] at move; split at move <;> cases move

/-- What GUARD SET does to the guards: nothing, or one move of its position's. -/
theorem guardSet_guards {c : Port} {a b : Byte} {s t : State} (run : exec (.guardSet c a b) s = .next t) :
    t.guards = s.guards ∨ ∃ q x, q.val = a.toNat ∧ x ≠ .openGuard ∧ t.guards = (s.setGuard q x).guards := by
  have run : execGuardSet c a b s = .next t := run
  unfold execGuardSet at run
  split at run
  · next q new here _ =>
    split at run
    · next x move =>
      cases run
      exact .inr ⟨q, x, numberArg_val here, guardMove_ne_open move, rfl⟩
    · cases run
      exact .inl rfl
  · cases run
    exact .inl rfl

/-- What POSITION WIPE does to the guards: nothing, or, with MNT asserted, it opens its position's. -/
theorem positionWipe_guards {c : Port} {a : Byte} {m : Bool} {s t : State} (run : exec (.positionWipe c a m) s = .next t) :
    t.guards = s.guards ∨ ∃ q : PositionId, q.val = a.toNat ∧ m = true ∧ t.guards = (s.setGuard q .openGuard).guards := by
  have run : execPositionWipe c a m s = .next t := run
  unfold execPositionWipe at run
  dsimp only at run
  split at run
  · cases run
    exact .inl rfl
  · next q here =>
    by_cases mnt : m = true
    · rw [if_neg (by simp [mnt])] at run
      split at run
      · cases run
        exact .inl rfl
      · have opened : (State.wipe { s with mntPin := m } q).guards = (s.setGuard q .openGuard).guards :=
          (wipe_works { s with mntPin := m } q).guards
        generalize State.wipe { s with mntPin := m } q = w at run opened
        cases run
        exact .inr ⟨q, numberArg_val here, mnt, (finish_frame _ .guards (by decide)).trans opened⟩
    · rw [if_pos (by simp [mnt])] at run
      cases run
      exact .inl rfl

theorem guardOf_of_guards {s t : State} (same : t.guards = s.guards) (p : PositionId) : t.guardOf p = s.guardOf p := by
  rw [State.guardOf, same]
  rfl

/-- Settles O49: only GUARD SET, POSITION WIPE and reset move a guard, and each of them in one direction. -/
theorem guardOnlyTightens : Obligations.GuardOnlyTightens := by
  intro i p s t run
  rcases exec_keeps s i with ⟨q, m, rfl⟩ | ⟨c, a, b, rfl⟩ | ⟨c, a, m, rfl⟩ | keeps
  · refine ⟨fun _ closed => absurd ?_ closed, fun _ _ => .inl ⟨q, m, rfl⟩⟩
    cases run
    exact Table.get_fill _ p
  · rcases guardSet_guards run with same | ⟨q, x, here, closed, moved⟩
    · rw [guardOf_of_guards same]
      exact ⟨fun opened closed => absurd opened closed, fun closed opened => absurd opened closed⟩
    · rw [guardOf_of_guards moved]
      by_cases at_ : p = q
      · subst at_
        rw [State.setGuard_guardOf]
        exact ⟨fun _ _ => ⟨c, a, b, rfl, here.symm⟩, fun _ opened => absurd opened closed⟩
      · rw [State.setGuard_guardOf_ne s x at_]
        exact ⟨fun opened closed => absurd opened closed, fun closed opened => absurd opened closed⟩
  · rcases positionWipe_guards run with same | ⟨q, here, rfl, moved⟩
    · rw [guardOf_of_guards same]
      exact ⟨fun opened closed => absurd opened closed, fun closed opened => absurd opened closed⟩
    · rw [guardOf_of_guards moved]
      by_cases at_ : p = q
      · subst at_
        rw [State.setGuard_guardOf]
        exact ⟨fun _ closed => absurd rfl closed, fun _ _ => .inr ⟨c, a, rfl, here.symm⟩⟩
      · rw [State.setGuard_guardOf_ne s _ at_]
        exact ⟨fun opened closed => absurd opened closed, fun closed opened => absurd opened closed⟩
  · rw [guardOf_of_guards (keeps t run).guards]
    exact ⟨fun opened closed => absurd opened closed, fun closed opened => absurd opened closed⟩

end Sys2Proof.Machine
end

section
/-! PROOFS. Transfers on the controller ports, the return of results, and the requests about notices (R163 to R169, R178 to
R182). -/

namespace Sys2Proof.Machine

-- One theorem after another: side by side they hold the memory of too many stacks.
set_option Elab.async false

/-! ### One port's record -/

/-- Of the whole state, at most the record of port `c` has changed. -/
structure OnePort (c : Port) (s t : State) : Prop where
  others : ∀ c', c' ≠ c → t.port c' = s.port c'
  frame : SameExcept [.ports] s t

theorem OnePort.refl (c : Port) (s : State) : OnePort c s s := ⟨fun _ _ => rfl, .refl _ s⟩

theorem OnePort.trans {c : Port} {s t u : State} (h : OnePort c s t) (k : OnePort c t u) : OnePort c s u :=
  ⟨fun c' ne => (k.others c' ne).trans (h.others c' ne), h.frame.trans k.frame⟩

theorem setPort_onePort (s : State) (c : Port) (x : PortRecord) : OnePort c s (s.setPort c x) :=
  ⟨fun _ ne => State.setPort_port_ne s x ne, setPort_frame s c x⟩

/-! ### Transfers -/

theorem shiftedOut_zeros (status : Byte) (n : Nat) : shiftedOut status [] (n + 1) = status :: List.replicate n 0 := by
  simp [shiftedOut, List.take_replicate]

/-- A response frame's bytes from the third on, then zeros (R167). -/
theorem shiftedOut_response (status : Byte) (left : List Byte) (n : Nat) :
    shiftedOut status (0 :: left) (n + 2) = status :: 0 :: (left.take n ++ List.replicate (n - left.length) 0) := by
  simp only [shiftedOut, List.cons_append, List.take_succ_cons, List.take_append, List.take_replicate]
  rw [Nat.min_eq_left (by omega)]

/-- The port record once the first byte of a transfer of `n + 1` bytes has gone (R163). -/
def PortRecord.begun (status : Byte) (n : Nat) (x : PortRecord) : PortRecord :=
  { x with dataOut := status :: List.replicate n 0, dropped := false, malformed := false }

theorem beginTransfer_succ (s : State) (c : Port) (n : Nat) :
    s.beginTransfer c (n + 1) = s.setPort c ((s.port c).begun (s.statusByte c) n) := by
  simp [State.beginTransfer, shiftedOut_zeros, PortRecord.begun]

/-- The catalogue has the numbers 1 to 29 (R173). -/
theorem catalogueArgs_none {n : Nat} : catalogueArgs n = none ↔ n = 0 ∨ 29 < n := by
  by_cases big : 29 < n
  · refine ⟨fun _ => .inr big, fun _ => ?_⟩
    unfold catalogueArgs
    split <;> first | rfl | omega
  · have small : n < 30 := by omega
    have all : ∀ i : Fin 30, catalogueArgs i.val = none ↔ i.val = 0 := by decide
    rw [or_iff_left big]
    exact all ⟨n, small⟩

theorem unknownResponse (tag number : Byte) : responseFrame tag .unknownRequest [number] = [0, 3, tag, 16, number] := by
  simp [responseFrame, halfBytes, byteOf, ResultCode.code]

theorem okResponse (tag : Byte) : responseFrame tag .ok [] = [0, 2, tag, 0] := rfl

section
variable (s : State) (c : Port) (tag number : Byte) (args : List Byte)

theorem dispatch_reset (number_ : number.toNat = 25) : s.dispatch c tag number [] = s.portReset c tag := by
  simp [State.dispatch, number_, portResetNumber]

theorem dispatch_busy (number_ : number.toNat ≠ 25) (busy : (s.port c).state ≠ .idle ∨ (s.port c).discard = true) :
    s.dispatch c tag number args = s.setPort c { s.port c with dropped := true } := by
  have unfree : (s.port c).free = false := by
    rcases busy with e | e <;> simp [PortRecord.free, e]
  simp [State.dispatch, portResetNumber, number_, unfree, State.dropRequest]

/-- A frame of a number that the catalogue does not have, on an IDLE port without discard mark (R165). -/
theorem dispatch_unknown (number_ : number.toNat ≠ 25) (idle : (s.port c).state = .idle) (clear : (s.port c).discard = false)
    (unknown : catalogueArgs number.toNat = none) :
    s.dispatch c tag number args = s.portResponds c tag .unknownRequest [number] := by
  simp [State.dispatch, portResetNumber, number_, PortRecord.free, idle, clear, unknown]

/-- A frame with the catalogue's argument count, on an IDLE port without discard mark (R165). -/
theorem dispatch_passed (number_ : number.toNat ≠ 25) (idle : (s.port c).state = .idle) (clear : (s.port c).discard = false)
    (known : catalogueArgs number.toNat = some args.length) :
    s.dispatch c tag number args = s.passRequest c tag number args := by
  simp [State.dispatch, portResetNumber, number_, PortRecord.free, idle, clear, known]

/-- A frame with another argument count, on an IDLE port without discard mark (R165). -/
theorem dispatch_badArg (number_ : number.toNat ≠ 25) (idle : (s.port c).state = .idle) (clear : (s.port c).discard = false)
    {n : Nat} (known : catalogueArgs number.toNat = some n) (ne : args.length ≠ n) :
    s.dispatch c tag number args = s.portResponds c tag .badArg [] := by
  simp [State.dispatch, portResetNumber, number_, PortRecord.free, idle, clear, known, ne]

end

/-- What a request frame does: its first byte goes, then it is dispatched. -/
theorem exec_requestFrame (s : State) (c : Port) (tag number : Byte) (args extra : List Byte)
    (short : args.length + 2 < 65536) :
    exec (.requestFrame c (frameBytes tag number.toNat args ++ extra)) s =
      .next ((s.setPort c ((s.port c).begun (s.statusByte c) (args.length + extra.length + 3))).dispatch c tag number
        args) := by
  have length : (frameBytes tag number.toNat args ++ extra).length = (args.length + extra.length + 3) + 1 := by
    simp [frameBytes, halfBytes]
  have number_ : byteOf number.toNat = number := by simp [byteOf]
  show Host.Outcome.next (s.transfer c _) = _
  rw [State.transfer, judgeTransfer_frame tag number.toNat args extra short, length, beginTransfer_succ, number_]

/-- Settles O54: by the state of the port, then by the catalogue. -/
theorem requestFrameDispatched : Obligations.RequestFrameDispatched := by
  intro c tag number args extra s short number_
  have run := exec_requestFrame s c tag number args extra short
  have begun := setPort_onePort s c ((s.port c).begun (s.statusByte c) (args.length + extra.length + 3))
  have record : (s.setPort c ((s.port c).begun (s.statusByte c) (args.length + extra.length + 3))).port c =
      (s.port c).begun (s.statusByte c) (args.length + extra.length + 3) := State.setPort_port _ _ _
  generalize s.setPort c ((s.port c).begun (s.statusByte c) (args.length + extra.length + 3)) = u at run begun record
  by_cases free : (s.port c).state = .idle ∧ (s.port c).discard = false
  · obtain ⟨idle, clear⟩ := free
    have idle' : (u.port c).state = .idle := (congrArg PortRecord.state record).trans idle
    have clear' : (u.port c).discard = false := (congrArg PortRecord.discard record).trans clear
    cases known : catalogueArgs number.toNat with
    | none =>
      rw [dispatch_unknown u c tag number args number_ idle' clear' known] at run
      have written := begun.trans (setPort_onePort u c
        { u.port c with state := .ready, slot := some (responseFrame tag .unknownRequest [number]), readPosition := 0 })
      have after : (u.portResponds c tag .unknownRequest [number]).port c = { u.port c with
        state := .ready, slot := some (responseFrame tag .unknownRequest [number]), readPosition := 0 } :=
          State.setPort_port _ _ _
      rw [record] at after
      refine ⟨_, run, written.others, written.frame, ?_⟩
      rw [after]
      refine ⟨rfl, rfl, rfl, fun _ _ => ⟨rfl, by simp, by simp, fun _ => ⟨rfl, congrArg some (unknownResponse tag number), rfl, rfl⟩⟩, ?_⟩
      simp [idle, clear]
    | some n =>
      have inside : ¬(number.toNat = 0 ∨ 29 < number.toNat) := by
        rw [← catalogueArgs_none, known]
        simp
      by_cases counted : args.length = n
      · rw [dispatch_passed u c tag number args number_ idle' clear' (known.trans (congrArg some counted.symm))] at run
        have written := begun.trans (setPort_onePort u c
          { u.port c with state := .busy, inFlight := some ⟨tag, number, args⟩, answer := none })
        have after : (u.passRequest c tag number args).port c =
            { u.port c with state := .busy, inFlight := some ⟨tag, number, args⟩, answer := none } :=
          State.setPort_port _ _ _
        rw [record] at after
        refine ⟨_, run, written.others, written.frame, ?_⟩
        rw [after]
        refine ⟨rfl, rfl, rfl, fun _ _ => ⟨rfl, fun _ => ⟨rfl, rfl, rfl⟩, fun m is ne => ?_, fun no => absurd no inside⟩, ?_⟩
        · exact absurd (counted.trans (Option.some.inj is)) (Ne.symm ne)
        · simp [idle, clear]
      · rw [dispatch_badArg u c tag number args number_ idle' clear' known counted] at run
        have written := begun.trans (setPort_onePort u c
          { u.port c with state := .ready, slot := some (responseFrame tag .badArg []), readPosition := 0 })
        have after : (u.portResponds c tag .badArg []).port c =
            { u.port c with state := .ready, slot := some (responseFrame tag .badArg []), readPosition := 0 } :=
          State.setPort_port _ _ _
        rw [record] at after
        refine ⟨_, run, written.others, written.frame, ?_⟩
        rw [after]
        refine ⟨rfl, rfl, rfl, fun _ _ => ⟨rfl, fun is => ?_, fun _ _ _ => ⟨rfl, rfl, rfl, rfl⟩, fun no => absurd no inside⟩, ?_⟩
        · exact absurd (Option.some.inj is).symm counted
        · simp [idle, clear]
  · have busy : (s.port c).state ≠ .idle ∨ (s.port c).discard = true := by
      rw [← Bool.not_eq_false]
      exact not_and_or.1 free
    rw [dispatch_busy u c tag number args number_ (by rw [record]; exact busy)] at run
    have written := begun.trans (setPort_onePort u c { u.port c with dropped := true })
    refine ⟨_, run, written.others, written.frame, ?_⟩
    rw [State.setPort_port, record]
    exact ⟨rfl, rfl, rfl, fun idle clear => absurd ⟨idle, clear⟩ free, fun _ => ⟨rfl, rfl, rfl, rfl, rfl⟩⟩

/-! ### The status byte -/

/-- The five bits of the status byte (R163). -/
theorem statusBits (ready dropped malformed attn quiet : Bool) :
    (byteOf (ready.toNat + 2 * dropped.toNat + 4 * malformed.toNat + 8 * attn.toNat + 16 * quiet.toNat)).getLsbD 0 = ready ∧
    (byteOf (ready.toNat + 2 * dropped.toNat + 4 * malformed.toNat + 8 * attn.toNat + 16 * quiet.toNat)).getLsbD 1 =
      dropped ∧
    (byteOf (ready.toNat + 2 * dropped.toNat + 4 * malformed.toNat + 8 * attn.toNat + 16 * quiet.toNat)).getLsbD 2 =
      malformed ∧
    (byteOf (ready.toNat + 2 * dropped.toNat + 4 * malformed.toNat + 8 * attn.toNat + 16 * quiet.toNat)).getLsbD 3 = attn ∧
    (byteOf (ready.toNat + 2 * dropped.toNat + 4 * malformed.toNat + 8 * attn.toNat + 16 * quiet.toNat)).getLsbD 4 = quiet ∧
    (byteOf (ready.toNat + 2 * dropped.toNat + 4 * malformed.toNat + 8 * attn.toNat + 16 * quiet.toNat)).toNat < 32 := by
  revert ready dropped malformed attn quiet
  decide

/-- A malformed transfer has at least two bytes (R164). -/
theorem judgeTransfer_malformed {bytes : List Byte} (bad : judgeTransfer bytes = .malformed) : 2 ≤ bytes.length := by
  rcases bytes with _ | ⟨a, _ | ⟨b, rest⟩⟩
  · cases bad
  · cases bad
  · simp

/-- Settles O55: the transfers that reach no block, and the status byte bit by bit. -/
theorem statusShiftedOut : Obligations.StatusShiftedOut := by
  refine ⟨fun c s => ⟨?_, fun b => ?_, fun bytes bad => ?_⟩, fun c s => ?_⟩
  · have written := setPort_onePort s c { s.port c with dataOut := [] }
    exact ⟨_, rfl, State.setPort_port _ _ _, written.others, written.frame⟩
  · have written := setPort_onePort s c ((s.port c).begun (s.statusByte c) 0)
    have run : exec (.statusPoll c [b]) s = .next (s.setPort c ((s.port c).begun (s.statusByte c) 0)) :=
      congrArg Host.Outcome.next (beginTransfer_succ s c 0)
    exact ⟨_, run, State.setPort_port _ _ _, written.others, written.frame⟩
  · have two := judgeTransfer_malformed bad
    obtain ⟨n, length⟩ : ∃ n, bytes.length = n + 1 := ⟨bytes.length - 1, by omega⟩
    have run : exec (.malformedFrame c bytes) s =
        .next ((s.setPort c ((s.port c).begun (s.statusByte c) n)).dropMalformed c) := by
      show Host.Outcome.next (s.transfer c bytes) = _
      rw [State.transfer, bad, length, beginTransfer_succ]
    rw [length]
    have written := (setPort_onePort s c ((s.port c).begun (s.statusByte c) n)).trans
      (setPort_onePort (s.setPort c ((s.port c).begun (s.statusByte c) n)) c
        { (s.setPort c ((s.port c).begun (s.statusByte c) n)).port c with malformed := true })
    refine ⟨_, run, ?_, written.others, written.frame⟩
    rw [State.dropMalformed, State.setPort_port, State.setPort_port]
    rfl
  · obtain ⟨ready, dropped, malformed, attn, quiet, small⟩ := statusBits (decide ((s.port c).state = .ready))
      (s.port c).dropped (s.port c).malformed (s.attn c) (decide (s.quiet ≠ .off))
    refine ⟨?_, dropped, malformed, ?_, ?_, fun i high => ?_⟩
    · exact (congrArg (· = true) ready).to_iff.trans decide_eq_true_iff
    · refine (congrArg (· = true) attn).to_iff.trans ?_
      simp [State.attn, NoticeQueue.atThreshold, or_assoc]
    · exact (congrArg (· = true) quiet).to_iff.trans decide_eq_true_iff
    · exact Nat.testBit_eq_false_of_lt (Nat.lt_of_lt_of_le small (Nat.pow_le_pow_right (n := 2) (by decide) high))

/-! ### Responses -/

/-- A pure read in READY: the record after it (R167). -/
def PortRecord.readOut (status : Byte) (frame : List Byte) (n : Nat) (x : PortRecord) : PortRecord :=
  let out := status :: 0 ::
    ((frame.drop x.readPosition).take n ++ List.replicate (n - (frame.length - x.readPosition)) 0)
  if frame.length - x.readPosition ≤ n then
    { x with state := .idle, slot := none, readPosition := 0, dropped := false, malformed := false, dataOut := out }
  else { x with readPosition := x.readPosition + n, dropped := false, malformed := false, dataOut := out }

theorem exec_pureRead (s : State) (c : Port) (extra : List Byte) :
    exec (.pureRead c (0 :: 0 :: extra)) s =
      .next ((s.setPort c ((s.port c).begun (s.statusByte c) (extra.length + 1))).pureRead c (s.statusByte c)
        (extra.length + 2)) := by
  show Host.Outcome.next (s.transfer c _) = _
  have judged : judgeTransfer (0 :: 0 :: extra) = .pureRead := by simp [judgeTransfer, frameLength]
  rw [State.transfer, judged]
  simp only [List.length_cons]
  rw [beginTransfer_succ]

/-- A pure read of a port that has no response waiting shifts zeros out (R167). -/
theorem pureRead_idle {s : State} {c : Port} (status : Byte) (n : Nat) (unready : (s.port c).state ≠ .ready) :
    s.pureRead c status n = s := by
  unfold State.pureRead
  dsimp only
  split
  · next ready _ => exact absurd ready unready
  all_goals rfl

/-- A pure read of a waiting response (R167). -/
theorem pureRead_ready {s : State} {c : Port} (status : Byte) (n : Nat) {frame : List Byte}
    (ready : (s.port c).state = .ready) (slot : (s.port c).slot = some frame) (dropped : (s.port c).dropped = false)
    (malformed : (s.port c).malformed = false) :
    s.pureRead c status (n + 2) = s.setPort c ((s.port c).readOut status frame n) := by
  simp only [State.pureRead, ready, slot, shiftedOut_response, Nat.add_sub_cancel, List.length_drop, PortRecord.readOut]
  split <;> simp only [dropped, malformed]

/-- The record of a port whose result has come back (R166). -/
def PortRecord.returned (f : InFlight) (a : Answer) (x : PortRecord) : PortRecord :=
  if x.discard then { x with discard := false, inFlight := none, answer := none }
  else { x with
    state := .ready, slot := some (responseFrame f.tag a.result a.data), readPosition := 0
    inFlight := none, answer := none }

theorem returnResult_is (s : State) (c : Port) (f : InFlight) (a : Answer) :
    s.returnResult c f a = s.setPort c ((s.port c).returned f a) := by
  unfold State.returnResult PortRecord.returned
  dsimp only
  split <;> rfl

theorem attn_of_ready {s : State} {c : Port} (ready : (s.port c).state = .ready) : s.attn c = true := by
  simp [State.attn, ready]

/-- Settles O56: what the slot holds goes out from the read position. -/
theorem responsesReturned : Obligations.ResponsesReturned := by
  refine ⟨fun c f a s inFlight answer => ?_, fun c extra s => ⟨fun frame ready slot => ?_, fun unready => ?_⟩⟩
  · have run : exec (.resultReturn c) s = .next (s.setPort c ((s.port c).returned f a)) := by
      show execResultReturn c s = _
      simp only [execResultReturn, inFlight, answer, returnResult_is]
    have written := setPort_onePort s c ((s.port c).returned f a)
    refine ⟨_, run, written.others, written.frame, ?_⟩
    have after : (s.setPort c ((s.port c).returned f a)).port c = (s.port c).returned f a := State.setPort_port _ _ _
    by_cases discard : (s.port c).discard = true
    · rw [after, PortRecord.returned, if_pos discard]
      exact ⟨rfl, rfl, rfl, fun clear => absurd (clear.symm.trans discard) (by decide), fun _ => ⟨rfl, rfl, rfl⟩⟩
    · have ready : (((s.port c).returned f a)).state = .ready := by rw [PortRecord.returned, if_neg discard]
      refine ⟨?_, ?_, ?_, fun _ => ⟨?_, ?_, ?_, attn_of_ready ((congrArg PortRecord.state after).trans ready)⟩, fun on => absurd on discard⟩
      all_goals rw [after, PortRecord.returned, if_neg discard]
      · simpa using discard
      · rfl
  · have run := exec_pureRead s c extra
    have begun := setPort_onePort s c ((s.port c).begun (s.statusByte c) (extra.length + 1))
    have record : (s.setPort c ((s.port c).begun (s.statusByte c) (extra.length + 1))).port c =
        (s.port c).begun (s.statusByte c) (extra.length + 1) := State.setPort_port _ _ _
    generalize s.setPort c ((s.port c).begun (s.statusByte c) (extra.length + 1)) = u at run begun record
    rw [pureRead_ready (s.statusByte c) extra.length (by rw [record]; exact ready) (by rw [record]; exact slot)
      (by rw [record]; rfl) (by rw [record]; rfl), record] at run
    have written := begun.trans (setPort_onePort u c
      (((s.port c).begun (s.statusByte c) (extra.length + 1)).readOut (s.statusByte c) frame extra.length))
    have position : ((s.port c).begun (s.statusByte c) (extra.length + 1)).readPosition = (s.port c).readPosition := rfl
    generalize is : ((s.port c).begun (s.statusByte c) (extra.length + 1)).readOut (s.statusByte c) frame extra.length = y
      at run written
    rw [PortRecord.readOut, position] at is
    refine ⟨_, run, ?_⟩
    rw [State.setPort_port]
    by_cases last : frame.length - (s.port c).readPosition ≤ extra.length
    · rw [if_pos last] at is
      exact ⟨by rw [← is], fun _ => ⟨by rw [← is], by rw [← is], by rw [← is]⟩, fun more => absurd last (by omega),
        by rw [← is], by rw [← is], written.others, written.frame⟩
    · rw [if_neg last] at is
      exact ⟨by rw [← is], fun no => absurd no last, fun _ => ⟨by rw [← is]; exact ready, by rw [← is]; exact slot, by rw [← is]⟩,
        by rw [← is], by rw [← is], written.others, written.frame⟩
  · have run := exec_pureRead s c extra
    have written := setPort_onePort s c ((s.port c).begun (s.statusByte c) (extra.length + 1))
    rw [pureRead_idle _ _ (by rw [State.setPort_port]; exact unready)] at run
    exact ⟨_, run, State.setPort_port _ _ _, written.others, written.frame⟩

/-! ### PORT RESET -/

/-- The record of a port after its PORT RESET (R169). -/
theorem portReset_port (s : State) (c : Port) (tag : Byte) :
    (s.portReset c tag).port c = { s.port c with
      state := .ready, slot := some [0, 2, tag, 0], readPosition := 0, dropped := false, malformed := false
      discard := (s.port c).discard || decide ((s.port c).state = .busy) } := by
  have mark : (s.port c).discardAfterReset = ((s.port c).discard || decide ((s.port c).state = .busy)) := by
    unfold PortRecord.discardAfterReset
    cases (s.port c).state <;> simp
  rw [← mark, ← okResponse]
  exact State.setPort_port _ _ _

theorem portReset_emptied (s : State) (c : Port) (tag : Byte) : PortEmptied c s (s.portReset c tag) := by
  have buffer : (s.portReset c tag).stagingOf c = Staging.emptied := State.setStaging_stagingOf s c _
  have queue : (s.portReset c tag).noticeQueue c = (s.noticeQueue c).emptied :=
    State.setNoticeQueue_noticeQueue (s.setStaging c Staging.emptied) c _
  refine ⟨fun c' ne => ⟨State.setPort_port_ne _ _ ne, State.setStaging_stagingOf_ne s _ ne,
    State.setNoticeQueue_noticeQueue_ne (s.setStaging c Staging.emptied) _ ne⟩, ?_, fun i => ?_, queue, ?_⟩
  · rw [buffer]
    rfl
  · rw [buffer]
    exact Table.get_fill _ _
  · have staged : SameExcept [.ports, .staging, .notices] s (s.setStaging c Staging.emptied) :=
      (setStaging_frame s c _).mono (by decide)
    have queued : SameExcept [.ports, .staging, .notices] s
        ((s.setStaging c Staging.emptied).setNoticeQueue c (s.noticeQueue c).emptied) := by
      refine staged.trans fun q hq => ?_
      cases q <;> first | rfl | simp at hq
    exact queued.trans ((setPort_frame _ c _).mono (by decide))

/-- A reset on the record of a port whose transfer has begun empties what the reset on the record before would. -/
theorem PortEmptied.after {c : Port} {s u t : State} (begun : OnePort c s u) (h : PortEmptied c u t) : PortEmptied c s t := by
  obtain ⟨others, page, slots, queue, frame⟩ := h
  have staging : u.stagingOf = s.stagingOf := by
    funext c'
    rw [State.stagingOf, begun.frame .staging (by decide)]
    rfl
  have notices : u.noticeQueue = s.noticeQueue := by
    funext c'
    rw [State.noticeQueue, begun.frame .notices (by decide)]
    rfl
  refine ⟨fun c' ne => ?_, page, slots, by rw [queue, notices], (begun.frame.mono (by decide)).trans frame⟩
  obtain ⟨port, buffer, offered⟩ := others c' ne
  exact ⟨port.trans (begun.others c' ne), by rw [buffer, staging], by rw [offered, notices]⟩

/-- Settles O57: the reset by its command, by its frame, and the frame that carries arguments. -/
theorem portResets : Obligations.PortResets := by
  refine ⟨fun c tag s => ?_, fun c tag extra s => ?_, fun c tag a args extra s short => ?_⟩
  · exact ⟨_, rfl, portReset_port s c tag, portReset_emptied s c tag⟩
  · have run := exec_requestFrame s c tag 25 [] extra (by decide)
    have begun := setPort_onePort s c ((s.port c).begun (s.statusByte c) (0 + extra.length + 3))
    have record : (s.setPort c ((s.port c).begun (s.statusByte c) (0 + extra.length + 3))).port c =
        (s.port c).begun (s.statusByte c) (0 + extra.length + 3) := State.setPort_port _ _ _
    simp only [List.length_nil] at run
    generalize s.setPort c ((s.port c).begun (s.statusByte c) (0 + extra.length + 3)) = u at run begun record
    rw [dispatch_reset u c tag 25 rfl] at run
    refine ⟨_, run, ?_, .after begun (portReset_emptied u c tag)⟩
    rw [portReset_port, record, Nat.zero_add]
    rfl
  · have run := exec_requestFrame s c tag 25 (a :: args) extra (by simpa using short)
    have length : (a :: args).length + extra.length + 3 = args.length + extra.length + 4 := by
      simp only [List.length_cons]
      omega
    rw [length] at run
    have begun := setPort_onePort s c ((s.port c).begun (s.statusByte c) (args.length + extra.length + 4))
    have record : (s.setPort c ((s.port c).begun (s.statusByte c) (args.length + extra.length + 4))).port c =
        (s.port c).begun (s.statusByte c) (args.length + extra.length + 4) := State.setPort_port _ _ _
    generalize s.setPort c ((s.port c).begun (s.statusByte c) (args.length + extra.length + 4)) = u at run begun record
    by_cases idle : (s.port c).state = .idle
    · have answered : u.dispatch c tag 25 (a :: args) = u.portResponds c tag .badArg [] := by
        simp [State.dispatch, portResetNumber, record, PortRecord.begun, idle]
      rw [answered] at run
      have written := begun.trans (setPort_onePort u c
        { u.port c with state := .ready, slot := some (responseFrame tag .badArg []), readPosition := 0 })
      refine ⟨_, run, ?_, written.others, written.frame⟩
      rw [State.portResponds, State.setPort_port, record, if_pos idle]
      rfl
    · have dropped : u.dispatch c tag 25 (a :: args) = u.dropRequest c := by
        simp [State.dispatch, portResetNumber, record, PortRecord.begun, idle]
      rw [dropped] at run
      have written := begun.trans (setPort_onePort u c { u.port c with dropped := true })
      refine ⟨_, run, ?_, written.others, written.frame⟩
      rw [State.dropRequest, State.setPort_port, record, if_neg idle]
      rfl

/-! ### Notice requests -/

theorem thresholdTaken_is (n : Nat) : thresholdTaken n = if n < 4 then 1 else if n < 8 then 4 else if n < 16 then 8 else 16 :=
  rfl

theorem ageLimitTaken_is (n : Nat) :
    ageLimitTaken n = if n < 10 then 10 else if 2550 < n then 2550 else n - n % 10 := by
  unfold ageLimitTaken
  split
  · rfl
  · split
    · next small => rw [if_neg (by omega)]; omega
    · next big => rw [if_pos (by omega)]

/-- A request in flight that is not a NOTICE READ waits for its RESULT_RETURN (R166, R182). -/
theorem answer_returnRead_other {s u : State} {c : Port} (ports : u.ports = s.ports) (r : ResultCode) (d : List Byte)
    (other : ∀ f, (s.port c).inFlight = some f → f.number ≠ 29) : Answered c r d s ((u.answer c r d).returnRead c) := by
  have answered : Answered c r d s (u.answer c r d) := answered_of_ports ports rfl
  rw [returnRead_other]
  · exact answered
  · intro f inFlight number
    rw [answered.1] at inFlight
    exact other f inFlight (BitVec.eq_of_toNat_eq number)

/-- The NOTICE READ that the port has in flight gets its answer back in the event (R182, log entry 21). -/
theorem answer_returnRead_own {s u : State} {c : Port} (ports : u.ports = s.ports) (r : ResultCode) (d : List Byte)
    {f : InFlight} (inFlight : (s.port c).inFlight = some f) (number : f.number = 29) :
    ReadReturned c f r d s ((u.answer c r d).returnRead c) := by
  obtain ⟨port, others⟩ : Answered c r d s (u.answer c r d) := answered_of_ports ports rfl
  have flight : (u.port c).inFlight = some f := by rw [State.port, ports]; exact inFlight
  have after : (((u.answer c r d).setPort c (((u.answer c r d).port c).returned f ⟨r, d⟩)).port c) =
      ((u.answer c r d).port c).returned f ⟨r, d⟩ := State.setPort_port _ _ _
  rw [returnRead_answered u c f r d flight (by rw [number]; rfl), returnResult_is]
  rw [port] at after
  refine ⟨?_, fun clear => attn_of_ready ?_, fun c' ne => (State.setPort_port_ne _ _ ne).trans (others c' ne)⟩
  · rw [port, after, PortRecord.returned]
    rfl
  · rw [port, after, PortRecord.returned, if_neg (by simp [clear])]

theorem setNoticeQueue_frame (s : State) (c : Port) (x : NoticeQueue) : SameExcept [.notices] s (s.setNoticeQueue c x) := by
  intro q hq
  cases q <;> first | rfl | simp at hq

/-- The data of a NOTICE READ (R182). -/
theorem readData_is (n : Nat) (q : NoticeQueue) :
    q.readData n = byteOf (min n q.queue.length) :: (q.queue.take n).flatMap Notice.bytes ++
      [byteOf (q.queue.length - n), flagByte q.lostMark] := by
  simp [NoticeQueue.readData, listBytes]

/-- The age timer after a NOTICE READ runs while notices are left (R181, R182). -/
theorem afterRead_ageTimer (s : State) (q : NoticeQueue) (n : Nat) :
    (q.afterRead (s.dueIn q.ageLimit) n).ageTimer =
      if q.queue.length ≤ n then none else some (s.clock + q.ageLimit * 8) := by
  simp only [NoticeQueue.afterRead, List.isEmpty_iff, List.drop_eq_nil_iff]
  rfl

/-- Settles O59: the tables of R178, the queue after a read, and the age timer. -/
theorem noticeRequests : Obligations.NoticeRequests := by
  intro c s
  refine ⟨fun m th age small => ?_, fun n few => ?_, fun n many => ?_, fun due timer => ?_⟩
  · have read : maskArg m = some (m.setWidth 6) := if_pos small
    have run : exec (.noticeSetup c m th age) s =
        .next ((s.setNoticeQueue c { s.noticeQueue c with
          mask := m.setWidth 6, threshold := thresholdTaken th.toNat, ageLimit := ageLimitTaken age.toNat }).answer c
          (if thresholdTaken th.toNat = th.toNat ∧ ageLimitTaken age.toNat = age.toNat then .ok else .clamped)
          (m :: byteOf (thresholdTaken th.toNat) :: halfBytes (ageLimitTaken age.toNat))) := by
      show execNoticeSetup c m th age s = _
      simp only [execNoticeSetup, read]
    have queue := State.setNoticeQueue_noticeQueue s c { s.noticeQueue c with
      mask := m.setWidth 6, threshold := thresholdTaken th.toNat, ageLimit := ageLimitTaken age.toNat }
    have others (c' : Port) (ne : c' ≠ c) := State.setNoticeQueue_noticeQueue_ne s { s.noticeQueue c with
      mask := m.setWidth 6, threshold := thresholdTaken th.toNat, ageLimit := ageLimitTaken age.toNat } ne
    have written := setNoticeQueue_frame s c { s.noticeQueue c with
      mask := m.setWidth 6, threshold := thresholdTaken th.toNat, ageLimit := ageLimitTaken age.toNat }
    generalize (s.setNoticeQueue c _) = u at run queue others written
    have same (r : ResultCode) (d : List Byte) : (u.answer c r d).noticeQueue c = u.noticeQueue c := rfl
    refine ⟨_, run, ?_⟩
    rw [same, queue]
    refine ⟨?_, thresholdTaken_is _, ageLimitTaken_is _, rfl, rfl, rfl, rfl, answered_of_ports (written .ports (by decide)) rfl,
      others, written.step (answer_frame u c _ _)⟩
    simp only [BitVec.toNat_setWidth]
    exact Nat.mod_eq_of_lt small
  · have run : exec (.noticeRead c n) s =
        .next (((s.setNoticeQueue c ((s.noticeQueue c).afterRead (s.dueIn (s.noticeQueue c).ageLimit) n.toNat)).answer c .ok
          ((s.noticeQueue c).readData n.toNat)).returnRead c) := by
      show execNoticeRead c n s = _
      simp only [execNoticeRead, if_neg (Nat.not_lt.2 few)]
    have queue := State.setNoticeQueue_noticeQueue s c
      ((s.noticeQueue c).afterRead (s.dueIn (s.noticeQueue c).ageLimit) n.toNat)
    have others (c' : Port) (ne : c' ≠ c) := State.setNoticeQueue_noticeQueue_ne s
      ((s.noticeQueue c).afterRead (s.dueIn (s.noticeQueue c).ageLimit) n.toNat) ne
    have written := setNoticeQueue_frame s c ((s.noticeQueue c).afterRead (s.dueIn (s.noticeQueue c).ageLimit) n.toNat)
    generalize (s.setNoticeQueue c _) = u at run queue others written
    have returned := returnRead_frame (u.answer c .ok ((s.noticeQueue c).readData n.toNat)) c
    have same (c' : Port) : ((u.answer c .ok ((s.noticeQueue c).readData n.toNat)).returnRead c).noticeQueue c' =
        u.noticeQueue c' := congrArg (fun x : Table 4 NoticeQueue => x.get c') (returned .notices (by decide))
    have ports : u.ports = s.ports := written .ports (by decide)
    refine ⟨_, (s.noticeQueue c).readData n.toNat, run, ?_⟩
    rw [same, queue]
    refine ⟨rfl, rfl, rfl, afterRead_ageTimer s _ _, rfl, rfl, rfl, readData_is _ _,
      fun other => answer_returnRead_other ports _ _ other, fun f inFlight number => answer_returnRead_own ports _ _ inFlight number,
      fun c' ne => (same c').trans (others c' ne), ?_⟩
    exact (written.step (ch := [.notices, .ports]) (answer_frame u c _ _)).trans (returned.mono (by decide))
  · have run : exec (.noticeRead c n) s = .next ((s.answer c .badArg []).returnRead c) := by
      show execNoticeRead c n s = _
      exact if_pos (show 8 < n.toNat from many)
    exact ⟨_, run, fun other => answer_returnRead_other rfl _ _ other,
      fun f inFlight number => answer_returnRead_own rfl _ _ inFlight number,
      (answer_frame s c _ _).trans (returnRead_frame _ c)⟩
  · have run : exec (.ageTimerExpiry c) s = .next ((s.reach due).setNoticeQueue c
        { s.noticeQueue c with ageTimer := none, ageAttention := true }) := by
      show execAgeTimerExpiry c s = _
      simp only [execAgeTimerExpiry, timer]
      rfl
    have queue := State.setNoticeQueue_noticeQueue (s.reach due) c
      { s.noticeQueue c with ageTimer := none, ageAttention := true }
    refine ⟨_, run, rfl, queue, ?_, fun c' ne => State.setNoticeQueue_noticeQueue_ne (s.reach due) _ ne, ?_⟩
    · simp [State.attn, queue]
    · exact (reach_frame s due).step (setNoticeQueue_frame _ c _)

end Sys2Proof.Machine
end

section
/-! PROOFS. What one move of a line leaves at the end of its event: the line, the ring queues, the notices, and the attach
opportunity it offers (R6 to R8, R51, R101). -/

namespace Sys2Proof.Machine

-- One theorem after another: side by side they hold the memory of too many stacks.
set_option Elab.async false

/-! ### Frames narrowed by what is known to be the same -/

theorem SameExcept.narrow {ch ch' : List Part} {s t : State} (frame : SameExcept ch s t)
    (rest : ∀ q ∈ ch, q ∉ ch' → q.same s t) : SameExcept ch' s t := by
  intro q hq
  by_cases h : q ∈ ch
  · exact rest q h hq
  · exact frame q h

/-- A frame without the position records where these are as they were. -/
theorem SameExcept.without_positions {ch ch' : List Part} {s t : State} (frame : SameExcept ch s t)
    (positions : t.positions = s.positions) (sub : ∀ q ∈ ch, q ∈ Part.positions :: ch' := by decide) :
    SameExcept ch' s t := by
  refine frame.narrow fun q hq hn => ?_
  rcases List.mem_cons.1 (sub q hq) with rfl | h
  · exact positions
  · exact absurd h hn

/-- Whether a channel waits for a line is not changed where the channels and the link states are as they were. -/
theorem awaits_congr {s t : State} (rings : OnlyRings s t) (speakers : t.speakers = s.speakers) (l : LineId)
    (p : PositionId) (n : ChannelId) : t.awaits l p n = s.awaits l p n := by
  have channel : t.channel p n = s.channel p n := by
    rw [State.channel, State.speaker, speakers]
    rfl
  rw [State.awaits, rings.linkUp p, channel]
  rfl

theorem noneWaits_congr {s t : State} (rings : OnlyRings s t) (speakers : t.speakers = s.speakers) {l : LineId}
    (h : s.noneWaits l) : t.noneWaits l := fun p n => (awaits_congr rings speakers l p n).trans (h p n)

/-! ### The ring queues of a move -/

/-- A line in this state has entries in ring queues (R50). -/
def LineState.inQueues : LineState → Bool
  | .ringing | .recall => true
  | .idle | .calling | .active | .held | .guard | .fault | .outOfService => false

theorem leaveRings_calm {s : State} {l : LineId} {a b : LineState} (calm : a.inQueues = false) : s.leaveRings l a b = s := by
  unfold State.leaveRings
  cases a <;> simp [LineState.inQueues] at calm ⊢

theorem joinRings_calm {s : State} {l : LineId} {a b : LineState} (calm : b.inQueues = false) : s.joinRings l a b = s := by
  unfold State.joinRings
  cases b <;> simp [LineState.inQueues] at calm ⊢

theorem raiseLineState_positions (s : State) (l : LineId) (a b : LineState) :
    (s.raiseLineState l a b).positions = s.positions := raiseLineState_frame s l a b .positions (by decide)

theorem raise_addRecall_positions (s : State) (b : NoticeBody) (l : LineId) :
    ((s.raise b).addRecall l).positions = (s.addRecall l).positions := by
  have line : (s.raise b).line l = s.line l := rfl
  unfold State.addRecall
  rw [line]
  split <;> rfl

theorem moveLine_positions_joined {s : State} {l : LineId} {x : Line} (calm : (s.line l).state.inQueues = false) :
    (s.moveLine l x).positions = ((s.setLine l x).joinRings l (s.line l).state x.state).positions := by
  unfold State.moveLine
  dsimp only
  rw [leaveRings_calm calm]
  have joined : (((s.setLine l x).raiseLineState l (s.line l).state x.state).joinRings l (s.line l).state x.state).positions =
      ((s.setLine l x).joinRings l (s.line l).state x.state).positions := by
    unfold State.raiseLineState
    split
    · rfl
    · unfold State.joinRings
      split
      · rfl
      · split
        · rfl
        · exact raise_addRecall_positions _ _ l
        all_goals rfl
  split
  · exact joined
  · exact joined

/-- A move between states that no ring queue shows leaves the position records. -/
theorem moveLine_positions_calm {s : State} {l : LineId} {x : Line} (before : (s.line l).state.inQueues = false)
    (after : x.state.inQueues = false) : (s.moveLine l x).positions = s.positions := by
  rw [moveLine_positions_joined before, joinRings_calm after]
  rfl

/-- A line that enters RINGING rings every position with a ring-enabled key for it, by the lowest (R51). -/
theorem moveLine_ringing {s : State} {l : LineId} {x : Line} (before : (s.line l).state.inQueues = false)
    (after : x.state = .ringing) (p : PositionId) :
    (∀ k, lowestRingKey (s.directory.get p) l = some k →
      (s.moveLine l x).position p = (s.position p).joinRing s.clock ⟨l, k, .ring, x.cls⟩) ∧
    (lowestRingKey (s.directory.get p) l = none → (s.moveLine l x).position p = s.position p) := by
  have ne : (s.line l).state ≠ .ringing := fun e => by rw [e] at before; cases before
  have positions : (s.moveLine l x).positions = ((s.setLine l x).addRing l).positions := by
    rw [moveLine_positions_joined before]
    simp only [State.joinRings, after, if_neg ne]
  have cls : ((s.setLine l x).line l).cls = x.cls := by rw [State.setLine_line]
  simp only [State.position, positions, State.addRing, Table.get_ofFn]
  constructor
  · intro k lowest
    show (match lowestRingKey (s.directory.get p) l with | some k => _ | none => _) = _
    rw [lowest]
    simp only [cls]
    rfl
  · intro lowest
    show (match lowestRingKey (s.directory.get p) l with | some k => _ | none => _) = _
    rw [lowest]
    rfl

/-- A line that enters RECALL rings at its owner alone, through the owner's key (R51). -/
theorem moveLine_recall {s : State} {l : LineId} {x : Line} {o : KeyRef} (before : (s.line l).state.inQueues = false)
    (after : x.state = .recall) (owner : x.holdOwner = some o) :
    (s.moveLine l x).position o.position = (s.position o.position).joinRing s.clock ⟨l, o.key, .recall, x.cls⟩ ∧
      OtherPositions o.position s (s.moveLine l x) := by
  have ne : (s.line l).state ≠ .recall := fun e => by rw [e] at before; cases before
  have positions : (s.moveLine l x).positions = (s.setPosition o.position
      ((s.position o.position).joinRing s.clock ⟨l, o.key, .recall, x.cls⟩)).positions := by
    rw [moveLine_positions_joined before]
    simp only [State.joinRings, after, if_neg ne, State.addRecall, State.setLine_line, owner]
    rfl
  refine ⟨?_, fun q hq => ?_⟩
  · rw [State.position, positions]
    exact State.setPosition_position _ _ _
  · rw [State.position, positions]
    exact State.setPosition_position_ne _ _ hq

/-- A line that leaves RINGING or RECALL for a state that no queue shows leaves every ring queue (R51). -/
theorem moveLine_unqueued {s : State} {l : LineId} {x : Line} {kind : RingKind}
    (before : (s.line l).state = .ringing ∧ kind = .ring ∨ (s.line l).state = .recall ∧ kind = .recall)
    (after : x.state.inQueues = false) (p : PositionId) : ¬((s.moveLine l x).position p).rings kind l := by
  have positions : (s.moveLine l x).positions = ((s.setLine l x).removeRing kind l).positions := by
    have left : (s.setLine l x).leaveRings l (s.line l).state x.state = (s.setLine l x).removeRing kind l := by
      rcases before with ⟨state, rfl⟩ | ⟨state, rfl⟩
      · rw [state, State.leaveRings, if_neg fun e => by rw [← e] at after; cases after]
      · rw [state, State.leaveRings, if_neg fun e => by rw [← e] at after; cases after]
    unfold State.moveLine
    dsimp only
    rw [joinRings_calm after, left]
    split
    · exact raiseLineState_positions _ _ _ _
    · exact raiseLineState_positions _ _ _ _
  rintro ⟨e, he, line, same⟩
  rw [State.position, positions] at he
  simp only [State.removeRing, Table.get_map, Position.dropRing, requeue_ringQueue, List.mem_filter] at he
  simp [line, same] at he

theorem moveLine_unrung {s : State} {l : LineId} {x : Line} (before : (s.line l).state = .ringing)
    (after : x.state.inQueues = false) (p : PositionId) : ¬((s.moveLine l x).position p).rings .ring l :=
  moveLine_unqueued (.inl ⟨before, rfl⟩) after p

theorem mem_joinRing (clock : Nat) (e : RingEntry) (x : Position) : e ∈ (x.joinRing clock e).ringQueue := by
  rw [Position.joinRing, requeue_ringQueue, mem_insertByClass]
  exact .inl rfl

/-! ### One move of a line -/

/-- Line `l` has taken the record `y` and notices `bs` were raised; nothing else but rings and an offer of `l`. -/
structure MovedLine (l : LineId) (y : Line) (bs : List NoticeBody) (u w : State) : Prop where
  line : w.line l = y
  others : OtherLines l u w
  rings : OnlyRings u w
  raised : Raised bs u w
  frame : SameExcept [.lines, .positions, .notices, .offers] u w
  offers : ∀ m ∈ w.offers, m ∈ u.offers ∨ m = l

theorem moveLine_moved (u : State) (l : LineId) (y : Line) :
    MovedLine l y (stateNotices l (u.line l).state y.state) u (u.moveLine l y) := by
  refine ⟨moveLine_line u l y, moveLine_others u l y, moveLine_rings u l y, moveLine_raised u l y,
    (moveLine_frame u l y).mono (by decide), fun m hm => ?_⟩
  rw [moveLine_offers] at hm
  split at hm
  · simpa using hm
  · exact .inl hm

theorem MovedLine.still (u : State) (l : LineId) : MovedLine l (u.line l) [] u u :=
  ⟨rfl, fun _ _ => rfl, .refl u, .refl u, .refl _ u, fun _ h => .inl h⟩

section
variable {l : LineId} {y : Line} {bs : List NoticeBody} {s t u w : State}

theorem MovedLine.raise (m : MovedLine l y bs u w) (b : NoticeBody) : MovedLine l y (bs ++ [b]) u (w.raise b) :=
  ⟨m.line, m.others, m.rings.trans (.of_positions rfl), m.raised.trans (raise_raised w b) rfl,
    m.frame.step (raise_frame w b), m.offers⟩

/-- The line's record written before the move. -/
theorem MovedLine.of_setLine {x : Line} (m : MovedLine l y bs (u.setLine l x) w) : MovedLine l y bs u w := by
  have written := setLine_frame u l x
  exact ⟨m.line, fun k ne => (m.others k ne).trans (State.setLine_line_ne u x ne), m.rings, .after written m.raised,
    written.step m.frame, m.offers⟩

theorem setLine_moved (u : State) (l : LineId) (x : Line) : MovedLine l x [] u (u.setLine l x) := by
  have m := MovedLine.still (u.setLine l x) l
  rw [State.setLine_line] at m
  exact m.of_setLine

theorem MovedLine.state_same (m : MovedLine l y (stateNotices l (u.line l).state y.state) u w)
    (same : y.state = (u.line l).state) : MovedLine l y [] u w := by
  rw [← same, stateNotices_same] at m
  exact m

theorem MovedLine.state_ne (m : MovedLine l y (stateNotices l (u.line l).state y.state) u w)
    (ne : (u.line l).state ≠ y.state) : MovedLine l y [.lineState l (u.line l).state y.state] u w := by
  rw [stateNotices_ne l ne] at m
  exact m

/-- An event that offered no opportunity, or one that no channel waits for, ends with its lamps. -/
theorem MovedLine.ended (m : MovedLine l y bs u w) (none : u.offers = []) (free : w.offers = [] ∨ u.noneWaits l) :
    Ended w w.finish := by
  refine finish_ended fun k hk => ?_
  rcases free with e | waits
  · rw [e] at hk
    cases hk
  · rcases m.offers k hk with h | rfl
    · rw [none] at h
      cases h
    · exact noneWaits_congr m.rings (m.frame .speakers (by decide)) waits

/-- The move offers no opportunity: none of the six points of R8. -/
theorem moveLine_no_offer {u : State} {l : LineId} {x : Line} (none : u.offers = [])
    (unoffered : offersAttach (u.line l) x = false) : (u.moveLine l x).offers = [] := by
  rw [moveLine_offers, unoffered, none]
  rfl

/-- What a moved line's event leaves at its end, changing at most the parts `ch`. -/
structure LineEnd (ch : List Part) (l : LineId) (y : Line) (bs : List NoticeBody) (u w t : State) : Prop where
  line : t.line l = y
  others : OtherLines l u t
  rings : OnlyRings u t
  raised : Raised bs u t
  queues : OnlyLampQueues u t
  positions : t.positions = w.positions
  frame : SameExcept ch u t

theorem MovedLine.finish (m : MovedLine l y bs u w) (none : u.offers = []) (free : w.offers = [] ∨ u.noneWaits l) :
    LineEnd [.lines, .positions, .notices, .links, .lamps] l y bs u w w.finish := by
  have e := m.ended none free
  exact ⟨(e.line l).trans m.line, fun k ne => (e.line k).trans (m.others k ne), m.rings.trans (.of_positions e.positions),
    e.raised m.raised, e.onlyLampQueues (m.frame .links (by decide)), e.positions, e.same m.frame none⟩

theorem LineEnd.position {ch : List Part} (e : LineEnd ch l y bs u w t) (p : PositionId) : t.position p = w.position p := by
  rw [State.position, e.positions]
  rfl

/-- The same from the state before what brought the event in: the clock at a timer's time, or a handed signal change. -/
theorem LineEnd.before {ch ch' : List Part} (e : LineEnd ch l y bs u w t) (pre : SameExcept ch' s u)
    (lines : Part.lines ∉ ch' := by decide) (positions : Part.positions ∉ ch' := by decide)
    (notices : Part.notices ∉ ch' := by decide) (links : Part.links ∉ ch' := by decide) :
    LineEnd (ch' ++ ch) l y bs s w t := by
  refine ⟨e.line, fun k ne => (e.others k ne).trans (lines_of_frame pre lines k),
    (OnlyRings.of_positions (pre .positions positions)).trans e.rings, .after pre e.raised notices,
    (OnlyLampQueues.of_links (pre .links links)).trans e.queues, e.positions, ?_⟩
  exact (pre.mono fun q hq => List.mem_append_left _ hq).trans (e.frame.mono fun q hq => List.mem_append_right _ hq)

end

/-! ### The takes of an opportunity of one line -/

/-- What the attaches of an opportunity of line `l` leave: every other line, and of `l` its configuration. -/
structure AttachesTo (l : LineId) (s t : State) : Prop where
  others : OtherLines l s t
  cls : (t.line l).cls = (s.line l).cls
  barge : (t.line l).barge = (s.line l).barge
  ringdown : (t.line l).ringdown = (s.line l).ringdown
  rings : OnlyRings s t

theorem AttachesTo.refl (l : LineId) (s : State) : AttachesTo l s s := ⟨fun _ _ => rfl, rfl, rfl, rfl, .refl s⟩

theorem AttachesTo.trans {l : LineId} {s t u : State} (h : AttachesTo l s t) (k : AttachesTo l t u) : AttachesTo l s u :=
  ⟨fun m ne => (k.others m ne).trans (h.others m ne), k.cls.trans h.cls, k.barge.trans h.barge,
    k.ringdown.trans h.ringdown, h.rings.trans k.rings⟩

theorem AttachesTo.foldl {α : Type} {l : LineId} {f : State → α → State} (h : ∀ s a, AttachesTo l s (f s a)) (xs : List α)
    (s : State) : AttachesTo l s (xs.foldl f s) := by
  induction xs generalizing s with
  | nil => exact .refl l s
  | cons x xs ih => exact (h s x).trans (ih (f s x))

theorem AttachesTo.of_frame {ch : List Part} {l : LineId} {s t : State} (frame : SameExcept ch s t)
    (lines : Part.lines ∉ ch := by decide) (positions : Part.positions ∉ ch := by decide) : AttachesTo l s t := by
  have line (m : LineId) := lines_of_frame frame lines m
  exact ⟨fun m _ => line m, by rw [line], by rw [line], by rw [line], .of_positions (frame .positions positions)⟩

/-- A take leaves class, barge policy and ringdown (R11 to R15). -/
theorem afterTake_configuration (x : Line) (timer : Option LineTimer) (t : Take) :
    (x.afterTake timer t).barge = x.barge ∧ (x.afterTake timer t).ringdown = x.ringdown := by
  unfold Line.afterTake
  split
  · split <;> exact ⟨rfl, rfl⟩
  all_goals exact ⟨rfl, rfl⟩

theorem take_attachesTo (s : State) (l : LineId) (t : Take) : AttachesTo l s (s.take l t).1 := by
  unfold State.take
  split
  · obtain ⟨barge, ringdown⟩ := afterTake_configuration (s.line l) (s.startTimer .burst) t
    refine ⟨moveLine_others s l _, ?_, ?_, ?_, moveLine_rings s l _⟩
    · rw [moveLine_line, afterTake_cls]
    · rw [moveLine_line, barge]
    · rw [moveLine_line, ringdown]
  · exact .refl l s

theorem sendTake_attachesTo {s : State} {l : LineId} {p : PositionId} {n : ChannelId}
    (source : (s.channel p n).source = some (.line l)) : AttachesTo l s (State.sendTake p s n) := by
  have taken := take_attachesTo s l (speakerTake p n (s.channel p n).talkback)
  unfold State.sendTake
  simp only [source]
  split
  · split
    · next w e =>
      rw [e] at taken
      exact taken.trans (.of_frame (setChannel_frame w p n _))
    · exact .of_frame (setChannel_frame s p n _)
  · exact .refl l s

theorem attachOpportunity_attachesTo (s : State) (l : LineId) : AttachesTo l s (s.attachOpportunity l) := by
  refine .foldl (fun s p => .foldl (fun s n => ?_) _ s) _ s
  unfold State.attachOne
  split
  · next waits =>
    simp only [State.awaits, Bool.and_eq_true, decide_eq_true_eq] at waits
    exact sendTake_attachesTo waits.1.2
  · exact .refl l s

/-- The end of an event that offered opportunities of line `l` alone. -/
theorem finish_attachesTo {s : State} {l : LineId} (offers : ∀ m ∈ s.offers, m = l) : AttachesTo l s s.finish := by
  have taken (ls : List LineId) (only : ∀ m ∈ ls, m = l) (u : State) : AttachesTo l u (ls.foldl State.attachOpportunity u) := by
    induction ls generalizing u with
    | nil => exact .refl l u
    | cons m ls ih =>
      obtain rfl := only m List.mem_cons_self
      rw [List.foldl_cons]
      exact (attachOpportunity_attachesTo u m).trans (ih (fun k hk => only k (List.mem_cons_of_mem _ hk)) _)
  have cleared (u : State) : AttachesTo l u { u with offers := [] } := by
    refine .of_frame (ch := [.offers]) fun q hq => ?_
    cases q <;> first | rfl | simp at hq
  have opened := (cleared s).trans (taken s.offers offers { s with offers := [] })
  unfold State.finish State.takeOffers
  generalize s.offers.foldl State.attachOpportunity { s with offers := [] } = u at opened ⊢
  have lit (v : State) : AttachesTo l v v.sendLamps := .of_frame (sendLamps_frame v)
  exact (opened.trans (cleared u)).trans (lit _)

end Sys2Proof.Machine
end

section
/-! PROOFS. Service of a line, what the far end does to it, and the expiries of its timer (R9, R10, R17 to R26, R28). -/

namespace Sys2Proof.Machine

-- One theorem after another: side by side they hold the memory of too many stacks.
set_option Elab.async false

/-! ### Moves that offer no opportunity -/

/-- None of the six points of R8. -/
theorem offersAttach_none {old new : Line} (idle : new.state ≠ .idle) (ringing : new.state ≠ .ringing)
    (privacy : old.privacy = true → new.privacy = true) (parties : new.parties.length + 1 = 8 → old.parties.length ≠ 8)
    (held : new.state = .active → old.state ≠ .held ∧ old.state ≠ .recall)
    (barge : old.barge = .closed → new.barge = .closed) : offersAttach old new = false := by
  have kept : (old.privacy && !new.privacy) = false := by
    cases e : old.privacy
    · rfl
    · simp [privacy e]
  have closed : (decide (old.barge = .closed) && decide (new.barge = .openPolicy)) = false := by
    cases e : old.barge with
    | closed => simp [barge e]
    | openPolicy => simp
  have left : (decide (old.parties.length = Config.maxParties) && decide (new.parties.length + 1 = Config.maxParties)) =
      false := by
    by_cases e : new.parties.length + 1 = 8
    · simp [Config.maxParties, parties e]
    · simp [Config.maxParties, e]
  have freed : ((decide (old.state = .held) || decide (old.state = .recall)) && decide (new.state = .active)) = false := by
    by_cases e : new.state = .active
    · simp [held e]
    · simp [e]
  simp [offersAttach, idle, ringing, kept, left, freed, closed]

/-- The same for a record that keeps its parties. -/
theorem offersAttach_same_parties {old new : Line} (idle : new.state ≠ .idle) (ringing : new.state ≠ .ringing)
    (privacy : old.privacy = true → new.privacy = true) (parties : new.parties = old.parties)
    (held : new.state = .active → old.state ≠ .held ∧ old.state ≠ .recall)
    (barge : old.barge = .closed → new.barge = .closed) : offersAttach old new = false :=
  offersAttach_none idle ringing privacy (by rw [parties]; omega) held barge

/-! ### Service -/

theorem exec_lineService (s : State) (c : Port) (l : LineId) {d : Byte} {v : ServiceDirection}
    (read : directionArg d = some v) :
    exec (.lineService c (byteOf l.val) d) s = .next ((s.serviceLine l v).1.answer c (s.serviceLine l v).2 []).finish := by
  show execLineService c _ _ s = _
  simp only [execLineService, lineArg_byteOf, read]

/-- A request that answers NO_CHANGE and ends as an event. -/
theorem answered_end (s : State) (c : Port) (r : ResultCode) (noOffers : s.offers = []) :
    Answered c r [] s (s.answer c r []).finish ∧ SameExcept [.ports, .links, .lamps] s (s.answer c r []).finish ∧
      OnlyLampQueues s (s.answer c r []).finish := by
  have ended : Ended (s.answer c r []) _ := finish_ended_none noOffers
  exact ⟨ended.answered rfl rfl, ended.same (answer_frame s c r []) noOffers, ended.onlyLampQueues rfl⟩

/-- A line's move that a request made, at the end of its event. -/
theorem MovedLine.finish_answer {l : LineId} {y : Line} {bs : List NoticeBody} {u w : State} (m : MovedLine l y bs u w)
    (noOffers : u.offers = []) (free : w.offers = [] ∨ u.noneWaits l) (c : Port) (r : ResultCode) (d : List Byte) :
    (w.answer c r d).finish.line l = y ∧ OtherLines l u (w.answer c r d).finish ∧ Raised bs u (w.answer c r d).finish ∧
      OnlyLampQueues u (w.answer c r d).finish ∧ Answered c r d u (w.answer c r d).finish ∧
      (w.answer c r d).finish.positions = w.positions ∧
      SameExcept [.lines, .positions, .notices, .links, .lamps, .ports] u (w.answer c r d).finish := by
  have e : Ended (w.answer c r d) (w.answer c r d).finish := by
    refine finish_ended fun k hk => ?_
    rcases free with no | waits
    · rw [show (w.answer c r d).offers = w.offers from rfl, no] at hk
      cases hk
    · rcases m.offers k hk with h | rfl
      · rw [noOffers] at h
        cases h
      · exact noneWaits_congr (m.rings.trans (.of_positions rfl)) (m.frame .speakers (by decide)) waits
  exact ⟨(e.line l).trans m.line, fun k ne => (e.line k).trans (m.others k ne),
    e.raised (m.raised.congr rfl rfl rfl), e.onlyLampQueues (m.frame .links (by decide)),
    e.answered (m.frame .ports (by decide)) rfl, e.positions,
    e.same (m.frame.step (ch := [.lines, .positions, .notices, .offers, .ports]) (answer_frame w c r d)) noOffers⟩

/-- Settles O16: LINE SERVICE IN goes by the recorded LF. -/
theorem lineServiceIn : Obligations.LineServiceIn := by
  intro c l s noOffers
  refine ⟨fun inService => ?_, fun out shared => ?_⟩
  · have run := exec_lineService s c l (d := 1) (v := .into) rfl
    have kept : s.serviceLine l .into = (s, .noChange) := by
      cases e : (s.line l).state with
      | outOfService => exact absurd e inService
      | _ => simp only [State.serviceLine, e]
    rw [kept] at run
    obtain ⟨answered, frame, queues⟩ := answered_end s c .noChange noOffers
    exact ⟨_, run, answered, frame, queues⟩
  · have run := exec_lineService s c l (d := 1) (v := .into) rfl
    have moved : s.serviceLine l .into = (s.moveLine l (if (s.line l).signals.lf then { s.line l with state := .fault }
        else (s.line l).guarded (s.startTimer .guard)), .ok) := by
      simp only [State.serviceLine, out]
      split <;> rfl
    rw [moved] at run
    dsimp only at run
    obtain ⟨y, hy⟩ : ∃ y, y = (if (s.line l).signals.lf then ({ s.line l with state := .fault } : Line)
      else (s.line l).guarded (s.startTimer .guard)) := ⟨_, rfl⟩
    have record : y = (if (s.line l).signals.lf then ({ s.line l with state := .fault } : Line)
        else { s.line l with
          state := .guard, sz := false, rg := false, unanswered := false, burstCount := 0, privacy := false
          timer := some ⟨.guard, s.clock + s.params.guardTime * 8⟩ }) := hy
    rw [← hy] at run
    have state : y.state = .fault ∨ y.state = .guard := by
      rw [hy]
      split
      · exact .inl rfl
      · exact .inr rfl
    have m := moveLine_moved s l y
    have unoffered : offersAttach (s.line l) y = false := by
      refine offersAttach_same_parties ?_ ?_ (by simp [shared]) ?_ (by simp [out]) ?_
      · rcases state with e | e <;> simp [e]
      · rcases state with e | e <;> simp [e]
      · rw [hy]
        split <;> rfl
      · rw [hy]
        split <;> exact id
    obtain ⟨line, others, raised, queues, answered, positions, frame⟩ :=
      m.finish_answer noOffers (.inl (moveLine_no_offer noOffers unoffered)) c .ok []
    rw [out] at raised
    have ne : LineState.outOfService ≠ y.state := by rcases state with e | e <;> simp [e]
    refine ⟨_, run, answered, line.trans record, others, ?_, ?_, queues⟩
    · rw [line, ← stateNotices_ne l ne]
      exact raised
    · refine frame.without_positions (positions.trans (moveLine_positions_calm (by rw [out]; rfl) ?_))
      rcases state with e | e <;> rw [e] <;> rfl

/-! ### Signal changes -/

theorem exec_signalChange (s : State) (l : LineId) (now : Signals) :
    ∃ u, exec (.signalChange l now) s = .next (u.signalEvent l now).finish ∧ SameExcept [.highway] s u := by
  refine ⟨{ s with highway := s.highway.set l ((s.highway.get l).taken now) }, rfl, fun q hq => ?_⟩
  cases q <;> first | rfl | simp at hq

/-- The state in which the changes of a signal change event are taken: all three values are recorded (R24). -/
def State.recorded (s : State) (l : LineId) (now : Signals) : State := s.setLine l { s.line l with signals := now }

theorem recorded_line (s : State) (l : LineId) (now : Signals) :
    (s.recorded l now).line l = { s.line l with signals := now } := State.setLine_line _ _ _

/-- Where LF neither rises on a live line nor falls in FAULT, FL is taken before RD (R24). -/
theorem signalEvent_calls {s : State} {l : LineId} {now : Signals} (unfaulted : now.lf = true → (s.line l).signals.lf = true ∨
    (s.line l).state.live = false) (uncleared : now.lf = false → (s.line l).state ≠ .fault) :
    s.signalEvent l now =
      (if (s.line l).signals.rd = now.rd then (if (s.line l).signals.fl = now.fl then s.recorded l now
        else (s.recorded l now).flChange l now.fl)
      else (if (s.line l).signals.fl = now.fl then s.recorded l now
        else (s.recorded l now).flChange l now.fl).rdChange l now.rd) := by
  have first : ¬((!(s.line l).signals.lf && now.lf && (s.line l).state.live) = true) := by
    intro h
    simp only [Bool.and_eq_true, Bool.not_eq_true'] at h
    rcases unfaulted h.1.2 with e | e
    · rw [e] at h
      exact absurd h.1.1 (by decide)
    · rw [e] at h
      exact absurd h.2 (by decide)
  have second : ¬(((s.line l).signals.lf && !now.lf && decide ((s.line l).state = .fault)) = true) := by
    intro h
    simp only [Bool.and_eq_true, Bool.not_eq_true', decide_eq_true_eq] at h
    exact uncleared h.1.2 h.2
  unfold State.signalEvent
  dsimp only
  rw [if_neg first, if_neg second]
  rfl

/-- A line enters RINGING with LINE_STATE and LINE_RING (R25). -/
theorem enterRinging_moved {v : State} {l : LineId} {x : Line} (timer : Option LineTimer) (record : v.line l = x)
    (calm : x.state.inQueues = false) :
    MovedLine l { x with state := .ringing, timer := timer } [.lineState l x.state .ringing, .lineRing l x.cls] v
      (v.enterRinging l timer) := by
  subst record
  have ne : (v.line l).state ≠ .ringing := fun e => by rw [e] at calm; cases calm
  exact ((moveLine_moved v l { v.line l with state := .ringing, timer := timer }).state_ne ne).raise _

/-- The ring queues after it (R51). -/
theorem enterRinging_position {v : State} {l : LineId} {x : Line} (timer : Option LineTimer) (record : v.line l = x)
    (calm : x.state.inQueues = false) (p : PositionId) :
    (∀ k, lowestRingKey (v.directory.get p) l = some k →
      (⟨l, k, .ring, x.cls⟩ : RingEntry) ∈ ((v.enterRinging l timer).position p).ringQueue) ∧
    (lowestRingKey (v.directory.get p) l = none → (v.enterRinging l timer).position p = v.position p) := by
  subst record
  obtain ⟨rung, free⟩ := moveLine_ringing (x := { v.line l with state := .ringing, timer := timer }) calm rfl p
  refine ⟨fun k lowest => ?_, free⟩
  have here : (v.enterRinging l timer).position p = _ := rung k lowest
  rw [here]
  exact mem_joinRing _ _ _

/-- RD on in IDLE with LF off rings the line, whatever FL does (R25). -/
theorem signalEvent_idle {u : State} {l : LineId} {now : Signals} (idle : (u.line l).state = .idle)
    (rdOff : (u.line l).signals.rd = false) (rdOn : now.rd = true) (lfOff : now.lf = false) :
    u.signalEvent l now = (u.recorded l now).enterRinging l (u.line l).timer := by
  have idle' : ((u.recorded l now).line l).state = .idle := by rw [recorded_line]; exact idle
  have enter : (u.recorded l now).rdChange l true = (u.recorded l now).enterRinging l (u.line l).timer := by
    simp only [State.rdChange, idle', if_true]
    rw [recorded_line]
  rw [signalEvent_calls (by simp [lfOff]) (by simp [idle]), rdOff, rdOn, if_neg (by decide)]
  split
  · exact enter
  · rw [State.flChange, idle']
    exact enter

/-- Settles O17: RD on in IDLE. -/
theorem ringInRings : Obligations.RingInRings := by
  intro l now s noOffers idle shared rdOff rdOn lfOff waits
  obtain ⟨u, run, pre⟩ := exec_signalChange s l now
  have line := lines_of_frame pre (by decide) l
  have noOffers' : u.offers = [] := (pre .offers (by decide)).trans noOffers
  have waits' : u.noneWaits l := noneWaits_congr (.of_positions (pre .positions (by decide))) (pre .speakers (by decide)) waits
  rw [signalEvent_idle (by rw [line]; exact idle) (by rw [line]; exact rdOff) rdOn lfOff] at run
  have record : (u.recorded l now).line l = { s.line l with signals := now } := by rw [recorded_line, line]
  have timer : (u.line l).timer = (s.line l).timer := congrArg Line.timer line
  have calm : LineState.inQueues (s.line l).state = false := by rw [idle]; rfl
  have m := enterRinging_moved (u.line l).timer record calm
  have position (p : PositionId) := enterRinging_position (u.line l).timer record calm p
  have directory : (u.recorded l now).directory = s.directory := pre .directory (by decide)
  have positions : (u.recorded l now).positions = s.positions := pre .positions (by decide)
  have e := ((MovedLine.of_setLine m).finish noOffers' (.inr waits')).before pre
  refine ⟨_, run, e.line.trans (by rw [timer]), e.others, ?_, fun p k lowest => ?_, fun p lowest => ?_, e.rings, e.queues,
    e.frame.mono⟩
  · rw [show LineState.idle = (s.line l).state from idle.symm]
    exact e.raised
  · rw [e.position p]
    exact (position p).1 k (by rw [directory]; exact lowest)
  · rw [e.position p, (position p).2 (by rw [directory]; exact lowest), State.position, positions]
    rfl

/-! ### The far end in other states -/

/-- RD off in RINGING: a missed call (R25). -/
theorem missedCall_moved {v : State} {l : LineId} {x : Line} (record : v.line l = x) (ringing : x.state = .ringing) :
    MovedLine l { x with state := .idle, missed := min 15 (x.missed + 1) }
      [.lineState l .ringing .idle, .lineMissed l (min 15 (x.missed + 1))] v (v.missedCall l) := by
  subst record
  rw [← ringing]
  have ne : (v.line l).state ≠ .idle := by simp [ringing]
  exact ((moveLine_moved v l { v.line l with state := .idle, missed := min 15 ((v.line l).missed + 1) }).state_ne ne).raise _

/-- FL on or RD on in CALLING: the far end answers (R19). -/
theorem answered_moved {v : State} {l : LineId} {x : Line} (record : v.line l = x) (calling : x.state = .calling) :
    MovedLine l { x with state := .active, rg := false, timer := none, burstCount := 0, unanswered := false }
      [.lineState l .calling .active] v (v.answered l) ∧ (v.answered l).positions = v.positions ∧
      (v.offers = [] → (v.answered l).offers = []) := by
  subst record
  have ne : (v.line l).state ≠ .active := by simp [calling]
  refine ⟨?_, moveLine_positions_calm (by rw [calling]; rfl) rfl, fun noOffers => moveLine_no_offer noOffers ?_⟩
  · rw [← calling]
    exact (moveLine_moved v l { v.line l with
      state := .active, rg := false, timer := none, burstCount := 0, unanswered := false }).state_ne ne
  · exact offersAttach_same_parties (by simp) (by simp) (by simp) rfl (by simp [calling]) (by simp)

/-- The entry of a partyless line to GUARD (R9). -/
theorem guarded_moved {v : State} {l : LineId} {x : Line} (timer : Option LineTimer) (record : v.line l = x)
    (shared : x.privacy = false) (calm : x.state.inQueues = false) (other : x.state ≠ .guard) :
    MovedLine l (x.guarded timer) [.lineState l x.state .guard] v (v.moveLine l (x.guarded timer)) ∧
      (v.moveLine l (x.guarded timer)).positions = v.positions ∧
      (v.offers = [] → (v.moveLine l (x.guarded timer)).offers = []) := by
  subst record
  refine ⟨(moveLine_moved v l _).state_ne other, moveLine_positions_calm calm rfl,
    fun noOffers => moveLine_no_offer noOffers ?_⟩
  exact offersAttach_same_parties (by simp [Line.guarded]) (by simp [Line.guarded]) (by simp [shared]) rfl
    (by simp [Line.guarded]) id

/-- In ACTIVE the changes of FL and RD raise their notices (R26). -/
theorem signalEvent_active {u : State} {l : LineId} {now : Signals} (active : (u.line l).state = .active)
    (lfOff : now.lf = false) :
    MovedLine l { u.line l with signals := now }
      ((if (u.line l).signals.fl = true ∧ now.fl = false then [.farClear l] else []) ++
        if (u.line l).signals.rd = now.rd then [] else [.farSignal l now.rd]) u (u.signalEvent l now) ∧
      (u.signalEvent l now).positions = u.positions ∧ (u.signalEvent l now).offers = u.offers := by
  have active' (v : State) (same : v.line l = (u.recorded l now).line l) : (v.line l).state = .active := by
    rw [same, recorded_line]; exact active
  rw [signalEvent_calls (by simp [lfOff]) (by simp [active])]
  have fl (v : State) (hv : v = if (u.line l).signals.fl = now.fl then u.recorded l now
      else (u.recorded l now).flChange l now.fl) :
      MovedLine l { u.line l with signals := now }
        (if (u.line l).signals.fl = true ∧ now.fl = false then [.farClear l] else []) u v ∧ v.positions = u.positions ∧
        v.offers = u.offers ∧ v.line l = (u.recorded l now).line l := by
    have still := setLine_moved u l { u.line l with signals := now }
    by_cases same : (u.line l).signals.fl = now.fl
    · rw [if_pos same] at hv
      rw [hv, if_neg (by rw [same]; simp)]
      exact ⟨still, rfl, rfl, rfl⟩
    · rw [if_neg same, State.flChange, active' _ rfl] at hv
      cases on : now.fl with
      | true =>
        rw [hv, on, if_pos rfl, if_neg (by simp)]
        exact ⟨still, rfl, rfl, rfl⟩
      | false =>
        have was : (u.line l).signals.fl = true := by simpa [on] using same
        rw [hv, on, if_pos (show (u.line l).signals.fl = true ∧ false = false from ⟨was, rfl⟩)]
        exact ⟨still.raise (.farClear l), rfl, rfl, rfl⟩
  obtain ⟨moved, positions, offers, line⟩ := fl _ rfl
  by_cases same : (u.line l).signals.rd = now.rd
  · rw [if_pos same, if_pos same, List.append_nil]
    exact ⟨moved, positions, offers⟩
  · rw [if_neg same, if_neg same, State.rdChange, active' _ line]
    exact ⟨moved.raise (.farSignal l now.rd), positions, offers⟩

/-- FL on or RD on with LF off answers a CALLING line (R19). -/
theorem signalEvent_calling {u : State} {l : LineId} {now : Signals} (calling : (u.line l).state = .calling)
    (lfOff : now.lf = false)
    (answered : ((u.line l).signals.fl = false ∧ now.fl = true ∧ now.rd = (u.line l).signals.rd) ∨
      (now.fl = (u.line l).signals.fl ∧ (u.line l).signals.rd = false ∧ now.rd = true)) :
    u.signalEvent l now = (u.recorded l now).answered l := by
  have calling' : ((u.recorded l now).line l).state = .calling := by rw [recorded_line]; exact calling
  rw [signalEvent_calls (by simp [lfOff]) (by simp [calling])]
  rcases answered with ⟨flOff, flOn, rd⟩ | ⟨fl, rdOff, rdOn⟩
  · rw [if_pos rd.symm, if_neg (by rw [flOff, flOn]; decide), flOn, State.flChange, calling']
    rfl
  · rw [if_neg (by rw [rdOff, rdOn]; decide), if_pos fl.symm, rdOn, State.rdChange, calling']
    rfl

/-- RD off in RINGING with LF off is a missed call, whatever FL does (R25). -/
theorem signalEvent_ringing {u : State} {l : LineId} {now : Signals} (ringing : (u.line l).state = .ringing)
    (rdOn : (u.line l).signals.rd = true) (rdOff : now.rd = false) (lfOff : now.lf = false) :
    u.signalEvent l now = (u.recorded l now).missedCall l := by
  have ringing' : ((u.recorded l now).line l).state = .ringing := by rw [recorded_line]; exact ringing
  have missed : (u.recorded l now).rdChange l false = (u.recorded l now).missedCall l := by
    simp only [State.rdChange, ringing']
    rfl
  rw [signalEvent_calls (by simp [lfOff]) (by simp [ringing]), rdOn, rdOff, if_neg (by decide)]
  split
  · exact missed
  · rw [State.flChange, ringing']
    exact missed

/-- LF off in FAULT enters GUARD (R24). -/
theorem signalEvent_unfault {u : State} {l : LineId} {now : Signals} (fault : (u.line l).state = .fault)
    (lfOn : (u.line l).signals.lf = true) (lfOff : now.lf = false) :
    u.signalEvent l now =
      (u.recorded l now).moveLine l (((u.recorded l now).line l).guarded ((u.recorded l now).startTimer .guard)) := by
  unfold State.signalEvent
  dsimp only
  rw [if_neg (by simp [lfOff]), if_pos (by simp [lfOn, lfOff, fault])]
  rfl

/-- Settles O18: the table of R25 and R26, state by state. -/
theorem farEndSignals : Obligations.FarEndSignals := by
  intro l now s noOffers ok
  obtain ⟨u, run, pre⟩ := exec_signalChange s l now
  have line := lines_of_frame pre (by decide) l
  have noOffers' : u.offers = [] := (pre .offers (by decide)).trans noOffers
  have record : (u.recorded l now).line l = { s.line l with signals := now } := by rw [recorded_line, line]
  refine ⟨fun n ringing rdOn rdOff lfOff count waits => ?_, fun calling lfOff answered => ?_, fun active lfOff => ?_,
    fun fault lfOn lfOff => ?_⟩
  · have waits' : u.noneWaits l := noneWaits_congr (.of_positions (pre .positions (by decide))) (pre .speakers (by decide)) waits
    rw [signalEvent_ringing (by rw [line]; exact ringing) (by rw [line]; exact rdOn) rdOff lfOff] at run
    have m := missedCall_moved record ringing
    have e := ((MovedLine.of_setLine m).finish noOffers' (.inr waits')).before pre
    refine ⟨_, run, e.line.trans (by rw [count]), e.others, by rw [count]; exact e.raised, fun q => ?_, e.rings, e.queues,
      e.frame.mono⟩
    rw [e.position q]
    exact moveLine_unrung (by rw [record]; exact ringing) rfl q
  · rw [signalEvent_calling (by rw [line]; exact calling) lfOff (by rw [line]; exact answered)] at run
    obtain ⟨m, positions, offers⟩ := answered_moved record calling
    have e := ((MovedLine.of_setLine m).finish noOffers' (.inl (offers noOffers'))).before pre
    refine ⟨_, run, e.line, e.others, e.raised, e.queues, e.frame.without_positions ?_⟩
    exact e.positions.trans (positions.trans (pre .positions (by decide)))
  · obtain ⟨m, positions, offers⟩ := signalEvent_active (by rw [line]; exact active) lfOff
    rw [line] at m
    have e := (m.finish noOffers' (.inl (offers.trans noOffers'))).before pre
    refine ⟨_, run, e.line, e.others, e.queues, e.frame.without_positions ?_, e.raised⟩
    exact e.positions.trans (positions.trans (pre .positions (by decide)))
  · rw [signalEvent_unfault (by rw [line]; exact fault) (by rw [line]; exact lfOn) lfOff] at run
    have shared : (s.line l).privacy = false := ok.no_privacy (by rw [fault]; rfl)
    rw [record] at run
    obtain ⟨m, positions, offers⟩ := guarded_moved ((u.recorded l now).startTimer .guard) record shared
      (by rw [fault]; rfl) (by simp [fault])
    have timer : (u.recorded l now).startTimer .guard = some ⟨.guard, s.clock + s.params.guardTime * 8⟩ := by
      show some (LineTimer.mk .guard (u.clock + u.params.guardTime * 8)) = _
      rw [pre .clock (by decide), pre .params (by decide)]
    have e := ((MovedLine.of_setLine m).finish noOffers' (.inl (offers noOffers'))).before pre
    refine ⟨_, run, e.line.trans ?_, e.others, ?_, e.queues, e.frame.without_positions ?_⟩
    · rw [timer]
      rfl
    · rw [show LineState.fault = (s.line l).state from fault.symm]
      exact e.raised
    · exact e.positions.trans (positions.trans (pre .positions (by decide)))

/-! ### Expiries of the line timer -/

theorem Line.expires_of {x : Line} {purpose : LinePurpose} {st : LineState} {due : Nat}
    (timer : x.timer = some ⟨purpose, due⟩) (state : x.state = st) : x.expires purpose st = some due := by
  simp [Line.expires, timer, state]

theorem Line.expires_other {x : Line} {purpose : LinePurpose} {st : LineState} (other : x.state ≠ st) :
    x.expires purpose st = none := by
  unfold Line.expires
  split
  · simp [other]
  · rfl

/-- A move of a line whose timer or bursts alone change writes the record (R17, R18). -/
theorem moveLine_timed {s : State} {l : LineId} {x : Line} (state : x.state = (s.line l).state)
    (parties : x.parties = (s.line l).parties) (privacy : x.privacy = (s.line l).privacy)
    (barge : x.barge = (s.line l).barge) (inCall : (s.line l).state = .calling ∨ (s.line l).state = .active) :
    s.moveLine l x = s.setLine l x := by
  refine moveLine_quiet s l x state (offersAttach_same_parties ?_ ?_ (by rw [privacy]; exact id) parties (fun _ => ?_)
    (by rw [barge]; exact id))
  · rcases inCall with e | e <;> simp [state, e]
  · rcases inCall with e | e <;> simp [state, e]
  · rcases inCall with e | e <;> simp [e]

/-- Such a move at a timer's time, at the end of the expiry: nothing is offered and no notice raised. -/
theorem timed_end {s : State} (due : Nat) {l : LineId} {x : Line} (noOffers : s.offers = [])
    (inCall : (s.line l).state = .calling ∨ (s.line l).state = .active) (state : x.state = (s.line l).state := by rfl)
    (parties : x.parties = (s.line l).parties := by rfl) (privacy : x.privacy = (s.line l).privacy := by rfl)
    (barge : x.barge = (s.line l).barge := by rfl) :
    (((s.reach due).moveLine l x).finish).line l = x ∧ OtherLines l s ((s.reach due).moveLine l x).finish ∧
      ((s.reach due).moveLine l x).finish.clock = max s.clock due ∧
      SameExcept [.clock, .lines, .links, .lamps] s ((s.reach due).moveLine l x).finish := by
  rw [moveLine_timed (s := s.reach due) state parties privacy barge inCall]
  have written : SameExcept [.clock, .lines] s ((s.reach due).setLine l x) := (reach_frame s due).step (setLine_frame _ l x)
  have ended : Ended ((s.reach due).setLine l x) _ := finish_ended_none ((written .offers (by decide)).trans noOffers)
  refine ⟨(ended.line l).trans (State.setLine_line _ l x), fun k ne => ?_, ended.clock, ended.same written noOffers⟩
  exact (ended.line k).trans (State.setLine_line_ne (s.reach due) x ne)

theorem reach_line (s : State) (due : Nat) (l : LineId) : (s.reach due).line l = s.line l := rfl

/-- Settles O21: each expiry by its purpose and the state. -/
theorem lineTimersExpire : Obligations.LineTimersExpire := by
  refine ⟨fun l due s noOffers => ⟨fun calling timer => ?_, fun active timer => ?_, fun calling timer few => ?_,
    fun calling timer many => ?_⟩, fun l due s noOffers guard timer waits => ?_⟩
  · have run : exec (.burstExpiry l) s = .next ((s.reach due).moveLine l { s.line l with
        rg := false, timer := (s.reach due).startTimer .answerWait }).finish := by
      show execBurstExpiry l s = _
      simp only [execBurstExpiry, Line.expires_of timer calling, reach_line]
    obtain ⟨line, others, clock, frame⟩ := timed_end due (x := { s.line l with
      rg := false, timer := (s.reach due).startTimer .answerWait }) noOffers (.inl calling)
    refine ⟨_, run, clock, line.trans ?_, others, frame⟩
    rw [clock]
    rfl
  · have ringing : (s.line l).state ≠ .calling := by simp [active]
    have run : exec (.burstExpiry l) s = .next ((s.reach due).moveLine l { s.line l with
        rg := false, timer := none }).finish := by
      show execBurstExpiry l s = _
      simp only [execBurstExpiry, Line.expires_of timer active, Line.expires_other ringing, reach_line]
    obtain ⟨line, others, clock, frame⟩ := timed_end due (x := { s.line l with rg := false, timer := none }) noOffers
      (.inr active)
    exact ⟨_, run, clock, line, others, frame⟩
  · have run : exec (.answerWaitExpiry l) s = .next ((s.reach due).moveLine l { s.line l with
        rg := true, burstCount := (s.line l).burstCount + 1, timer := (s.reach due).startTimer .burst }).finish := by
      show execAnswerWaitExpiry l s = _
      simp only [execAnswerWaitExpiry, Line.expires_of timer calling, reach_line]
      exact if_pos few
    obtain ⟨line, others, clock, frame⟩ := timed_end due (x := { s.line l with
      rg := true, burstCount := (s.line l).burstCount + 1, timer := (s.reach due).startTimer .burst }) noOffers (.inl calling)
    refine ⟨_, run, clock, line.trans ?_, others, frame⟩
    rw [clock]
    rfl
  · have run : exec (.answerWaitExpiry l) s = .next (((s.reach due).moveLine l { s.line l with
        timer := none, unanswered := true }).raise (.lineUnanswered l (s.line l).burstCount)).finish := by
      show execAnswerWaitExpiry l s = _
      simp only [execAnswerWaitExpiry, Line.expires_of timer calling, reach_line]
      exact if_neg (Nat.not_lt.2 many)
    rw [moveLine_timed (s := s.reach due) (x := { s.line l with timer := none, unanswered := true }) rfl rfl rfl rfl
      (.inl calling)] at run
    have m := (setLine_moved (s.reach due) l { s.line l with timer := none, unanswered := true }).raise
      (.lineUnanswered l (s.line l).burstCount)
    have e := (m.finish noOffers (.inl noOffers)).before (reach_frame s due)
    exact ⟨_, run, (m.ended noOffers (.inl noOffers)).clock, e.line, e.others, e.raised,
      e.frame.without_positions e.positions⟩
  · have expires := Line.expires_of timer guard
    have calm : LineState.inQueues (s.line l).state = false := by rw [guard]; rfl
    have waits' : (s.reach due).noneWaits l := noneWaits_congr (.of_positions rfl) rfl waits
    by_cases rd : (s.line l).signals.rd = true
    · have run : exec (.guardExpiry l) s = .next ((s.reach due).enterRinging l none).finish := by
        show execGuardExpiry l s = _
        simp only [execGuardExpiry, expires, reach_line, rd, if_true]
      have m := enterRinging_moved none (reach_line s due l) calm
      have e := (m.finish noOffers (.inr waits')).before (reach_frame s due)
      refine ⟨_, run, (m.ended noOffers (.inr waits')).clock.trans (m.frame .clock (by decide)), e.others, e.rings,
        fun _ => ⟨e.line, ?_, fun p k lowest => ?_⟩, fun off => absurd (off.symm.trans rd) (by decide), e.frame.mono⟩
      · rw [← guard]
        exact e.raised
      · rw [e.position p]
        exact (enterRinging_position none (reach_line s due l) calm p).1 k lowest
    · have run : exec (.guardExpiry l) s = .next ((s.reach due).moveLine l { s.line l with
          state := .idle, timer := none }).finish := by
        show execGuardExpiry l s = _
        simp only [execGuardExpiry, expires, reach_line]
        exact if_neg rd
      have m := (moveLine_moved (s.reach due) l { s.line l with state := .idle, timer := none }).state_ne
        (by rw [reach_line, guard]; simp)
      have e := (m.finish noOffers (.inr waits')).before (reach_frame s due)
      refine ⟨_, run, (m.ended noOffers (.inr waits')).clock.trans (m.frame .clock (by decide)), e.others, e.rings,
        fun on => absurd on rd, fun _ => ⟨e.line, ?_, ?_⟩, e.frame.mono⟩
      · rw [← guard]
        exact e.raised
      · exact e.positions.trans (moveLine_positions_calm calm rfl)

/-! ### Holds that end -/

/-- What the abandonment of a hold makes of the line's record (R23). -/
def Line.abandoned (timer : Option LineTimer) (x : Line) : Line :=
  ({ x with holdOwner := none, privateHold := false } : Line).guarded timer

/-- The abandonment of a hold without privacy: the line enters GUARD, nothing is offered, and of the positions only rings
change (R23). -/
theorem abandon_is {s : State} {l : LineId} {x : Line} (record : s.line l = x) (shared : x.privacy = false)
    (onHold : x.state = .held ∨ x.state = .recall) :
    (s.abandon l).line l = x.abandoned (s.startTimer .guard) ∧ OtherLines l s (s.abandon l) ∧ OnlyRings s (s.abandon l) ∧
      (s.offers = [] → (s.abandon l).offers = []) ∧
      SameExcept [.lines, .positions, .directory, .notices, .offers] s (s.abandon l) := by
  subst record
  obtain ⟨v, hv⟩ : ∃ v, v = (s.setLine l { s.line l with holdOwner := none, privateHold := false }).reportOwner
    (s.line l).holdOwner := ⟨_, rfl⟩
  have reported := reportOwner_frame (s.setLine l { s.line l with holdOwner := none, privateHold := false })
    (s.line l).holdOwner
  have rings := reportOwner_rings (s.setLine l { s.line l with holdOwner := none, privateHold := false }) (s.line l).holdOwner
  rw [← hv] at reported rings
  have line (k : LineId) : v.line k = (s.setLine l { s.line l with holdOwner := none, privateHold := false }).line k :=
    lines_of_frame reported (by decide) k
  have here : v.line l = { s.line l with holdOwner := none, privateHold := false } := (line l).trans (State.setLine_line _ _ _)
  have timer : v.startTimer .guard = s.startTimer .guard := by
    show some (LineTimer.mk .guard (v.clock + v.params.guardTime * 8)) = _
    rw [reported .clock (by decide), reported .params (by decide)]
    rfl
  have made : s.abandon l = (v.moveLine l ((s.line l).abandoned (s.startTimer .guard))).raise
      (.holdAbandoned l (s.line l).holdOwner) := by
    rw [State.abandon]
    simp only [← hv, here, timer]
    rfl
  have m := moveLine_moved v l ((s.line l).abandoned (s.startTimer .guard))
  have unoffered : offersAttach (v.line l) ((s.line l).abandoned (s.startTimer .guard)) = false := by
    rw [here]
    exact offersAttach_same_parties (by simp [Line.abandoned, Line.guarded]) (by simp [Line.abandoned, Line.guarded])
      (by simp [shared]) rfl (by simp [Line.abandoned, Line.guarded]) id
  rw [made]
  refine ⟨m.line, fun k ne => ?_, ?_, fun noOffers => ?_, ?_⟩
  · exact (m.others k ne).trans ((line k).trans (State.setLine_line_ne s _ ne))
  · exact (((OnlyRings.of_positions rfl).trans rings).trans m.rings).trans (.of_positions rfl)
  · exact moveLine_no_offer ((reported .offers (by decide)).trans noOffers) unoffered
  · have written := setLine_frame s l { s.line l with holdOwner := none, privateHold := false }
    have before : SameExcept [.lines, .positions, .directory, .notices, .offers] s v := written.step reported
    exact (before.trans (m.frame.mono (by decide))).trans ((raise_frame _ _).mono (by decide))

/-- An abandonment that ends its event. -/
theorem abandon_end {ch : List Part} {s u : State} {l : LineId} {x : Line} (pre : SameExcept ch s u) (noOffers : u.offers = [])
    (record : u.line l = x) (shared : x.privacy = false) (onHold : x.state = .held ∨ x.state = .recall)
    (lines : OtherLines l s u) (positions : Part.positions ∉ ch := by decide) :
    (u.abandon l).finish.line l = x.abandoned (u.startTimer .guard) ∧ OtherLines l s (u.abandon l).finish ∧
      OnlyRings s (u.abandon l).finish ∧ (u.abandon l).finish.clock = u.clock ∧
      SameExcept (ch ++ [.lines, .positions, .directory, .notices, .links, .lamps]) s (u.abandon l).finish := by
  obtain ⟨line, others, rings, offers, frame⟩ := abandon_is record shared onHold
  have ended : Ended (u.abandon l) _ := finish_ended_none (offers noOffers)
  refine ⟨(ended.line l).trans line, fun k ne => (ended.line k).trans ((others k ne).trans (lines k ne)),
    ((OnlyRings.of_positions (pre .positions positions)).trans rings).trans (.of_positions ended.positions),
    ended.clock.trans (frame .clock (by decide)), ?_⟩
  have after : SameExcept [.lines, .positions, .directory, .notices, .links, .lamps] u (u.abandon l).finish :=
    ended.same frame noOffers
  exact (pre.mono fun q hq => List.mem_append_left _ hq).trans (after.mono fun q hq => List.mem_append_right _ hq)

/-- FL off on a line on hold abandons the hold (R23, R26). -/
theorem signalEvent_abandons {u : State} {l : LineId} {now : Signals}
    (onHold : (u.line l).state = .held ∨ (u.line l).state = .recall) (flOn : (u.line l).signals.fl = true)
    (flOff : now.fl = false) (lf : now.lf = (u.line l).signals.lf) (shared : (u.line l).privacy = false) :
    u.signalEvent l now = (u.recorded l now).abandon l := by
  have onHold' : ((u.recorded l now).line l).state = .held ∨ ((u.recorded l now).line l).state = .recall := by
    rw [recorded_line]; exact onHold
  have fl : (u.recorded l now).flChange l false = (u.recorded l now).abandon l := by
    rcases onHold' with e | e
    · simp [State.flChange, e]
    · simp [State.flChange, e]
  have guard : (((u.recorded l now).abandon l).line l).state = .guard := by
    rw [(abandon_is (recorded_line u l now) shared onHold).1]
    rfl
  rw [signalEvent_calls (fun on => .inl (lf.symm.trans on)) (fun _ => by rcases onHold with e | e <;> simp [e]), flOn, flOff,
    if_neg (show ¬(true = false) by decide), fl]
  split
  · rfl
  · rw [State.rdChange, guard]

/-- Settles O20: HOLD expiry, FL off on hold, and RECALL expiry. -/
theorem holdsEnd : Obligations.HoldsEnd := by
  refine ⟨fun l o due s noOffers held timer owner => ?_, fun l s noOffers ok => ⟨fun now onHold flOn flOff lf => ?_,
    fun due recalled timer => ?_⟩⟩
  · have run : exec (.holdExpiry l) s = .next (((s.reach due).moveLine l { s.line l with
        state := .recall, timer := (s.reach due).startTimer .recall }).raise (.lineRecall l (s.line l).holdOwner)).finish := by
      show execHoldExpiry l s = _
      simp only [execHoldExpiry, Line.expires_of timer held, reach_line]
    have calm : LineState.inQueues ((s.reach due).line l).state = false := by rw [reach_line, held]; rfl
    have m := ((moveLine_moved (s.reach due) l { s.line l with
      state := .recall, timer := (s.reach due).startTimer .recall }).state_ne (by rw [reach_line, held]; simp)).raise
      (.lineRecall l (s.line l).holdOwner)
    have unoffered : ((s.reach due).moveLine l { s.line l with
        state := .recall, timer := (s.reach due).startTimer .recall }).offers = [] := by
      refine moveLine_no_offer noOffers ?_
      exact offersAttach_same_parties (by simp) (by simp) (by rw [reach_line]; exact id) rfl (by simp) id
    have e := (m.finish noOffers (.inl unoffered)).before (reach_frame s due)
    obtain ⟨rung, others⟩ := moveLine_recall (x := { s.line l with
      state := .recall, timer := (s.reach due).startTimer .recall }) calm rfl owner
    have clock := (m.ended noOffers (.inl unoffered)).clock.trans (m.frame .clock (by decide))
    refine ⟨_, run, clock, e.line.trans ?_, e.others, ?_, fun q ne => ?_, e.rings, ?_, e.frame.mono⟩
    · rw [clock]
      rfl
    · rw [e.position]
      refine (congrArg (fun x : Position => _ ∈ x.ringQueue) rung).mpr ?_
      exact mem_joinRing _ _ _
    · exact (e.position q).trans (others q ne)
    · rw [← held, ← owner]
      exact e.raised
  · obtain ⟨u, run, pre⟩ := exec_signalChange s l now
    have line := lines_of_frame pre (by decide) l
    have noOffers' : u.offers = [] := (pre .offers (by decide)).trans noOffers
    have shared : (s.line l).privacy = false := by
      refine ok.no_privacy ?_
      rcases onHold with e | e <;> rw [e] <;> rfl
    rw [signalEvent_abandons (by rw [line]; exact onHold) (by rw [line]; exact flOn) flOff (by rw [line]; exact lf)
      (by rw [line]; exact shared)] at run
    have written : SameExcept [.highway, .lines] s (u.recorded l now) := pre.step (setLine_frame u l _)
    have record : (u.recorded l now).line l = { s.line l with signals := now } := by rw [recorded_line, line]
    obtain ⟨here, others, rings, -, frame⟩ := abandon_end written noOffers' record shared onHold
      fun k ne => (State.setLine_line_ne u _ ne).trans (lines_of_frame pre (by decide) k)
    have timer : (u.recorded l now).startTimer .guard = some ⟨.guard, s.clock + s.params.guardTime * 8⟩ := by
      show some (LineTimer.mk .guard (u.clock + u.params.guardTime * 8)) = _
      rw [pre .clock (by decide), pre .params (by decide)]
    refine ⟨_, run, here.trans ?_, others, rings, frame.mono⟩
    rw [timer]
    simp only [Line.abandoned, Line.guarded, shared]
  · have shared : (s.line l).privacy = false := ok.no_privacy (by rw [recalled]; rfl)
    have run : exec (.recallExpiry l) s = .next ((s.reach due).abandon l).finish := by
      show execRecallExpiry l s = _
      simp only [execRecallExpiry, Line.expires_of timer recalled]
    obtain ⟨here, others, rings, clock, frame⟩ := abandon_end (reach_frame s due) noOffers (reach_line s due l) shared
      (.inr recalled) fun k _ => rfl
    refine ⟨_, run, clock, here.trans ?_, others, rings, frame.mono⟩
    rw [clock]
    simp only [Line.abandoned, Line.guarded, shared]
    rfl

end Sys2Proof.Machine
end

section
/-! PROOFS. LINE CONFIGURE and the clearance of a line (R27 to R29). -/

namespace Sys2Proof.Machine

-- One theorem after another: side by side they hold the memory of too many stacks.
set_option Elab.async false

/-! ### LINE CONFIGURE -/

/-- In a queue ordered by class the first run of PRIORITY entries is all of them. -/
theorem byClass.takeWhile_eq {α : Type} {cls : α → LineClass} {q : List α} (h : byClass cls q) :
    q.takeWhile (fun y => decide (cls y = .priority)) = q.filter (fun y => decide (cls y = .priority)) ∧
      q.dropWhile (fun y => decide (cls y = .priority)) = q.filter (fun y => decide (cls y = .normal)) := by
  induction q with
  | nil => exact ⟨rfl, rfl⟩
  | cons y ys ih =>
    obtain ⟨first, rest⟩ := List.pairwise_cons.1 h
    obtain ⟨taken, dropped⟩ := ih rest
    cases e : cls y with
    | priority => simp [e, taken, dropped]
    | normal =>
      have later : ∀ x ∈ ys, cls x = .normal := by
        intro x hx
        cases ex : cls x with
        | normal => rfl
        | priority => exact absurd (first x hx ex) (by simp [e])
      have priorities : ys.filter (fun y => decide (cls y = .priority)) = [] :=
        List.filter_eq_nil_iff.2 fun x hx => by simp [later x hx]
      have normals : ys.filter (fun y => decide (cls y = .normal)) = ys :=
        List.filter_eq_self.2 fun x hx => by simp [later x hx]
      simp [e, priorities, normals]

/-- A refiling leaves a queue without an entry for the line (R51). -/
theorem refile_absent {x : Position} {l : LineId} (clock : Nat) (k : LineClass) (absent : ∀ e ∈ x.ringQueue, e.line ≠ l) :
    x.refile clock l k = x := by
  have none : x.ringQueue.find? (fun y => decide (y.line = l)) = none := by
    rw [List.find?_eq_none]
    intro e he
    simpa using absent e he
  simp only [Position.refile, none]

/-- A refiled entry is the newest of its new class (R51). -/
theorem refile_queue {x : Position} {l : LineId} (clock : Nat) (k : LineClass) {e : RingEntry} (he : e ∈ x.ringQueue)
    (line : e.line = l) (once : (x.ringQueue.map RingEntry.line).Nodup) :
    (x.refile clock l k).ringQueue =
      insertByClass RingEntry.cls { e with cls := k } (x.ringQueue.filter fun y => decide (y.line ≠ l)) := by
  have found : x.ringQueue.find? (fun y => decide (y.line = l)) = some e := by
    cases f : x.ringQueue.find? (fun y => decide (y.line = l)) with
    | none =>
      rw [List.find?_eq_none] at f
      exact absurd line (by simpa using f e he)
    | some e' =>
      have at_ : e'.line = l := by simpa using List.find?_some f
      have same := List.inj_on_of_nodup_map once he (List.mem_of_find?_eq_some f) (line.trans at_.symm)
      rw [same]
  simp only [Position.refile, found, requeue_ringQueue]

/-- The record that LINE CONFIGURE writes (R29). -/
def Line.configured (k : LineClass) (b : BargePolicy) (r : Ringdown) (x : Line) : Line :=
  { x with cls := k, barge := b, ringdown := r }

theorem configureLine_is (s : State) (l : LineId) (k : LineClass) (b : BargePolicy) (r : Ringdown) :
    s.configureLine l k b r =
      if decide ((s.line l).cls ≠ k) && (decide ((s.line l).state = .ringing) || decide ((s.line l).state = .recall)) then
        (s.moveLine l ((s.line l).configured k b r)).refileRing l
      else s.moveLine l ((s.line l).configured k b r) := rfl

/-- A record that keeps state, parties and privacy offers an opportunity only where its policy opens (R8). -/
theorem offersAttach_kept {old new : Line} (state : new.state = old.state) (parties : new.parties = old.parties)
    (privacy : new.privacy = old.privacy) (barge : (decide (old.barge = .closed) && decide (new.barge = .openPolicy)) = false) :
    offersAttach old new = false := by
  have differ (a : LineState) : (decide (old.state = a) && decide (old.state ≠ a)) = false := by
    by_cases e : old.state = a <;> simp [e]
  have left : (decide (old.parties.length = Config.maxParties) && decide (old.parties.length + 1 = Config.maxParties)) =
      false := by
    by_cases e : old.parties.length = 8 <;> simp [Config.maxParties, e]
  have held : ((decide (old.state = .held) || decide (old.state = .recall)) && decide (old.state = .active)) = false := by
    by_cases e : old.state = .active <;> simp [e]
  simp only [offersAttach, state, parties, privacy, differ, left, held, barge]
  cases old.privacy <;> rfl

theorem configureLine_moved (s : State) (l : LineId) (k : LineClass) (b : BargePolicy) (r : Ringdown) :
    MovedLine l ((s.line l).configured k b r) [] s (s.configureLine l k b r) := by
  have m := (moveLine_moved s l ((s.line l).configured k b r)).state_same rfl
  rw [configureLine_is]
  split
  · have refiled := refileRing_frame (s.moveLine l ((s.line l).configured k b r)) l
    exact ⟨(lines_of_frame refiled (by decide) l).trans m.line,
      fun j ne => (lines_of_frame refiled (by decide) j).trans (m.others j ne), m.rings.trans (refileRing_rings _ l),
      m.raised.then refiled, m.frame.step refiled, fun j hj => m.offers j (by rwa [refiled .offers (by decide)] at hj)⟩
  · exact m

theorem configureLine_offers {s : State} {l : LineId} {k : LineClass} {b : BargePolicy} {r : Ringdown} (noOffers : s.offers = [])
    (unopened : (s.line l).barge = .openPolicy ∨ b = .closed) : (s.configureLine l k b r).offers = [] := by
  have unoffered : offersAttach (s.line l) ((s.line l).configured k b r) = false := by
    have barge : (decide ((s.line l).barge = .closed) && decide (b = .openPolicy)) = false := by
      rcases unopened with e | e <;> simp [e]
    exact offersAttach_kept rfl rfl rfl barge
  have moved := moveLine_no_offer noOffers unoffered
  rw [configureLine_is]
  split
  · exact (refileRing_frame _ l .offers (by decide)).trans moved
  · exact moved

/-- Without a change of class, or in a state that no queue shows, the position records stay (R29). -/
theorem configureLine_positions {s : State} {l : LineId} {k : LineClass} {b : BargePolicy} {r : Ringdown}
    (unfiled : (s.line l).cls = k ∨ ((s.line l).state ≠ .ringing ∧ (s.line l).state ≠ .recall)) :
    (s.configureLine l k b r).positions = s.positions := by
  have skip : (decide ((s.line l).cls ≠ k) && (decide ((s.line l).state = .ringing) || decide ((s.line l).state = .recall))) =
      false := by
    rcases unfiled with e | ⟨e1, e2⟩
    · simp [e]
    · simp [e1, e2]
  rw [configureLine_is, skip]
  exact moveLine_positions_of_state rfl

/-- A change of class of a line that rings refiles its entry at every position (R29, R51). -/
theorem configureLine_position {s : State} {l : LineId} {k : LineClass} {b : BargePolicy} {r : Ringdown}
    (changed : (s.line l).cls ≠ k) (ringing : (s.line l).state = .ringing ∨ (s.line l).state = .recall) (p : PositionId) :
    (s.configureLine l k b r).position p = (s.position p).refile s.clock l k := by
  have file : (decide ((s.line l).cls ≠ k) && (decide ((s.line l).state = .ringing) || decide ((s.line l).state = .recall))) =
      true := by
    rcases ringing with e | e <;> simp [changed, e]
  have still : (s.moveLine l ((s.line l).configured k b r)).positions = s.positions := moveLine_positions_of_state rfl
  have made : s.configureLine l k b r = (s.moveLine l ((s.line l).configured k b r)).refileRing l := by
    rw [configureLine_is, file]
    rfl
  rw [made, State.position, State.refileRing]
  simp only [Table.get_map, still, moveLine_clock, moveLine_line]
  rfl

theorem exec_lineConfigure (s : State) (c : Port) (l : LineId) (k : LineClass) (b : BargePolicy) (r : Ringdown) :
    exec (.lineConfigure c (byteOf l.val) (byteOf k.code) (byteOf b.code) (byteOf r.code)) s =
      .next ((s.configureLine l k b r).answer c .ok []).finish := by
  show execLineConfigure c _ _ _ _ s = _
  simp only [execLineConfigure, lineArg_byteOf, classArg_byteOf, bargeArg_byteOf, ringdownArg_byteOf]

/-- Settles O15: one move of the record, then the refiling; where the policy opens, the takes of the waiting channels leave
the configuration. -/
theorem lineConfigureWrites : Obligations.LineConfigureWrites := by
  intro c l k b r s noOffers
  have run := exec_lineConfigure s c l k b r
  have m := configureLine_moved s l k b r
  have unfiled (h : (s.line l).cls = k ∨ ((s.line l).state ≠ .ringing ∧ (s.line l).state ≠ .recall)) :=
    configureLine_positions (b := b) (r := r) h
  have filed (changed : (s.line l).cls ≠ k) (ringing : (s.line l).state = .ringing ∨ (s.line l).state = .recall)
      (p : PositionId) := configureLine_position (b := b) (r := r) changed ringing p
  have unoffered (h : (s.line l).barge = .openPolicy ∨ b = .closed) :=
    configureLine_offers (k := k) (r := r) noOffers h
  generalize s.configureLine l k b r = w at run m unfiled filed unoffered
  have free (h : (s.line l).barge = .openPolicy ∨ b = .closed ∨ s.noneWaits l) : w.offers = [] ∨ s.noneWaits l := by
    rcases h with h | h | h
    · exact .inl (unoffered (.inl h))
    · exact .inl (unoffered (.inr h))
    · exact .inr h
  have ended (h : w.offers = [] ∨ s.noneWaits l) := m.finish_answer noOffers h c .ok []
  have attached : AttachesTo l (w.answer c .ok []) (w.answer c .ok []).finish := by
    refine finish_attachesTo fun j hj => ?_
    rcases m.offers j hj with h | h
    · rw [noOffers] at h
      cases h
    · exact h
  have before : SameExcept [.lines, .positions, .notices, .offers, .ports] s (w.answer c .ok []) :=
    m.frame.step (answer_frame w c _ _)
  have finished := finish_frame (w.answer c .ok [])
  have line : (w.answer c .ok []).line l = (s.line l).configured k b r := m.line
  refine ⟨_, run, answered_of_ports (m.frame .ports (by decide)) (finished .ports (by decide)), ⟨?_, ?_, ?_⟩,
    fun j ne => (attached.others j ne).trans (m.others j ne), ?_, (m.rings.trans (.of_positions rfl)).trans attached.rings,
    (OnlyLampQueues.of_links (before .links (by decide))).trans (finish_queues _), fun closed closed' => ?_,
    fun opened => ?_, fun unopened changed notRinging notRecall => ?_, fun unopened changed ringing agree p => ?_⟩
  · rw [attached.cls, line]; rfl
  · rw [attached.barge, line]; rfl
  · rw [attached.ringdown, line]; rfl
  · refine SameExcept.narrow (ch := [.lines, .positions, .notices, .offers, .speakers, .links, .lamps, .ports])
      ((before.mono (by decide)).trans (finished.mono (by decide))) fun q hq hn => ?_
    cases q <;> first | exact absurd (by decide) hn | exact noOffers.symm | exact absurd hq (by decide)
  · obtain ⟨here, -, raised, -, -, -, frame⟩ := ended (.inl (unoffered (.inr closed')))
    refine ⟨here.trans ?_, raised, frame .speakers (by decide)⟩
    rw [Line.configured, closed', ← closed]
  · obtain ⟨here, -, raised, -, -, positions, frame⟩ := ended (.inl (unoffered (.inl opened)))
    exact ⟨here, raised, frame .speakers (by decide), fun same => positions.trans (unfiled (.inl same))⟩
  · obtain ⟨-, -, -, -, -, positions, -⟩ := ended (free unopened)
    exact positions.trans (unfiled (.inr ⟨notRinging, notRecall⟩))
  · obtain ⟨-, -, -, -, -, positions, -⟩ := ended (free unopened)
    have position : (w.answer c .ok []).finish.position p = (s.position p).refile s.clock l k := by
      rw [← filed changed ringing p, State.position, positions]
      rfl
    have queue := (ringsFor_iff s).2 agree p
    rw [position]
    refine ⟨refile_absent s.clock k, fun e he at_ => ⟨fun normal => ?_, fun priority => ?_⟩⟩
    · subst normal
      rw [refile_queue s.clock .normal he at_ queue.once]
      rfl
    · subst priority
      obtain ⟨taken, dropped⟩ := (queue.ordered.filter fun y => decide (y.line ≠ l)).takeWhile_eq
      rw [refile_queue s.clock .priority he at_ queue.once]
      show List.takeWhile _ _ ++ _ :: List.dropWhile _ _ = _
      rw [taken, dropped, List.filter_filter, List.filter_filter]
      simp only [Bool.and_comm]

/-! ### The clearance of a line -/

/-- The record of a line cleared of its call in state `e` (R27). -/
def Line.clearedTo (e : LineState) (x : Line) : Line :=
  { x with
    state := e, parties := [], privacy := false, holdOwner := none, privateHold := false, timer := none
    burstCount := 0, unanswered := false, sz := false, rg := false }

/-- What the clearance of line `l` leaves of it, of its parties' slots and channels, and of the rest (R8, R27, R49). -/
structure ClearedLine (l : LineId) (e : LineState) (r : ResultCode) (s w : State) : Prop where
  line : w.line l = (s.line l).clearedTo e
  others : OtherLines l s w
  slot : ∀ p h, w.slot p h =
    if ∃ y ∈ (s.line l).parties, y.position = p ∧ y.path = .handset h then none else s.slot p h
  channel : ∀ p n, w.channel p n =
    if ∃ y ∈ (s.line l).parties, y.position = p ∧ y.path = .channel n then (s.channel p n).cleared r else s.channel p n
  frame : SameExcept [.lines, .positions, .termCount, .directory, .notices, .speakers, .offers] s w
  offers : ∀ m ∈ w.offers, m ∈ s.offers ∨ m = l

theorem clearLine_is (s : State) (l : LineId) (e : LineState) (r : ResultCode) : ClearedLine l e r s (s.clearLine l e r) := by
  have frame := clearLine_frame s l e r
  revert frame
  unfold State.clearLine
  dsimp only
  have slots2 := partiesRemoved_slot (s := s.setLine l { s.line l with parties := [] }) r (s.line l).parties
  have channels2 := partiesRemoved_channel (s := s.setLine l { s.line l with parties := [] }) r (s.line l).parties
  have frame2 := SameExcept.foldl (fun s x => partyRemoved_frame s r x) (s.line l).parties
    (s.setLine l { s.line l with parties := [] })
  generalize (s.line l).parties.foldl (State.partyRemoved r) (s.setLine l { s.line l with parties := [] }) = s2
    at slots2 channels2 frame2 ⊢
  have line2 : s2.line l = { s.line l with parties := [] } := (lines_of_frame frame2 (by decide) l).trans (State.setLine_line _ _ _)
  have frame3 := reportOwner_frame (s2.setLine l { s2.line l with holdOwner := none, privateHold := false }) (s2.line l).holdOwner
  have rings3 := reportOwner_rings (s2.setLine l { s2.line l with holdOwner := none, privateHold := false }) (s2.line l).holdOwner
  generalize (s2.setLine l { s2.line l with holdOwner := none, privateHold := false }).reportOwner (s2.line l).holdOwner = s3
    at frame3 rings3 ⊢
  have line3 : s3.line l = { s2.line l with holdOwner := none, privateHold := false } :=
    (lines_of_frame frame3 (by decide) l).trans (State.setLine_line _ _ _)
  have m := moveLine_moved s3 l { s3.line l with
    state := e, parties := [], privacy := false, unanswered := false, burstCount := 0, sz := false, rg := false, timer := none }
  intro frame
  refine ⟨?_, fun k ne => ?_, fun p h => ?_, fun p n => ?_, frame, fun k hk => ?_⟩
  · rw [m.line, line3, line2]
    rfl
  · rw [m.others k ne, lines_of_frame frame3 (by decide) k, State.setLine_line_ne _ _ ne, lines_of_frame frame2 (by decide) k,
      State.setLine_line_ne _ _ ne]
  · rw [m.rings.slot, rings3.slot]
    exact slots2 p h
  · rw [channel_of_frame m.frame, channel_of_frame frame3]
    exact channels2 p n
  · rcases m.offers k hk with h | h
    · have offers3 : s3.offers = s.offers := (frame3 .offers (by decide)).trans (frame2 .offers (by decide))
      rw [offers3] at h
      exact .inl h
    · exact .inr h

/-! ### Opportunities that every waiting channel is refused -/

/-- Every speaker take of a line in this record is refused with `r` (R11). -/
def Line.refusesChannels (r : ResultCode) (x : Line) : Prop := ∀ p n v, judgeTake x (speakerTake p n v) = r

/-- Attaches that were refused with `r`: of the channels, at most the wait reasons change (R101). -/
structure Refused (r : ResultCode) (s t : State) : Prop where
  frame : SameExcept [.speakers, .offers, .links, .lamps] s t
  channel : ∀ p n, t.channel p n = s.channel p n ∨ t.channel p n = { s.channel p n with waitReason := some r }

theorem Refused.refl (r : ResultCode) (s : State) : Refused r s s := ⟨.refl _ s, fun _ _ => .inl rfl⟩

theorem Refused.line {r : ResultCode} {s t : State} (h : Refused r s t) (l : LineId) : t.line l = s.line l :=
  lines_of_frame h.frame (by decide) l

theorem Refused.trans {r : ResultCode} {s t u : State} (h : Refused r s t) (k : Refused r t u) : Refused r s u := by
  refine ⟨h.frame.trans k.frame, fun p n => ?_⟩
  rcases k.channel p n with e | e
  · rw [e]
    exact h.channel p n
  · rcases h.channel p n with e' | e'
    · exact .inr (by rw [e, e'])
    · exact .inr (by rw [e, e'])

theorem Refused.of_frame {ch : List Part} (r : ResultCode) {s t : State} (frame : SameExcept ch s t)
    (sub : ∀ q ∈ ch, q ∈ [Part.offers, .links, .lamps] := by decide) : Refused r s t := by
  refine ⟨frame.mono fun q hq => List.mem_cons_of_mem _ (sub q hq), fun _ _ => .inl (channel_of_frame frame fun h => ?_)⟩
  exact absurd (sub _ h) (by decide)

/-- A line that refuses every speaker take changes by an attach at most a wait reason (R101). -/
theorem attachOne_refused {s : State} {l : LineId} {r : ResultCode} (refuses : (s.line l).refusesChannels r) (ne : r ≠ .ok)
    (p : PositionId) (n : ChannelId) : Refused r s (State.attachOne l p s n) := by
  unfold State.attachOne
  split
  · next waits =>
    simp only [State.awaits, Bool.and_eq_true, decide_eq_true_eq] at waits
    obtain ⟨⟨-, source⟩, attach⟩ := waits
    have judged : s.take l (speakerTake p n (s.channel p n).talkback) = (s, r) := by
      rw [take_refused s (by rw [refuses]; exact ne), refuses]
    have sent : State.sendTake p s n = s.setChannel p n { s.channel p n with waitReason := some r } := by
      unfold State.sendTake
      simp only [source, attach, if_true, judged]
    rw [sent]
    refine ⟨(setChannel_frame s p n _).mono, fun q m => ?_⟩
    by_cases e : (q, m) = (p, n)
    · obtain ⟨rfl, rfl⟩ := Prod.mk.inj e
      exact .inr (setChannel_channel_self _ _ _)
    · exact .inl (setChannel_channel_ne _ e)
  · exact .refl r s

theorem Refused.foldl {α : Type} {r : ResultCode} {l : LineId} {f : State → α → State}
    (h : ∀ u a, (u.line l).refusesChannels r → Refused r u (f u a)) (xs : List α) (s : State)
    (refuses : (s.line l).refusesChannels r) : Refused r s (xs.foldl f s) := by
  induction xs generalizing s with
  | nil => exact .refl r s
  | cons a xs ih =>
    have first := h s a refuses
    rw [List.foldl_cons]
    refine first.trans (ih _ ?_)
    rw [first.line]
    exact refuses

theorem finish_refused {s : State} {l : LineId} {r : ResultCode} (refuses : (s.line l).refusesChannels r) (ne : r ≠ .ok)
    (offers : ∀ m ∈ s.offers, m = l) : Refused r s s.finish := by
  have attach (u : State) (h : (u.line l).refusesChannels r) : Refused r u (u.attachOpportunity l) :=
    .foldl (fun u p h => .foldl (fun u n h => attachOne_refused h ne p n) _ u h) _ u h
  have taken (ls : List LineId) (only : ∀ m ∈ ls, m = l) : Refused r { s with offers := [] }
      (ls.foldl State.attachOpportunity { s with offers := [] }) := by
    have same : ls.foldl State.attachOpportunity { s with offers := [] } =
        ls.foldl (fun u _ => u.attachOpportunity l) { s with offers := [] } := by
      refine List.foldl_ext _ _ _ fun u m hm => ?_
      rw [only m hm]
    rw [same]
    exact .foldl (fun u _ h => attach u h) ls { s with offers := [] } refuses
  have cleared (u : State) : Refused r u { u with offers := [] } := by
    refine .of_frame r (ch := [.offers]) fun q hq => ?_
    cases q <;> first | rfl | simp at hq
  have lit (u : State) : Refused r u u.sendLamps := .of_frame r (sendLamps_frame u)
  have opened := (cleared s).trans (taken s.offers offers)
  unfold State.finish State.takeOffers
  generalize s.offers.foldl State.attachOpportunity { s with offers := [] } = u at opened ⊢
  exact (opened.trans (cleared u)).trans (lit _)

/-- A cleared line at the end of the event: its waiting channels are refused again, with the same reason. -/
theorem cleared_end {s w w' : State} {l : LineId} {e : LineState} {r : ResultCode} (c : ClearedLine l e r s w)
    (noOffers : s.offers = []) (refuses : ∀ (x : Line) t, x.state = e → judgeTake x t = r) (ne : r ≠ .ok)
    (after : SameExcept [.ports] w w') :
    w'.finish.line l = (s.line l).clearedTo e ∧ OtherLines l s w'.finish ∧
      (∀ p h, w'.finish.slot p h =
        if ∃ y ∈ (s.line l).parties, y.position = p ∧ y.path = .handset h then none else s.slot p h) ∧
      (∀ x ∈ (s.line l).parties, ∀ n, x.path = .channel n →
        (w'.finish.channel x.position n).attach = .waiting ∧ (w'.finish.channel x.position n).waitReason = some r ∧
          (w'.finish.channel x.position n).ptt = false) ∧
      SameExcept [.lines, .positions, .termCount, .directory, .notices, .speakers, .links, .lamps, .ports] s w'.finish := by
  have line (k : LineId) : w'.line k = w.line k := lines_of_frame after (by decide) k
  have state : (w'.line l).state = e := by rw [line, c.line]; rfl
  have offers : ∀ m ∈ w'.offers, m = l := by
    intro m hm
    rw [after .offers (by decide)] at hm
    rcases c.offers m hm with h | h
    · rw [noOffers] at h
      cases h
    · exact h
  have refused := finish_refused (fun p n v => refuses (w'.line l) (speakerTake p n v) state) ne offers
  have ended (k : LineId) : w'.finish.line k = w.line k :=
    (refused.line k).trans (line k)
  refine ⟨(ended l).trans c.line, fun k ne => (ended k).trans (c.others k ne), fun p h => ?_, fun x hx n path => ?_, ?_⟩
  · have same : w'.finish.slot p h = w.slot p h := by
      refine (congrArg (fun x : Table 32 Position => ((x.get p).handset h).slot) (refused.frame .positions (by decide))).trans ?_
      exact congrArg (fun x : Table 32 Position => ((x.get p).handset h).slot) (after .positions (by decide))
    rw [same]
    exact c.slot p h
  · have here : w'.channel x.position n = (s.channel x.position n).cleared r := by
      rw [channel_of_frame after, c.channel, if_pos ⟨x, hx, rfl, path⟩]
    rcases refused.channel x.position n with e | e
    · rw [e, here]
      exact ⟨rfl, rfl, rfl⟩
    · rw [e, here]
      exact ⟨rfl, rfl, rfl⟩
  · refine SameExcept.narrow
      (ch := [.lines, .positions, .termCount, .directory, .notices, .speakers, .offers, .links, .lamps, .ports]) ?_
      fun q hq hn => ?_
    · exact ((c.frame.mono (by decide)).trans (after.mono (by decide))).trans ((finish_frame w').mono (by decide))
    · cases q <;> first | exact absurd (by decide) hn | exact noOffers.symm | exact absurd hq (by decide)

theorem judgeTake_fault (x : Line) (t : Take) (fault : x.state = .fault) : judgeTake x t = .lineFault := by
  simp only [judgeTake, fault]

theorem judgeTake_outOfService (x : Line) (t : Take) (out : x.state = .outOfService) : judgeTake x t = .lineOutOfService := by
  simp only [judgeTake, out]

/-- Settles O19: the clearance by LF on and by LINE SERVICE OUT; the takes that an end of privacy offers are refused. -/
theorem lineCleared : Obligations.LineCleared := by
  refine ⟨fun l now s noOffers unfaulted inService lfOff lfOn => ?_, fun c l s noOffers => ⟨fun out => ?_, fun inService => ?_⟩⟩
  · obtain ⟨u, run, pre⟩ := exec_signalChange s l now
    have line := lines_of_frame pre (by decide) l
    have written : SameExcept [.highway, .lines] s (u.recorded l now) := pre.step (setLine_frame u l _)
    have live : (s.line l).state.live = true := by
      cases e : (s.line l).state <;> first | rfl | exact absurd e unfaulted | exact absurd e inService
    have faults : u.signalEvent l now = (u.recorded l now).clearLine l .fault .lineFault := by
      unfold State.signalEvent
      dsimp only
      rw [if_pos (by rw [line, lfOff, lfOn, live]; rfl)]
      rfl
    rw [faults] at run
    have record : (u.recorded l now).line l = { s.line l with signals := now } := by rw [recorded_line, line]
    have noOffers' : (u.recorded l now).offers = [] := (written .offers (by decide)).trans noOffers
    obtain ⟨here, others, slots, channels, frame⟩ := cleared_end (clearLine_is (u.recorded l now) l .fault .lineFault) noOffers'
      judgeTake_fault (by simp) (.refl _ _)
    rw [record] at here slots channels
    refine ⟨_, run, here, fun k ne => ?_, fun x hx h path => ?_, channels, ?_⟩
    · exact (others k ne).trans ((State.setLine_line_ne u _ ne).trans (lines_of_frame pre (by decide) k))
    · exact (slots x.position h).trans (if_pos ⟨x, hx, rfl, path⟩)
    · have ports : ((u.recorded l now).clearLine l .fault .lineFault).finish.ports = s.ports :=
        (finish_frame _ .ports (by decide)).trans ((clearLine_frame _ _ _ _ .ports (by decide)).trans (written .ports (by decide)))
      refine SameExcept.narrow
        (ch := [.lines, .positions, .termCount, .directory, .notices, .speakers, .links, .lamps, .ports, .highway])
        ((written.mono (by decide)).trans (frame.mono (by decide))) fun q hq hn => ?_
      cases q <;> first | exact absurd (by decide) hn | exact ports | exact absurd hq (by decide)
  · have run := exec_lineService s c l (d := 0) (v := .out) rfl
    have kept : s.serviceLine l .out = (s, .noChange) := by simp only [State.serviceLine, out]
    rw [kept] at run
    obtain ⟨answered, frame, queues⟩ := answered_end s c .noChange noOffers
    exact ⟨_, run, answered, frame, queues⟩
  · have run := exec_lineService s c l (d := 0) (v := .out) rfl
    have cleared : s.serviceLine l .out = (s.clearLine l .outOfService .lineOutOfService, .ok) := by
      cases e : (s.line l).state with
      | outOfService => exact absurd e inService
      | _ => simp only [State.serviceLine, e]
    rw [cleared] at run
    dsimp only at run
    have is := clearLine_is s l .outOfService .lineOutOfService
    obtain ⟨here, others, slots, channels, frame⟩ := cleared_end is noOffers judgeTake_outOfService (by simp)
      (answer_frame (s.clearLine l .outOfService .lineOutOfService) c .ok [])
    refine ⟨_, run, ?_, here, others, fun x hx h path => ?_, channels, fun p h unseated => ?_, frame⟩
    · exact answered_of_ports (is.frame .ports (by decide)) (finish_frame _ .ports (by decide))
    · exact (slots x.position h).trans (if_pos ⟨x, hx, rfl, path⟩)
    · exact (slots p h).trans (if_neg fun ⟨x, hx, at_⟩ => unseated x hx at_)

end Sys2Proof.Machine
end

section
/-! PROOFS. The group requests and the floor timer: what GROUP DEFINE, GROUP UNDEFINE, MEMBER REMOVE and a floor timeout
leave of the group, the slots and the term count. -/

namespace Sys2Proof.Machine

-- One theorem after another: side by side they hold the memory of too many stacks.
set_option Elab.async false

/-! ### Defining and removing groups -/

theorem talkerLimitArg_is {lim : Byte} (low : 1 ≤ lim.toNat) (high : lim.toNat ≤ 8) : talkerLimitArg lim = some lim.toNat :=
  if_pos ⟨low, high⟩

theorem exec_groupDefine (s : State) (c : Port) (g : GroupId) {lim : Byte} (f : Byte) (low : 1 ≤ lim.toNat)
    (high : lim.toNat ≤ 8) : exec (.groupDefine c (byteOf g.val) lim f) s =
      .next ((s.defineGroup g lim.toNat f.toNat).1.answer c (s.defineGroup g lim.toNat f.toNat).2.1
        (s.defineGroup g lim.toNat f.toNat).2.2).finish := by
  show execGroupDefine c _ _ _ s = _
  simp only [execGroupDefine, groupArg_byteOf, talkerLimitArg_is low high]

theorem exec_groupUndefine (s : State) (c : Port) (g : GroupId) : exec (.groupUndefine c (byteOf g.val)) s =
    if !(s.group g).defined then .next (s.answer c .noChange [])
    else if !(s.group g).members.isEmpty then .next (s.answer c .inUse [])
    else .next (({ s.setGroup g Group.powerOn with
      termCount := s.termCount - (s.group g).talkerLimit } : State).answer c .ok []).finish := by
  show execGroupUndefine c _ s = _
  simp only [execGroupUndefine, groupArg_byteOf]

theorem admits_new (s : State) {n : Nat} (pos : 1 ≤ n) : s.admits 0 n = decide (s.termCount + n ≤ 768) := by
  have : ¬n ≤ 0 := by omega
  simp [State.admits, this, Config.termBudget]

/-- A group record and the term count written and answered as one event. -/
theorem counted_end (s : State) (c : Port) (g : GroupId) (x : Group) (n : Nat) (r : ResultCode) (d : List Byte)
    (noOffers : s.offers = []) :
    let t := (({ s.setGroup g x with termCount := n } : State).answer c r d).finish
    t.group g = x ∧ OtherGroups g s t ∧ t.termCount = n ∧ Answered c r d s t ∧
      SameExcept [.groups, .termCount, .links, .lamps, .ports] s t := by
  have frame : SameExcept [.groups, .termCount, .ports] s
      (({ s.setGroup g x with termCount := n } : State).answer c r d) :=
    ((setGroup_frame s g x).step (ch := [.groups, .termCount]) (termCount_frame _ n)).step (answer_frame _ c r d)
  have e := finish_ended_none (u := ({ s.setGroup g x with termCount := n } : State).answer c r d) noOffers
  exact ⟨(e.group g).trans (State.setGroup_group s g x),
    fun g' ne => (e.group g').trans (State.setGroup_group_ne s x ne), e.termCount, e.answered rfl rfl, e.same frame noOffers⟩

/-- Settles O32: GROUP DEFINE and GROUP UNDEFINE go by the group's record, its members and the budget. -/
theorem groupDefined : Obligations.GroupDefined := by
  intro c g s noOffers
  refine ⟨fun lim f low high undefined room => ?_, fun lim f low high refused => ?_, fun defined empty => ?_, fun kept => ?_⟩
  · have run := exec_groupDefine s c g f low high
    have table : (f.toNat = 0 → floorTaken f.toNat = 0) ∧ (1 ≤ f.toNat → f.toNat ≤ 5 → floorTaken f.toNat = 5) ∧
        (5 ≤ f.toNat → f.toNat ≤ 120 → floorTaken f.toNat = f.toNat) ∧ (120 ≤ f.toNat → floorTaken f.toNat = 120) := by
      unfold floorTaken
      refine ⟨?_, ?_, ?_, ?_⟩ <;> split <;> omega
    obtain ⟨zero, below, inside, above⟩ := table
    by_cases whole : floorTaken f.toNat = f.toNat
    · simp only [State.defineGroup, undefined, admits_new s low, room, whole] at run
      obtain ⟨group, others, count, answered, frame⟩ := counted_end s c g ⟨true, lim.toNat, f.toNat, [], [], []⟩
        (s.termCount + lim.toNat) .ok [] noOffers
      rw [whole] at zero below inside above
      exact ⟨_, f.toNat, run, zero, below, inside, above, group, others, count, fun _ => answered,
        fun ne => absurd rfl ne, frame⟩
    · simp only [State.defineGroup, undefined, admits_new s low, room, whole] at run
      obtain ⟨group, others, count, answered, frame⟩ := counted_end s c g
        ⟨true, lim.toNat, floorTaken f.toNat, [], [], []⟩ (s.termCount + lim.toNat) .clamped [byteOf (floorTaken f.toNat)]
        noOffers
      exact ⟨_, _, run, zero, below, inside, above, group, others, count, fun e => absurd e whole, fun _ => answered, frame⟩
  · have run := exec_groupDefine s c g f low high
    have kept : s.defineGroup g lim.toNat f.toNat = (s, if (s.group g).defined then .alreadyDefined else .mixFull, []) := by
      cases defined : (s.group g).defined with
      | true => simp [State.defineGroup, defined]
      | false =>
        have full : ¬s.termCount + lim.toNat ≤ 768 := by
          rcases refused with h | h
          · rw [defined] at h
            cases h
          · omega
        simp [State.defineGroup, defined, admits_new s low, full]
    rw [kept] at run
    obtain ⟨answered, frame, -⟩ := answered_end s c (if (s.group g).defined then .alreadyDefined else .mixFull) noOffers
    exact ⟨_, run, answered, frame.mono⟩
  · have run := exec_groupUndefine s c g
    simp only [defined, empty] at run
    obtain ⟨group, others, count, answered, frame⟩ := counted_end s c g Group.powerOn
      (s.termCount - (s.group g).talkerLimit) .ok [] noOffers
    exact ⟨_, run, answered, group, others, count, frame⟩
  · have run := exec_groupUndefine s c g
    cases defined : (s.group g).defined with
    | false =>
      simp only [defined] at run
      exact ⟨_, run, answer_answered s c _ _, answer_frame s c _ _⟩
    | true =>
      have members : (s.group g).members.isEmpty = false := by
        rcases kept with h | h
        · rw [defined] at h
          cases h
        · simpa using h
      simp only [defined, members] at run
      exact ⟨_, run, answer_answered s c _ _, answer_frame s c _ _⟩

/-! ### The removal of a member -/

@[simp] theorem headGranted_members (due : Option Nat) (x : Group) : (x.headGranted due).members = x.members := by
  unfold Group.headGranted
  split <;> rfl

theorem withoutEntries_members (due : Option Nat) (p : PositionId) (x : Group) :
    (x.withoutEntries due p).members = x.members := by
  unfold Group.withoutEntries
  split
  · rw [headGranted_members]
    rfl
  · rfl

/-- A grant of the head puts nobody on the floor who did not wait. -/
theorem headGranted_no_entry {x : Group} (due : Option Nat) {p : PositionId} (talks : x.talker? p = none)
    (waits : x.waiter? p = none) : (x.headGranted due).talker? p = none ∧ (x.headGranted due).waiter? p = none := by
  unfold Group.headGranted
  cases queue : x.waiting with
  | nil => exact ⟨talks, waits⟩
  | cons w rest =>
    have apart : w.position ≠ p ∧ rest.find? (fun y => decide (y.position = p)) = none := by
      rw [Group.waiter?, queue, List.find?_cons] at waits
      split at waits
      · cases waits
      · next ne => exact ⟨by simpa using ne, waits⟩
    refine ⟨?_, apart.2⟩
    show (x.talkers ++ [_]).find? _ = none
    rw [List.find?_append, show x.talkers.find? (fun t => decide (t.position = p)) = none from talks]
    simp [apart.1]

/-- After the removal of its entries a position is neither talking nor waiting (R80, R89). -/
theorem withoutEntries_no_entry (due : Option Nat) (p : PositionId) (x : Group) :
    (x.withoutEntries due p).talker? p = none ∧ (x.withoutEntries due p).waiter? p = none := by
  have noWaiter : (x.withoutWaiter p).waiter? p = none := by simp [Group.withoutWaiter, Group.waiter?]
  unfold Group.withoutEntries
  split
  · exact headGranted_no_entry due (by simp [Group.withoutTalker, Group.talker?]) noWaiter
  · next silent =>
    have silent : x.talker? p = none := by simpa using silent
    exact ⟨silent, noWaiter⟩

/-- A binding report leaves the slots and the term count. -/
theorem reportSlot_slot (s : State) (p q : PositionId) (old : Option Held) (h : Handset) :
    (s.reportSlot p old).slot q h = s.slot q h := (reportSlot_rings s p old).slot q h

theorem reportSlot_termCount (s : State) (p : PositionId) (old : Option Held) :
    (s.reportSlot p old).termCount = s.termCount := reportSlot_frame s p old .termCount (by decide)

/-- A group costs a slot two terms (R124). -/
theorem slotCost_group {x : Option Held} {g : GroupId} (holds : holdsSource x (.group g) = true) : slotCost x = 2 := by
  match x with
  | none => cases holds
  | some ⟨.line l, k⟩ => simp [holdsSource] at holds
  | some ⟨.group g', k⟩ => rfl

/-- A slot that holds the group is emptied, and no other slot changes (R49, R80). -/
theorem dropGroupSlot_slot (s : State) (g : GroupId) (p q : PositionId) (h k : Handset) :
    (State.dropGroupSlot g p s h).slot q k =
      if (q, k) = (p, h) ∧ holdsSource (s.slot p h) (.group g) = true then none else s.slot q k := by
  unfold State.dropGroupSlot
  split
  · next holds =>
    rw [reportSlot_slot]
    split
    · next same =>
      obtain ⟨rfl, rfl⟩ : q = p ∧ k = h := by simpa using same.1
      exact setSlot_slot s _ _ _
    · next other => exact setSlot_slot_ne s _ fun e => other ⟨e, holds⟩
  · next keeps => rw [if_neg fun e => keeps e.2]

theorem dropGroupSlot_termCount (s : State) (g : GroupId) (p : PositionId) (h : Handset) :
    (State.dropGroupSlot g p s h).termCount = s.termCount - (if holdsSource (s.slot p h) (.group g) then 2 else 0) := by
  unfold State.dropGroupSlot
  split
  · next holds =>
    rw [reportSlot_termCount, setSlot_termCount, slotCost_group holds]
    rfl
  · rfl

/-- The removal of a member: its group record with the removal's notices, then its two slots (R80). -/
theorem removeMember_is (s : State) (g : GroupId) (p : PositionId) :
    ∃ (x : Group) (bs : List NoticeBody),
    s.removeMember g p = State.dropGroupSlot g p (State.dropGroupSlot g p (bs.foldl State.raise (s.setGroup g x)) .h0) .h1 ∧
      x.members = (s.group g).members.filter (fun y => decide (y.position ≠ p)) ∧ x.talker? p = none ∧
      x.waiter? p = none := by
  obtain ⟨y, hy⟩ : ∃ y : Group, y =
    { s.group g with members := (s.group g).members.filter fun m => decide (m.position ≠ p) } := ⟨_, rfl⟩
  refine ⟨y.withoutEntries ((s.setGroup g y).floorDue y) p, y.withoutNotices g p, ?_, ?_,
    withoutEntries_no_entry _ p _⟩
  · rw [State.removeMember, ← hy, removeEntries_is, State.setGroup_group, State.setGroup_setGroup]
    rfl
  · rw [withoutEntries_members, hy]

theorem exec_memberRemove (s : State) (c : Port) (g : GroupId) (p : PositionId) {m : Member}
    (defined : (s.group g).defined = true) (member : (s.group g).member? p = some m) :
    exec (.memberRemove c (byteOf g.val) (byteOf p.val)) s =
      .next ((s.removeMember g p).answer c .ok [(s.group g).floorByte p]).finish := by
  show execMemberRemove c _ _ s = _
  simp [execMemberRemove, defined, member]

/-- Settles O34: the member leaves the list and the floor, then each slot of its position that holds the group is emptied. -/
theorem memberRemoved : Obligations.MemberRemoved := by
  intro c g p m s noOffers defined member
  have run := exec_memberRemove s c g p defined member
  obtain ⟨x, bs, removed, members, talker, waiter⟩ := removeMember_is s g p
  obtain ⟨a, ha⟩ : ∃ a, a = bs.foldl State.raise (s.setGroup g x) := ⟨_, rfl⟩
  obtain ⟨b, hb⟩ : ∃ b, b = State.dropGroupSlot g p a .h0 := ⟨_, rfl⟩
  obtain ⟨w, hw⟩ : ∃ w, w = State.dropGroupSlot g p b .h1 := ⟨_, rfl⟩
  rw [removed, ← ha, ← hb, ← hw] at run
  have frameA : SameExcept [.groups, .notices] s a := ha ▸ (setGroup_frame s g x).step (foldl_raise_frame bs _)
  have frameB : SameExcept [.positions, .termCount, .directory, .notices] a b := hb ▸ dropGroupSlot_frame a g p .h0
  have frameW : SameExcept [.positions, .termCount, .directory, .notices] b w := hw ▸ dropGroupSlot_frame b g p .h1
  have frame : SameExcept [.groups, .positions, .termCount, .directory, .notices] s w :=
    (frameA.mono).trans ((frameB.trans frameW).mono)
  have groups : w.groups = (s.setGroup g x).groups :=
    ((frameB.trans frameW) .groups (by decide)).trans (ha ▸ foldl_raise_frame bs _ .groups (by decide))
  have slotsA (q : PositionId) (h : Handset) : a.slot q h = s.slot q h := by
    rw [State.slot, State.position, frameA .positions (by decide)]
    rfl
  have slots (q : PositionId) (h : Handset) : w.slot q h =
      if q = p ∧ holdsSource (s.slot q h) (.group g) = true then none else s.slot q h := by
    rw [hw, dropGroupSlot_slot, hb, dropGroupSlot_slot, dropGroupSlot_slot]
    simp only [slotsA]
    by_cases at_ : q = p
    · subst at_
      cases h <;> simp
    · simp [at_]
  have count : w.termCount = s.termCount - (if holdsSource (s.slot p .h0) (.group g) then 2 else 0) -
      (if holdsSource (s.slot p .h1) (.group g) then 2 else 0) := by
    rw [hw, dropGroupSlot_termCount, hb, dropGroupSlot_termCount, dropGroupSlot_slot, frameA .termCount (by decide)]
    simp [slotsA]
  have none : (w.answer c .ok [(s.group g).floorByte p]).offers = [] := (frame .offers (by decide)).trans noOffers
  have e := finish_ended_none none
  have group (g' : GroupId) : (w.answer c .ok [(s.group g).floorByte p]).finish.group g' = (s.setGroup g x).group g' := by
    rw [e.group]
    simp only [State.group, State.answer_groups, groups]
  refine ⟨_, run, ?_, ?_, ?_, ?_, ?_, ?_, ?_, ?_, ?_⟩
  · exact e.answered (frame .ports (by decide)) rfl
  · rw [group, State.setGroup_group, members]
  · rw [group, State.setGroup_group, talker]
  · rw [group, State.setGroup_group, waiter]
  · exact fun g' ne => (group g').trans (State.setGroup_group_ne s x ne)
  · intro h
    rw [e.slot]
    exact (slots p h).trans (by simp)
  · intro q ne h
    rw [e.slot]
    exact (slots q h).trans (by simp [ne])
  · exact e.termCount.trans count
  · exact e.same (frame.step (ch := [.groups, .positions, .termCount, .directory, .notices, .ports])
      (answer_frame w c _ _)) noOffers

/-! ### The floor timer -/

/-- A written channel is the only one that has changed. -/
theorem channel_written {s t : State} {p : PositionId} {n : ChannelId} {x : Channel}
    (speakers : t.speakers = (s.setChannel p n x).speakers) : t.channel p n = x ∧ OtherChannels p n s t := by
  have at_ (q : PositionId) : t.speaker q = (s.setChannel p n x).speaker q := by
    rw [State.speaker, speakers]
    rfl
  refine ⟨?_, fun q ne => ?_, fun m ne => ?_, ?_⟩
  · rw [State.channel, at_]
    exact setChannel_channel_self p n x
  · rw [at_]
    exact State.setSpeaker_speaker_ne _ _ ne
  · rw [State.channel, at_]
    exact setChannel_channel_ne _ (by simp [ne])
  · rw [at_, State.setChannel, State.setSpeaker_speaker]

theorem setChannel_same (s : State) (p : PositionId) (n : ChannelId) : s.setChannel p n (s.channel p n) = s := by
  rw [State.setChannel, State.channel, Table.set_get]
  exact State.setSpeaker_speaker_self s p

/-- A timeout handed to the Speaker Field writes the must-release mark of one channel (R105). -/
theorem handTimeout_is (s : State) (p : PositionId) (src : Path) :
    (∀ h, src = .handset h → s.handTimeout p src = s) ∧ ∀ n, src = .channel n → s.handTimeout p src =
      s.setChannel p n { s.channel p n with mustRelease := (s.channel p n).ptt || (s.channel p n).mustRelease } := by
  refine ⟨fun h e => by rw [e]; rfl, fun n e => ?_⟩
  rw [e]
  show s.setMustRelease p n = _
  unfold State.setMustRelease
  dsimp only
  split
  · next ptt => simp only [ptt, Bool.true_or]
  · next ptt =>
    rw [Bool.not_eq_true] at ptt
    simp only [ptt, Bool.false_or]
    rw [← ptt]
    exact (setChannel_same s p n).symm

theorem handTimeout_frame (s : State) (p : PositionId) (src : Path) : SameExcept [.speakers] s (s.handTimeout p src) := by
  cases src with
  | handset h => exact .refl _ s
  | channel n => rw [(handTimeout_is s p (.channel n)).2 n rfl]; exact setChannel_frame s p n _

theorem exec_floorTimerExpiry {s : State} {g : GroupId} {p : PositionId} {src : Path} {due : Nat}
    (talks : (s.group g).talker? p = some ⟨p, src, some due⟩) :
    exec (.floorTimerExpiry g p) s = .next ((s.reach due).floorTimeout g p src).finish := by
  show execFloorTimerExpiry g p s = _
  simp [execFloorTimerExpiry, Group.floorTimer, talks]

/-- What a floor timeout leaves: the group without the talker and with the head granted, the two notices, and the channel's
must-release mark (R87). -/
theorem floorTimeout_leaves (s : State) (g : GroupId) (p : PositionId) (src : Path) :
    (s.floorTimeout g p src).group g =
        ((s.group g).withoutTalker p).headGranted (s.floorDue ((s.group g).withoutTalker p)) ∧
      OtherGroups g s (s.floorTimeout g p src) ∧
      Raised (.floorTimeout g p src :: ((s.group g).withoutTalker p).headNotices g) s (s.floorTimeout g p src) ∧
      (s.floorTimeout g p src).speakers = (s.handTimeout p src).speakers ∧
      SameExcept [.groups, .notices, .speakers] s (s.floorTimeout g p src) := by
  have handed := handTimeout_frame s p src
  have clock : (s.handTimeout p src).clock = s.clock := handed .clock (by decide)
  have same (g' : GroupId) : (s.handTimeout p src).group g' = s.group g' := by
    rw [State.group, handed .groups (by decide)]
    rfl
  obtain ⟨bs, hbs⟩ : ∃ bs, bs = ((s.group g).withoutTalker p).headNotices g := ⟨_, rfl⟩
  obtain ⟨y, hy⟩ : ∃ y, y = ((s.group g).withoutTalker p).headGranted (s.floorDue ((s.group g).withoutTalker p)) := ⟨_, rfl⟩
  have is : s.floorTimeout g p src =
      bs.foldl State.raise (((s.handTimeout p src).setGroup g y).raise (.floorTimeout g p src)) := by
    rw [floorTimeout_is, ← hbs]
    have due : (((s.handTimeout p src).setGroup g ((s.group g).withoutTalker p)).raise (.floorTimeout g p src)).floorDue
        ((s.group g).withoutTalker p) = s.floorDue ((s.group g).withoutTalker p) := by
      simp only [State.floorDue, State.dueIn, State.raise_clock, State.setGroup_clock, clock]
    rw [due, ← hy]
    show bs.foldl State.raise ((((s.handTimeout p src).setGroup g ((s.group g).withoutTalker p)).setGroup g y).raise _) = _
    rw [State.setGroup_setGroup]
  rw [is, ← hy, ← hbs]
  have told := foldl_raise_frame bs (((s.handTimeout p src).setGroup g y).raise (.floorTimeout g p src))
  have before : SameExcept [.groups, .speakers] s ((s.handTimeout p src).setGroup g y) :=
    handed.step (setGroup_frame _ g y)
  have group (g' : GroupId) : (bs.foldl State.raise (((s.handTimeout p src).setGroup g y).raise
      (.floorTimeout g p src))).group g' = ((s.handTimeout p src).setGroup g y).group g' := by
    rw [State.group, told .groups (by decide)]
    rfl
  refine ⟨?_, fun g' ne => ?_, ?_, ?_, ?_⟩
  · rw [group, State.setGroup_group]
  · rw [group, State.setGroup_group_ne _ _ ne, same]
  · exact .after before (Raised.trans (as := [_]) (raise_raised _ _) (foldl_raise_raised bs _) (told .clock (by decide)))
  · rw [told .speakers (by decide)]
    rfl
  · exact (before.step (ch := [.groups, .notices, .speakers]) (raise_frame _ _)).step told

/-- Settles O35: the timeout takes the talker's place, and the head of the queue after it is granted. -/
theorem floorTimesOut : Obligations.FloorTimesOut := by
  intro g p src due s noOffers talks
  have run := exec_floorTimerExpiry talks
  obtain ⟨group, others, raised, speakers, frame⟩ := floorTimeout_leaves (s.reach due) g p src
  obtain ⟨w, hw⟩ : ∃ w, w = (s.reach due).floorTimeout g p src := ⟨_, rfl⟩
  rw [← hw] at run group others raised speakers frame
  have all : SameExcept [.clock, .groups, .notices, .speakers] s w := (reach_frame s due).step frame
  have e := finish_ended_none ((all .offers (by decide)).trans noOffers)
  have clock : w.finish.clock = max s.clock due := e.clock.trans (frame .clock (by decide))
  have raised : Raised (.floorTimeout g p src :: ((s.group g).withoutTalker p).headNotices g) s w.finish :=
    e.raised (.after (reach_frame s due) raised)
  have group : w.finish.group g = ((s.group g).withoutTalker p).headGranted
      (if (s.group g).floorLimit = 0 then none else some (w.finish.clock + (s.group g).floorLimit * 1000 * 8)) := by
    rw [e.group, group, clock]
    rfl
  have speakers : w.finish.speakers = ((s.reach due).handTimeout p src).speakers := e.speakers.trans speakers
  refine ⟨_, run, clock, fun g' ne => (e.group g').trans (others g' ne), fun empty => ?_, fun x rest queue => ?_,
    fun h handset => ?_, fun n channel => ?_, e.same all noOffers⟩
  · have none : ((s.group g).withoutTalker p).waiting = [] := empty
    simp only [Group.headGranted, none] at group
    simp only [Group.headNotices, none] at raised
    exact ⟨group, raised⟩
  · have head : ((s.group g).withoutTalker p).waiting = x :: rest := queue
    simp only [Group.headGranted, head] at group
    simp only [Group.headNotices, head] at raised
    exact ⟨group, raised⟩
  · rw [speakers, (handTimeout_is _ p src).1 h handset]
    rfl
  · rw [(handTimeout_is _ p src).2 n channel] at speakers
    exact (channel_written (s := s) speakers).symm

end Sys2Proof.Machine
end

section
/-! PROOFS. Turret events: the event taken from the delivered ones, its interpretation and its end; denials; and the
function keys, knobs and timers that change one record each. -/

namespace Sys2Proof.Machine

-- One theorem after another: side by side they hold the memory of too many stacks.
set_option Elab.async false

/-! ### The event is taken from the delivered ones -/

section
variable (s : State) (p : PositionId) (ev : TurretEvent)

@[simp] theorem takeDelivered_line (l : LineId) : (s.takeDelivered p ev).line l = s.line l := rfl
@[simp] theorem takeDelivered_position (q : PositionId) : (s.takeDelivered p ev).position q = s.position q := rfl
@[simp] theorem takeDelivered_slot (q : PositionId) (h : Handset) : (s.takeDelivered p ev).slot q h = s.slot q h := rfl
@[simp] theorem takeDelivered_hook (q : PositionId) (h : Handset) : (s.takeDelivered p ev).hook q h = s.hook q h := rfl
@[simp] theorem takeDelivered_selected (q : PositionId) : (s.takeDelivered p ev).selected q = s.selected q := rfl
@[simp] theorem takeDelivered_group (g : GroupId) : (s.takeDelivered p ev).group g = s.group g := rfl
@[simp] theorem takeDelivered_speaker (q : PositionId) : (s.takeDelivered p ev).speaker q = s.speaker q := rfl
@[simp] theorem takeDelivered_channel (q : PositionId) (n : ChannelId) :
    (s.takeDelivered p ev).channel q n = s.channel q n := rfl
@[simp] theorem takeDelivered_entry (q : PositionId) (k : Key) : (s.takeDelivered p ev).entry q k = s.entry q k := rfl
@[simp] theorem takeDelivered_clock : (s.takeDelivered p ev).clock = s.clock := rfl
@[simp] theorem takeDelivered_offers : (s.takeDelivered p ev).offers = s.offers := rfl
@[simp] theorem takeDelivered_termCount : (s.takeDelivered p ev).termCount = s.termCount := rfl

theorem takeDelivered_frame : SameExcept [.links] s (s.takeDelivered p ev) := setLink_frame s p _

theorem Link.taken_delivered (x : Link) : x.taken ev = { x with delivered := (x.taken ev).delivered } := by
  unfold Link.taken
  split <;> rfl

end

/-! ### The end of a turret event -/

/-- State `t` is what a turret event at `p` leaves: after the event was taken from the delivered ones its interpretation
changed the parts `ch` and left `w`, and the event ended without an attach opportunity to take. -/
structure TurretEnd (p : PositionId) (ch : List Part) (s w t : State) : Prop where
  ended : Ended w t
  delivered : OnlyDelivered p s t
  before : SameExcept (.links :: ch) s w
  noOffers : s.offers = []

theorem OnlyDelivered.of_taken {s w : State} {p : PositionId} {ev : TurretEvent}
    (links : w.links = (s.takeDelivered p ev).links) : OnlyDelivered p s w.finish := by
  have queues := finish_queues w
  have link (q : PositionId) : w.link q = (s.takeDelivered p ev).link q := by rw [State.link, links]; rfl
  refine ⟨fun q ne => ?_, ?_⟩
  · rw [queues q, link, State.takeDelivered, State.setLink_link_ne _ _ ne]
  · rw [queues p, link, State.takeDelivered, State.setLink_link, Link.taken_delivered]

/-- A turret event at a position whose link is UP, by what its interpretation changes. -/
theorem turretEvent_end {i : Instr} {s : State} {p : PositionId} {ev : TurretEvent} {act : State → State} {w : State}
    {ch : List Part} (up : (s.position p).linkUp = true)
    (run : exec i s = .next (s.turretEvent p ev act)) (is : act (s.takeDelivered p ev) = w) (noOffers : s.offers = [])
    (frame : SameExcept ch (s.takeDelivered p ev) w)
    (free : w.offers = [] ∨ ∀ l ∈ w.offers, w.noneWaits l) (links : Part.links ∉ ch := by decide) :
    exec i s = .next w.finish ∧ TurretEnd p ch s w w.finish := by
  refine ⟨?_, finish_ended ?_, .of_taken (frame .links links), ?_, noOffers⟩
  · rw [run]
    congr 1
    show (if (s.position p).linkUp = true then (act (s.takeDelivered p ev)).finish else _) = _
    rw [if_pos up, is]
  · rcases free with none | free
    · simp [none]
    · exact free
  · exact ((takeDelivered_frame s p ev).mono (by simp)).trans (frame.mono fun q hq => List.mem_cons_of_mem _ hq)

theorem TurretEnd.same {p : PositionId} {ch ch' : List Part} {s w t : State} (e : TurretEnd p ch s w t)
    (sub : ∀ q ∈ Part.links :: ch, q ∈ Part.offers :: ch' := by decide)
    (lit : Part.links ∈ ch' ∧ Part.lamps ∈ ch' := by decide) : SameExcept ch' s t :=
  e.ended.same e.before e.noOffers sub lit

/-! ### Denials -/

theorem denyKey_leaves (s : State) (p : PositionId) (x : LampId) (r : ResultCode) (o : Origin) :
    Raised [.keyDenied p (some x) r o] s (s.denyKey p (some x) r o) ∧
      (s.denyKey p (some x) r o).position p =
        { s.position p with deny := (s.position p).deny.set x (some (s.clock + 8000)) } ∧
      OtherPositions p s (s.denyKey p (some x) r o) ∧
      SameExcept [.positions, .notices] s (s.denyKey p (some x) r o) :=
  ⟨(raise_raised s _).then (startDeny_frame _ p x), State.setPosition_position _ p _,
    fun _ ne => State.setPosition_position_ne _ _ ne, denyKey_frame s p _ r o⟩

theorem shownCode_deny {s : State} {p : PositionId} {x : LampId} {due : Nat} (h : (s.position p).deny.get x = some due) :
    s.shownCode p x = .deny := by
  simp only [State.shownCode, h]

/-- A turret event that was denied on lamp `x`. -/
theorem turret_denied {i : Instr} {s : State} {p : PositionId} {ev : TurretEvent} {act : State → State} {x : LampId} {r : ResultCode}
    (up : (s.position p).linkUp = true) (noOffers : s.offers = []) (run : exec i s = .next (s.turretEvent p ev act))
    (is : act (s.takeDelivered p ev) = (s.takeDelivered p ev).denyKey p (some x) r .turret) :
    ∃ t, exec i s = .next t ∧ Raised [.keyDenied p (some x) r .turret] s t ∧
      t.position p = { s.position p with deny := (s.position p).deny.set x (some (s.clock + 8000)) } ∧
      OtherPositions p s t ∧ t.shownCode p x = .deny ∧ OnlyDelivered p s t ∧
      SameExcept [.positions, .notices, .links, .lamps] s t := by
  obtain ⟨raised, position, others, frame⟩ := denyKey_leaves (s.takeDelivered p ev) p x r .turret
  obtain ⟨run, e⟩ := turretEvent_end up run is noOffers frame (.inl (noOffers ▸ frame .offers (by decide)))
  have position := (e.ended.position p).trans position
  refine ⟨_, run, e.ended.raised (.after (takeDelivered_frame s p ev) raised), position,
    fun q ne => (e.ended.position q).trans (others q ne), shownCode_deny (due := s.clock + 8000) ?_, e.delivered, e.same⟩
  rw [position]
  exact Table.get_set_self _ _ _

/-! ### Selection and silence -/

theorem selectKey_is (s : State) (p : PositionId) (h : Handset) :
    (s.selectKey p h).1 = s.setPosition p { s.position p with selected := h } := by
  unfold State.selectKey
  split
  · next same => rw [← same]; exact (State.setPosition_position_self s p).symm
  · rfl

theorem silenceKey_is (s : State) (p : PositionId) : (s.silenceKey p).1 =
    if (s.position p).ringQueue.isEmpty then s else s.setPosition p { s.position p with
      ringer := { (s.position p).ringer with silenced := true, cadence := none } } := by
  unfold State.silenceKey
  dsimp only
  split <;> rfl

/-- A turret event that writes one position record. -/
theorem turret_position {i : Instr} {s : State} {p : PositionId} {ev : TurretEvent} {act : State → State} {x : Position}
    (up : (s.position p).linkUp = true) (noOffers : s.offers = []) (run : exec i s = .next (s.turretEvent p ev act))
    (is : act (s.takeDelivered p ev) = (s.takeDelivered p ev).setPosition p x) :
    ∃ t, exec i s = .next t ∧ t.position p = x ∧ OtherPositions p s t ∧ OnlyDelivered p s t ∧
      SameExcept [.positions, .links, .lamps] s t := by
  obtain ⟨run, e⟩ := turretEvent_end up run is noOffers (setPosition_frame _ p x) (.inl noOffers)
  exact ⟨_, run, (e.ended.position p).trans (State.setPosition_position _ p x),
    fun q ne => (e.ended.position q).trans (State.setPosition_position_ne _ x ne), e.delivered, e.same⟩

/-- A turret event that its interpretation ignores. -/
theorem turret_ignored {i : Instr} {s : State} {p : PositionId} {ev : TurretEvent} {act : State → State}
    (up : (s.position p).linkUp = true) (noOffers : s.offers = []) (run : exec i s = .next (s.turretEvent p ev act))
    (is : act (s.takeDelivered p ev) = s.takeDelivered p ev) :
    ∃ t, exec i s = .next t ∧ Ended (s.takeDelivered p ev) t ∧ OnlyDelivered p s t ∧
      SameExcept [.links, .lamps] s t := by
  obtain ⟨run, e⟩ := turretEvent_end up run is noOffers (.refl [] _) (.inl noOffers)
  exact ⟨_, run, e.ended, e.delivered, e.same⟩

/-- A position record and the clock written as one event. -/
theorem reached_position {s : State} (due : Nat) {p : PositionId} {x : Position} (noOffers : s.offers = []) :
    let t := ((s.reach due).setPosition p x).finish
    t.clock = max s.clock due ∧ t.position p = x ∧ OtherPositions p s t ∧
      SameExcept [.clock, .positions, .links, .lamps] s t ∧ OnlyLampQueues s t := by
  have e := finish_ended_none (u := (s.reach due).setPosition p x) noOffers
  exact ⟨e.clock, (e.position p).trans (State.setPosition_position _ p x),
    fun q ne => (e.position q).trans (State.setPosition_position_ne _ x ne),
    e.same ((reach_frame s due).step (ch := [.clock, .positions]) (setPosition_frame _ p x)) noOffers, e.onlyLampQueues rfl⟩

/-! ### Deny and cadence timers -/

theorem exec_denyTimerExpiry {s : State} {p : PositionId} {x : LampId} {due : Nat}
    (shown : (s.position p).deny.get x = some due) : exec (.denyTimerExpiry p x) s =
      .next ((s.reach due).setPosition p { s.position p with deny := (s.position p).deny.set x none }).finish := by
  show execDenyTimerExpiry p x s = _
  simp only [execDenyTimerExpiry, shown]
  rfl

/-- The length of the phase that a ringer enters after phase `onPhase`, by the class of the head (R69). -/
theorem changePhase_is {x : Position} {e : RingEntry} {rest : List RingEntry} (head : x.ringQueue = e :: rest) (clock : Nat)
    (onPhase : Bool) (due : Nat) : x.changePhase clock ⟨onPhase, due⟩ = { x with
      ringer := if onPhase then x.ringer.enterOff clock e.cls else x.ringer.enterOn clock e.cls } := by
  have : headClass x.ringQueue = some e.cls := by rw [head]; rfl
  simp only [Position.changePhase, this]
  cases onPhase <;> rfl

theorem ringerCondition_on {x : Position} {e : RingEntry} {rest : List RingEntry} {onPhase : Bool} {due : Nat}
    (head : x.ringQueue = e :: rest) (heard : x.ringer.silenced = false) (cadence : x.ringer.cadence = some ⟨onPhase, due⟩) :
    x.ringerCondition = if onPhase then .on else .off := by
  simp [Position.ringerCondition, head, heard, cadence]

theorem exec_cadenceTimerExpiry {s : State} {p : PositionId} {onPhase : Bool} {due : Nat} {e : RingEntry}
    {rest : List RingEntry} (cadence : (s.position p).ringer.cadence = some ⟨onPhase, due⟩)
    (head : (s.position p).ringQueue = e :: rest) (heard : (s.position p).ringer.silenced = false) :
    exec (.cadenceTimerExpiry p) s = .next ((s.reach due).setPosition p { s.position p with
      ringer := if onPhase then (s.position p).ringer.enterOff (max s.clock due) e.cls
        else (s.position p).ringer.enterOn (max s.clock due) e.cls }) := by
  have sounding : (s.position p).sounding = true := by
    rw [Position.sounding, ringerCondition_on head heard cadence]
    cases onPhase <;> rfl
  show execCadenceTimerExpiry p s = _
  simp only [execCadenceTimerExpiry, cadence, sounding]
  show Host.Outcome.next ((s.reach due).setPosition p ((s.position p).changePhase (max s.clock due) ⟨onPhase, due⟩)) = _
  rw [changePhase_is head]

/-- Settles O31: each of the four writes one position record. -/
theorem selectionSilenceAndTimers : Obligations.SelectionSilenceAndTimers := by
  refine ⟨fun p s noOffers up => ⟨?_, ?_, ?_⟩, fun p s noOffers => ⟨fun x due shown => ?_,
    fun due onPhase e rest cadence head heard => ?_⟩⟩
  · obtain ⟨t, run, rest⟩ := turret_position (i := .selectH0 p) up noOffers rfl (selectKey_is _ p .h0)
    exact ⟨t, run, rest⟩
  · obtain ⟨t, run, rest⟩ := turret_position (i := .selectH1 p) up noOffers rfl (selectKey_is _ p .h1)
    exact ⟨t, run, rest⟩
  · have is := silenceKey_is (s.takeDelivered p (.func .ringSilence 0 true)) p
    rw [takeDelivered_position] at is
    by_cases empty : (s.position p).ringQueue = []
    · rw [if_pos (by simp [empty])] at is
      obtain ⟨t, run, ended, delivered, frame⟩ := turret_ignored (i := .ringSilence p) up noOffers rfl is
      exact ⟨t, run, fun q _ => ended.position q, delivered, frame.mono, fun _ => ended.position p,
        fun ne => absurd empty ne⟩
    · rw [if_neg (by simp [empty])] at is
      obtain ⟨t, run, position, others, delivered, frame⟩ := turret_position (i := .ringSilence p) up noOffers rfl is
      refine ⟨t, run, others, delivered, frame, fun e => absurd e empty, fun _ => ⟨?_, position⟩⟩
      rw [position]
      simp [Position.ringerCondition, empty]
  · have run := exec_denyTimerExpiry shown
    obtain ⟨clock, position, others, frame, queues⟩ := reached_position due (p := p)
      (x := { s.position p with deny := (s.position p).deny.set x none }) noOffers
    refine ⟨_, run, clock, position, ?_, others, frame, queues⟩
    have none : ((((s.reach due).setPosition p { s.position p with
        deny := (s.position p).deny.set x none }).finish).position p).deny.get x = none := by
      rw [position]
      exact Table.get_set_self _ _ _
    rw [State.shownCode, none]
  · have run := exec_cadenceTimerExpiry cadence head heard
    have position : ((s.reach due).setPosition p { s.position p with
        ringer := if onPhase then (s.position p).ringer.enterOff (max s.clock due) e.cls
          else (s.position p).ringer.enterOn (max s.clock due) e.cls }).position p = _ :=
      State.setPosition_position _ p _
    refine ⟨_, run, rfl, ?_, ?_, ?_, ?_, ?_, (reach_frame s due).step (setPosition_frame _ p _)⟩
    · rw [position]
      cases onPhase <;> simp [Position.ringerCondition, head, heard, Ringer.enterOn, Ringer.enterOff]
    · rw [position]
      cases onPhase <;> cases cls : e.cls <;>
        simp [Ringer.enterOn, Ringer.enterOff, onPhaseMs, offPhaseMs, Config.periodsPerMs, State.reach]
    · rintro rfl
      rw [position]
      rfl
    · rw [position]
    · exact fun q ne => State.setPosition_position_ne _ _ ne

end Sys2Proof.Machine
end

section
/-! PROOFS. The speaker channels' keys and the volume knobs. -/

namespace Sys2Proof.Machine

-- One theorem after another: side by side they hold the memory of too many stacks.
set_option Elab.async false

/-! ### Mute and push-to-talk on a line -/

theorem mapParty_talking (x : Line) (p : PositionId) (path : Path) (v : Bool) :
    (x.mapParty p path fun y => { y with talking := v }) = { x with
      parties := x.parties.map fun y => if y.position = p ∧ y.path = path then { y with talking := v } else y } := by
  simp [Line.mapParty, Party.is]

/-- A party update of the talking flag writes one line record (R2). -/
theorem updateTalking_line (s : State) (l : LineId) (p : PositionId) (path : Path) (v : Bool) :
    (s.updateTalking l p path v).line l = { s.line l with parties := (s.line l).parties.map fun x =>
      if x.position = p ∧ x.path = path then { x with talking := v } else x } ∧
      OtherLines l s (s.updateTalking l p path v) := by
  refine ⟨?_, fun k ne => State.setLine_line_ne _ _ ne⟩
  rw [State.updateTalking, State.setLine_line, mapParty_talking]

theorem spkMuteKey_source {s : State} {p : PositionId} {n : ChannelId} {x : Source}
    (source : (s.channel p n).source = some x) (o : Origin) :
    (s.spkMuteKey p n o).1 = s.setChannel p n { s.channel p n with mute := !(s.channel p n).mute } := by
  simp [State.spkMuteKey, State.muteKey, source, State.channelResult]

theorem spkMuteKey_none {s : State} {p : PositionId} {n : ChannelId} (source : (s.channel p n).source = none) (o : Origin) :
    (s.spkMuteKey p n o).1 = s.denyKey p (some (channelLamp n)) .noSource o := by
  simp [State.spkMuteKey, State.muteKey, source, State.channelResult]

theorem spkTalkDownKey_line {s : State} {p : PositionId} {n : ChannelId} {l : LineId}
    (source : (s.channel p n).source = some (.line l)) (up : (s.channel p n).ptt = false) (o : Origin) :
    (s.spkTalkDownKey p n o).1 =
      if (s.channel p n).attach = .attached ∧ (s.channel p n).talkback = true then
        (s.updateTalking l p (.channel n) true).setChannel p n { s.channel p n with ptt := true }
      else s.denyKey p (some (channelLamp n)) .noTalkback o := by
  by_cases talks : (s.channel p n).attach = .attached ∧ (s.channel p n).talkback = true
  · simp [State.spkTalkDownKey, State.talkKeyDown, source, up, talks, State.channelResult]
  · rw [if_neg talks]
    simp [State.spkTalkDownKey, State.talkKeyDown, source, up, talks, State.channelResult]

theorem talkKeyUp_line {s : State} {p : PositionId} {n : ChannelId} {l : LineId}
    (source : (s.channel p n).source = some (.line l)) (attached : (s.channel p n).attach = .attached)
    (down : (s.channel p n).ptt = true) : (s.talkKeyUp p n).1 =
      (s.setChannel p n { s.channel p n with ptt := false, mustRelease := false }).updateTalking l p (.channel n) false := by
  simp [State.talkKeyUp, source, attached, down]

/-- A channel and the talking flag of its party, written as one turret event. -/
theorem turret_talking {i : Instr} {s w : State} {p : PositionId} {ev : TurretEvent} {act : State → State} {n : ChannelId}
    {l : LineId} {v : Bool} {x : Channel} (up : (s.position p).linkUp = true) (noOffers : s.offers = [])
    (run : exec i s = .next (s.turretEvent p ev act)) (is : act (s.takeDelivered p ev) = w)
    (frame : SameExcept [.lines, .speakers] (s.takeDelivered p ev) w)
    (lines : w.lines = (s.updateTalking l p (.channel n) v).lines) (speakers : w.speakers = (s.setChannel p n x).speakers) :
    ∃ t, exec i s = .next t ∧ t.channel p n = x ∧
      t.line l = { s.line l with parties := (s.line l).parties.map fun x =>
        if x.position = p ∧ x.path = .channel n then { x with talking := v } else x } ∧
      OtherLines l s t ∧ OtherChannels p n s t ∧ OnlyDelivered p s t ∧ SameExcept [.lines, .speakers, .links, .lamps] s t := by
  obtain ⟨run, e⟩ := turretEvent_end up run is noOffers frame (.inl (noOffers ▸ frame .offers (by decide)))
  obtain ⟨line, others⟩ := updateTalking_line s l p (.channel n) v
  have at_ (k : LineId) : w.finish.line k = (s.updateTalking l p (.channel n) v).line k := by
    rw [e.ended.line, State.line, lines]
    rfl
  obtain ⟨channel, channels⟩ := channel_written (t := w.finish) (e.ended.speakers.trans speakers)
  exact ⟨_, run, channel, (at_ l).trans line, fun k ne => (at_ k).trans (others k ne), channels, e.delivered, e.same⟩

/-- Settles O39: each key by the channel's source, attach state and talkback. -/
theorem channelKeys : Obligations.ChannelKeys := by
  refine ⟨fun p n s noOffers up => ⟨fun x source => ?_, fun source => ?_⟩,
    fun p n l s noOffers up source => ⟨fun attached talkback ptt => ?_, fun attached ptt => ?_, fun silent ptt => ?_⟩⟩
  · obtain ⟨run, e⟩ := turretEvent_end (i := .spkMute p n) up rfl (spkMuteKey_source (s := s.takeDelivered p _) source .turret) noOffers
      (setChannel_frame _ p n _) (.inl noOffers)
    obtain ⟨channel, channels⟩ := channel_written (s := s) e.ended.speakers
    exact ⟨_, run, channel, channels, e.delivered, e.same⟩
  · obtain ⟨t, run, raised, position, others, -, delivered, frame⟩ :=
      turret_denied (i := .spkMute p n) up noOffers rfl (spkMuteKey_none (s := s.takeDelivered p _) source .turret)
    exact ⟨t, run, raised, position, others, delivered, frame⟩
  · have is := spkTalkDownKey_line (s := s.takeDelivered p (.func .spkTalk (channelByte n) true)) source ptt .turret
    have is := is.trans (if_pos ⟨attached, talkback⟩)
    obtain ⟨t, run, channel, line, others, channels, delivered, frame⟩ :=
      turret_talking (i := .spkTalkDown p n) up noOffers rfl is
        ((updateTalking_frame _ l p _ _).step (setChannel_frame _ p n _)) rfl rfl
    exact ⟨t, run, channel, line, others, channels, delivered, frame⟩
  · have is := talkKeyUp_line (s := s.takeDelivered p (.func .spkTalk (channelByte n) false)) source attached ptt
    obtain ⟨t, run, channel, line, others, channels, delivered, frame⟩ :=
      turret_talking (i := .spkTalkUp p n) up noOffers rfl is
        ((setChannel_frame _ p n _).step (updateTalking_frame _ l p _ _)) rfl rfl
    exact ⟨t, run, channel, line, others, channels, delivered, frame⟩
  · have is := spkTalkDownKey_line (s := s.takeDelivered p (.func .spkTalk (channelByte n) true)) source ptt .turret
    have untold : ¬((s.channel p n).attach = .attached ∧ (s.channel p n).talkback = true) := by
      rcases silent with h | h <;> simp [h]
    have is := is.trans (if_neg untold)
    obtain ⟨t, run, raised, -, others, shown, delivered, frame⟩ := turret_denied (i := .spkTalkDown p n) up noOffers rfl is
    exact ⟨t, run, shown, raised, others, delivered, frame⟩

/-! ### Knobs -/

@[simp] theorem setKnob_knob (x : Position) (j : KnobId) (k : KnobState) : (x.setKnob j k).knob j = k := by
  unfold Position.setKnob Position.knob
  split <;> simp

@[simp] theorem setStep_step (x : Speaker) (ls : Loudspeaker) (v : Step) : (x.setStep ls v).step ls = v := by
  cases ls <;> rfl

/-- The detents as steps of the phase round (R108). -/
theorem detent_is (a b a' b' : Bool) : detent a b a' b' =
    if phase a' b' = phase a b + 1 then .forward
    else if phase a' b' + 1 = phase a b then .back
    else if phase a' b' = phase a b then .same else .invalid := by
  revert a b a' b'
  decide

/-- A step that is taken is written alone, and told only where it changes (R109). -/
theorem knobStep_leaves (s : State) (p : PositionId) (ls : Loudspeaker) (v : Step) :
    ((s.knobStep p ls v).speaker p).step ls = v ∧ OtherSpeakers p s (s.knobStep p ls v) ∧
      Raised (if v = (s.speaker p).step ls then [] else [.knob p ls v]) s (s.knobStep p ls v) ∧
      SameExcept [.speakers, .notices] s (s.knobStep p ls v) := by
  unfold State.knobStep
  split
  · next same => exact ⟨same.symm, fun _ _ => rfl, .refl s, .refl _ s⟩
  · refine ⟨?_, fun q ne => State.setSpeaker_speaker_ne s _ ne, .after (setSpeaker_frame s p _) (raise_raised _ _),
      (setSpeaker_frame s p _).step (raise_frame _ _)⟩
    show ((s.setSpeaker p _).speaker p).step ls = v
    rw [State.setSpeaker_speaker, setStep_step]

/-- What knob `j` of `p` leaves with its new phase pair and residue `r` (R108, R109). -/
structure KnobLeft (p : PositionId) (j : KnobId) (a b : Bool) (r : Int) (s w : State) : Prop where
  frame : SameExcept [.positions, .speakers, .notices] s w
  positions : OtherPositions p s w
  speakers : OtherSpeakers p s w
  below : r ≠ 4 → r ≠ -4 → (w.position p).knob j = ⟨a, b, r⟩ ∧ w.speakers = s.speakers ∧ Raised [] s w
  up : r = 4 → (w.position p).knob j = ⟨a, b, 0⟩ ∧
    (w.speaker p).step (KnobId.loudspeaker j) = stepUp ((s.speaker p).step (KnobId.loudspeaker j)) ∧
    Raised (if stepUp ((s.speaker p).step (KnobId.loudspeaker j)) = (s.speaker p).step (KnobId.loudspeaker j) then []
      else [.knob p (KnobId.loudspeaker j) (stepUp ((s.speaker p).step (KnobId.loudspeaker j)))]) s w
  down : r = -4 → (w.position p).knob j = ⟨a, b, 0⟩ ∧
    (w.speaker p).step (KnobId.loudspeaker j) = stepDown (s.speaker p).knobFloor ((s.speaker p).step (KnobId.loudspeaker j)) ∧
    Raised (if stepDown (s.speaker p).knobFloor ((s.speaker p).step (KnobId.loudspeaker j)) = (s.speaker p).step (KnobId.loudspeaker j)
      then []
      else [.knob p (KnobId.loudspeaker j) (stepDown (s.speaker p).knobFloor ((s.speaker p).step (KnobId.loudspeaker j)))]) s w

theorem knobResidue_left (s : State) (p : PositionId) (j : KnobId) (a b : Bool) (r : Int) :
    KnobLeft p j a b r s (s.knobResidue p j a b r) := by
  have stored (r' : Int) : SameExcept [.positions] s (s.setPosition p ((s.position p).setKnob j ⟨a, b, r'⟩)) :=
    setPosition_frame s p _
  have knob (r' : Int) : ((s.setPosition p ((s.position p).setKnob j ⟨a, b, r'⟩)).position p).knob j = ⟨a, b, r'⟩ := by
    rw [State.setPosition_position, setKnob_knob]
  have others (r' : Int) : OtherPositions p s (s.setPosition p ((s.position p).setKnob j ⟨a, b, r'⟩)) :=
    fun _ ne => State.setPosition_position_ne s _ ne
  have stepped (v : Step) {w : State} (is : s.knobResidue p j a b r =
        (s.setPosition p ((s.position p).setKnob j ⟨a, b, 0⟩)).knobStep p (KnobId.loudspeaker j) v)
      (hw : w = s.knobResidue p j a b r) : SameExcept [.positions, .speakers, .notices] s w ∧ OtherPositions p s w ∧
        OtherSpeakers p s w ∧ (w.position p).knob j = ⟨a, b, 0⟩ ∧ (w.speaker p).step (KnobId.loudspeaker j) = v ∧
        Raised (if v = (s.speaker p).step (KnobId.loudspeaker j) then [] else [.knob p (KnobId.loudspeaker j) v]) s w := by
    obtain ⟨step, speakers, raised, frame⟩ :=
      knobStep_leaves (s.setPosition p ((s.position p).setKnob j ⟨a, b, 0⟩)) p (KnobId.loudspeaker j) v
    rw [← is, ← hw] at step speakers raised frame
    have same (q : PositionId) : w.position q = (s.setPosition p ((s.position p).setKnob j ⟨a, b, 0⟩)).position q := by
      rw [State.position, frame .positions (by decide)]
      rfl
    exact ⟨(stored 0).step frame, fun q ne => (same q).trans (others 0 q ne), speakers, by rw [same, knob 0], step,
      .after (stored 0) raised⟩
  by_cases up : r = 4
  · obtain ⟨frame, positions, speakers, knob, step, raised⟩ := stepped (stepUp _) (by simp only [State.knobResidue, up, if_true]; rfl) rfl
    exact ⟨frame, positions, speakers, fun h => absurd up h, fun _ => ⟨knob, step, raised⟩,
      fun h => by rw [up] at h; cases h⟩
  by_cases down : r = -4
  · obtain ⟨frame, positions, speakers, knob, step, raised⟩ := stepped (stepDown _ _) (by simp only [State.knobResidue, down]; rfl) rfl
    exact ⟨frame, positions, speakers, fun _ h => absurd down h, fun h => absurd h up, fun _ => ⟨knob, step, raised⟩⟩
  · have is : s.knobResidue p j a b r = s.setPosition p ((s.position p).setKnob j ⟨a, b, r⟩) := by
      simp [State.knobResidue, up, down]
    rw [is]
    exact ⟨(stored r).mono, others r, fun _ _ => rfl, fun _ _ => ⟨knob r, rfl, .of_frame (stored r)⟩,
      fun h => absurd h up, fun h => absurd h down⟩

theorem stepUp_is (v : Step) : (stepUp v).val = min 27 (v.val + 1) ∧ (stepUp v = v ↔ ¬v.val < 27) := by
  unfold stepUp
  split
  · exact ⟨by dsimp only; omega, by rw [Fin.ext_iff]; dsimp only; omega⟩
  · exact ⟨by omega, by simp; omega⟩

theorem stepDown_is {floor v : Step} (above : floor ≤ v) (pos : 1 ≤ floor.val) :
    (stepDown floor v).val = max floor.val (v.val - 1) ∧ (stepDown floor v = v ↔ ¬floor < v) := by
  have above : floor.val ≤ v.val := above
  unfold stepDown
  split
  · next same => exact ⟨by rw [← same]; omega, by simp [same]⟩
  · next ne =>
    have ne : v.val ≠ floor.val := fun e => ne (Fin.ext e)
    exact ⟨by dsimp only; omega, by rw [Fin.ext_iff, Fin.lt_def]; dsimp only; omega⟩

theorem exec_knob {s : State} {p : PositionId} {j : KnobId} (a b : Bool) (known : j.val < (s.link p).knobCount) :
    (fun u : State => if j.val < (u.link p).knobCount then u.knobEvent p j a b else u)
      (s.takeDelivered p (.knob (byteOf j.val) a b)) = (s.takeDelivered p (.knob (byteOf j.val) a b)).knobEvent p j a b := by
  have count : ((s.takeDelivered p (.knob (byteOf j.val) a b)).link p).knobCount = (s.link p).knobCount := by
    rw [State.takeDelivered, State.setLink_link, Link.taken_delivered]
  dsimp only
  rw [count, if_pos known]

/-- Settles O40: the detent by the phase round, then the residue. -/
theorem knobDetents : Obligations.KnobDetents := by
  intro p j a b s noOffers up known k ls v hk hls hv above pos
  have loud : KnobId.loudspeaker j = ls := by rw [hls]; rfl
  obtain ⟨u, hu⟩ : ∃ u, u = s.takeDelivered p (.knob (byteOf j.val) a b) := ⟨_, rfl⟩
  have taken := takeDelivered_frame s p (.knob (byteOf j.val) a b)
  rw [← hu] at taken
  have kept : (u.position p).knob j = k ∧ (u.speaker p).step ls = v ∧ (u.speaker p).knobFloor = (s.speaker p).knobFloor := by
    rw [hu]
    exact ⟨hk.symm, hv.symm, rfl⟩
  obtain ⟨knob, step, floor⟩ := kept
  have ends {w : State} (is : u.knobEvent p j a b = w) (frame : SameExcept [.positions, .speakers, .notices] u w) :=
    turretEvent_end (i := .knob p j a b) up rfl ((exec_knob a b known).trans (by rw [← hu]; exact is)) noOffers
      (by rw [← hu]; exact frame) (.inl ((frame .offers (by decide)).trans (by rw [hu]; exact noOffers)))
  have moved (r : Int) (is : u.knobEvent p j a b = u.knobResidue p j a b r) :
      ∃ t, exec (.knob p j a b) s = .next t ∧ OtherPositions p s t ∧ OtherSpeakers p s t ∧ OnlyDelivered p s t ∧
        (r ≠ 4 → r ≠ -4 → (t.position p).knob j = ⟨a, b, r⟩ ∧ t.speakers = s.speakers ∧ Raised [] s t) ∧
        (r = 4 → (t.position p).knob j = ⟨a, b, 0⟩ ∧ ((t.speaker p).step ls).val = min 27 (v.val + 1) ∧
          Raised (if v.val < 27 then [.knob p ls ((t.speaker p).step ls)] else []) s t) ∧
        (r = -4 → (t.position p).knob j = ⟨a, b, 0⟩ ∧
          ((t.speaker p).step ls).val = max (s.speaker p).knobFloor.val (v.val - 1) ∧
          Raised (if (s.speaker p).knobFloor < v then [.knob p ls ((t.speaker p).step ls)] else []) s t) ∧
        SameExcept [.positions, .speakers, .notices, .links, .lamps] s t := by
    have left := knobResidue_left u p j a b r
    obtain ⟨w, hw⟩ : ∃ w, w = u.knobResidue p j a b r := ⟨_, rfl⟩
    rw [← hw] at left is
    obtain ⟨run, e⟩ := ends is left.frame
    have positions (q : PositionId) : u.position q = s.position q := by rw [hu]; rfl
    have speakers (q : PositionId) : u.speaker q = s.speaker q := by rw [hu]; rfl
    refine ⟨_, run, fun q ne => ?_, fun q ne => ?_, e.delivered, fun h4 h4' => ?_, fun h4 => ?_, fun h4 => ?_, e.same⟩
    · rw [e.ended.position, left.positions q ne, positions]
    · rw [e.ended.speaker, left.speakers q ne, speakers]
    · obtain ⟨knob, speakers, raised⟩ := left.below h4 h4'
      refine ⟨by rw [e.ended.position, knob], ?_, e.ended.raised (.after taken raised)⟩
      rw [e.ended.speakers, speakers, hu]
      rfl
    · obtain ⟨knob, taken', raised⟩ := left.up h4
      rw [loud, step] at taken' raised
      obtain ⟨val, holds⟩ := stepUp_is v
      rw [e.ended.position, e.ended.speaker, taken']
      refine ⟨knob, val, ?_⟩
      simp only [holds, ite_not] at raised
      exact e.ended.raised (.after taken raised)
    · obtain ⟨knob, taken', raised⟩ := left.down h4
      rw [loud, step, floor] at taken' raised
      obtain ⟨val, holds⟩ := stepDown_is above pos
      rw [e.ended.position, e.ended.speaker, taken']
      refine ⟨knob, val, ?_⟩
      simp only [holds, ite_not] at raised
      exact e.ended.raised (.after taken raised)
  by_cases forward : phase a b = phase k.a k.b + 1
  · have event : u.knobEvent p j a b = u.knobResidue p j a b (k.residue + 1) := by
      rw [State.knobEvent, knob, detent_is, if_pos forward]
    obtain ⟨t, run, positions, speakers, delivered, below, up, down, frame⟩ := moved _ event
    refine ⟨t, run, positions, speakers, delivered, fun _ h3 h5 => below (by omega) (by omega), fun _ h3 => up (by omega),
      fun h => ?_, fun h => ?_, fun h => ?_, fun h => ?_, frame⟩ <;> omega
  by_cases back : phase a b + 1 = phase k.a k.b
  · have event : u.knobEvent p j a b = u.knobResidue p j a b (k.residue - 1) := by
      rw [State.knobEvent, knob, detent_is, if_neg forward, if_pos back]
    obtain ⟨t, run, positions, speakers, delivered, below, up, down, frame⟩ := moved _ event
    refine ⟨t, run, positions, speakers, delivered, fun h => absurd h forward, fun h => absurd h forward,
      fun _ h3 h5 => below (by omega) (by omega), fun _ h3 => down (by omega), fun h => ?_, fun h => ?_, frame⟩ <;> omega
  by_cases still : phase a b = phase k.a k.b
  · have event : u.knobEvent p j a b = u := by
      rw [State.knobEvent, knob, detent_is, if_neg forward, if_neg back, if_pos still]
    obtain ⟨run, e⟩ := ends event (.refl _ u)
    refine ⟨_, run, fun q _ => ?_, fun q _ => ?_, e.delivered, fun h => absurd h forward, fun h => absurd h forward,
      fun h => absurd h back, fun h => absurd h back, fun h => ?_, fun _ => ⟨?_, ?_, ?_⟩, e.same⟩
    · rw [e.ended.position, hu]; rfl
    · rw [e.ended.speaker, hu]; rfl
    · omega
    · rw [e.ended.positions, hu]; rfl
    · rw [e.ended.speakers, hu]; rfl
    · exact e.ended.raised (.of_frame taken)
  · have event : u.knobEvent p j a b = u.knobResidue p j a b 0 := by
      rw [State.knobEvent, knob, detent_is, if_neg forward, if_neg back, if_neg still]
    obtain ⟨t, run, positions, speakers, delivered, below, up, down, frame⟩ := moved _ event
    exact ⟨t, run, positions, speakers, delivered, fun h => absurd h forward, fun h => absurd h forward,
      fun h => absurd h back, fun h => absurd h back, fun _ => below (by decide) (by decide), fun h => absurd h still, frame⟩

end Sys2Proof.Machine
end

section
/-! PROOFS. The floor of a group from a key: talk requests and releases of a speaker channel, the lift of a handset and the
privacy key. -/

namespace Sys2Proof.Machine

-- One theorem after another: side by side they hold the memory of too many stacks.
set_option Elab.async false

/-! ### Talk requests and releases -/

/-- What a talk request of a member without an entry finds: room on the floor, room in the queue, or neither (R83). -/
theorem talkRequest_fresh {s : State} {g : GroupId} {p : PositionId} {m : Member} (src : Path)
    (defined : (s.group g).defined = true) (member : (s.group g).member? p = some m)
    (silent : (s.group g).talker? p = none) (absent : (s.group g).waiter? p = none) :
    ((s.group g).talkers.length < (s.group g).talkerLimit ∧ (s.group g).waiting = [] ∧
      s.talkRequest g p src = (s.grant g p src false, .talker)) ∨
    (¬((s.group g).talkers.length < (s.group g).talkerLimit ∧ (s.group g).waiting = []) ∧
      (s.group g).waiting.length < 8 ∧ s.talkRequest g p src =
        (s.setGroup g { s.group g with
          waiting := insertByClass Waiter.cls ⟨p, src, m.cls⟩ (s.group g).waiting }, .waiting)) ∨
    (¬((s.group g).talkers.length < (s.group g).talkerLimit ∧ (s.group g).waiting = []) ∧
      8 ≤ (s.group g).waiting.length ∧ s.talkRequest g p src = (s, .floorFull)) := by
  by_cases room : (s.group g).talkers.length < (s.group g).talkerLimit ∧ (s.group g).waiting = []
  · exact .inl ⟨room.1, room.2, by simp [State.talkRequest, defined, member, silent, absent, room]⟩
  have full : ((s.group g).talkers.length < (s.group g).talkerLimit → (s.group g).waiting ≠ []) := fun a b => room ⟨a, b⟩
  by_cases queue : (s.group g).waiting.length < 8
  · refine .inr (.inl ⟨room, queue, ?_⟩)
    simp [State.talkRequest, defined, member, silent, absent, room, Config.maxWaiting, queue]
  · refine .inr (.inr ⟨room, by omega, ?_⟩)
    simp [State.talkRequest, defined, member, silent, absent, room, Config.maxWaiting, queue]

theorem grant_leaves (s : State) (g : GroupId) (p : PositionId) (src : Path) (fromQueue : Bool) :
    (s.grant g p src fromQueue).group g = { s.group g with
        talkers := (s.group g).talkers ++ [⟨p, src, if (s.group g).floorLimit = 0 then none
          else some (s.clock + (s.group g).floorLimit * 1000 * 8)⟩] } ∧
      OtherGroups g s (s.grant g p src fromQueue) ∧ Raised [.floorGrant g p src fromQueue] s (s.grant g p src fromQueue) :=
  ⟨State.setGroup_group s g _, fun _ ne => State.setGroup_group_ne s _ ne,
    .after (setGroup_frame s g _) (raise_raised _ _)⟩

/-- A talk release, whole: its group's floor and the grant that follows (R85, R86). -/
theorem talkRelease_leaves (s : State) (g : GroupId) (p : PositionId) (src : Path) :
    (s.talkRelease g p src).1.group g = (s.releasedFloor g p src).1 ∧ OtherGroups g s (s.talkRelease g p src).1 ∧
      Raised (s.releasedFloor g p src).2 s (s.talkRelease g p src).1 := by
  obtain ⟨y, hy⟩ : ∃ y, y = (s.releasedFloor g p src).1 := ⟨_, rfl⟩
  obtain ⟨bs, hbs⟩ : ∃ bs, bs = (s.releasedFloor g p src).2 := ⟨_, rfl⟩
  rw [talkRelease_is, ← hy, ← hbs]
  have told := foldl_raise_frame bs (s.setGroup g y)
  have group (k : GroupId) : (bs.foldl State.raise (s.setGroup g y)).group k = (s.setGroup g y).group k := by
    rw [State.group, told .groups (by decide)]
    rfl
  exact ⟨by rw [group, State.setGroup_group], fun k ne => by rw [group, State.setGroup_group_ne _ _ ne],
    .after (setGroup_frame s g y) (foldl_raise_raised bs _)⟩

/-! ### Push-to-talk on a group -/

section
variable {s : State} {p : PositionId} {n : ChannelId} {g : GroupId}
variable (source : (s.channel p n).source = some (.group g))
include source

theorem spkTalkDownKey_granted (up : (s.channel p n).ptt = false) {u : State} {r : ResultCode}
    (request : s.talkRequest g p (.channel n) = (u, r)) (given : r = .talker ∨ r = .waiting) :
    (s.spkTalkDownKey p n .turret).1 = u.setChannel p n { s.channel p n with ptt := true } := by
  rcases given with rfl | rfl <;>
    simp [State.spkTalkDownKey, State.talkKeyDown, source, up, request, State.channelResult]

theorem spkTalkDownKey_full (up : (s.channel p n).ptt = false) {u : State}
    (request : s.talkRequest g p (.channel n) = (u, .floorFull)) :
    (s.spkTalkDownKey p n .turret).1 = u.denyKey p (some (channelLamp n)) .floorFull .turret := by
  simp [State.spkTalkDownKey, State.talkKeyDown, source, up, request, State.channelResult]

theorem talkKeyUp_group (down : (s.channel p n).ptt = true) : (s.talkKeyUp p n).1 =
    ((s.setChannel p n { s.channel p n with ptt := false, mustRelease := false }).talkRelease g p (.channel n)).1 := by
  simp [State.talkKeyUp, source, down]

end

/-- A floor and a channel written as one turret event. -/
theorem turret_floor {i : Instr} {s u v : State} {p : PositionId} {ev : TurretEvent} {act : State → State} {n : ChannelId}
    {g : GroupId} {x : Channel} (up : (s.position p).linkUp = true) (noOffers : s.offers = [])
    (run : exec i s = .next (s.turretEvent p ev act))
    (taken : u = s.takeDelivered p ev) (is : act u = v.setChannel p n x) (frame : SameExcept [.groups, .notices] u v)
    (others : OtherGroups g s v) :
    ∃ t, exec i s = .next t ∧ TurretEnd p [.groups, .notices, .speakers] s (v.setChannel p n x) t ∧
      t.group g = v.group g ∧ OtherGroups g s t ∧ t.channel p n = x ∧ OtherChannels p n s t ∧ t.positions = s.positions ∧
      ∀ bs, Raised bs s v → Raised bs s t := by
  subst taken
  obtain ⟨run, e⟩ := turretEvent_end (ch := [.groups, .notices, .speakers]) up run is noOffers
    (frame.step (setChannel_frame v p n x)) (.inl (noOffers ▸ frame .offers (by decide)))
  have speakers : v.speakers = s.speakers := frame .speakers (by decide)
  have written : (v.setChannel p n x).speakers = (s.setChannel p n x).speakers := by
    simp only [State.setChannel, State.setSpeaker, State.speaker, speakers]
  obtain ⟨channel, channels⟩ := channel_written (e.ended.speakers.trans written)
  exact ⟨_, run, e, e.ended.group g, fun k ne => (e.ended.group k).trans (others k ne), channel, channels,
    e.ended.positions.trans (frame .positions (by decide)),
    fun bs raised => e.ended.raised (raised.then (setChannel_frame v p n x))⟩

/-- Settles O36: down by what the floor and its queue have room for, up by the entry that the channel holds. -/
theorem groupPushToTalk : Obligations.GroupPushToTalk := by
  refine ⟨fun p n g m s noOffers up source ptt defined member silent absent => ?_,
    fun p n g s noOffers up source ptt => ?_⟩
  · obtain ⟨u, hu⟩ : ∃ u, u = s.takeDelivered p (.func .spkTalk (channelByte n) true) := ⟨_, rfl⟩
    have taken := takeDelivered_frame s p (.func .spkTalk (channelByte n) true)
    have group (k : GroupId) : u.group k = s.group k := by rw [hu]; rfl
    have channel : u.channel p n = s.channel p n := by rw [hu]; rfl
    have clock : u.clock = s.clock := by rw [hu]; rfl
    rw [← hu] at taken
    have cases := talkRequest_fresh (s := u) (g := g) (p := p) (m := m) (.channel n)
      (by rw [group, defined]) (by rw [group, member]) (by rw [group, silent]) (by rw [group, absent])
    rw [group] at cases
    rcases cases with ⟨free, empty, request⟩ | ⟨full, room, request⟩ | ⟨full, crowded, request⟩
    · have is := spkTalkDownKey_granted (by rw [channel, source]) (by rw [channel, ptt]) request (.inl rfl)
      obtain ⟨record, others, raised⟩ := grant_leaves u g p (.channel n) false
      rw [group, clock] at record
      rw [channel] at is
      obtain ⟨t, run, e, at_, others, channel, channels, positions, told⟩ :=
        turret_floor (i := .spkTalkDown p n) up noOffers rfl hu is (grant_frame u g p _ _)
          (fun k ne => (others k ne).trans (group k))
      refine ⟨t, run, others, channels, e.delivered, fun _ _ => ⟨at_.trans record, channel,
        told _ (.after taken raised), positions⟩, fun h _ => absurd free (by omega), fun h _ => absurd free (by omega), e.same⟩
    · have is := spkTalkDownKey_granted (by rw [channel, source]) (by rw [channel, ptt]) request (.inr rfl)
      rw [channel] at is
      have others : OtherGroups g s (u.setGroup g { s.group g with
          waiting := insertByClass Waiter.cls ⟨p, .channel n, m.cls⟩ (s.group g).waiting }) :=
        fun k ne => (State.setGroup_group_ne u _ ne).trans (group k)
      obtain ⟨t, run, e, at_, others, channel, channels, positions, told⟩ :=
        turret_floor (i := .spkTalkDown p n) up noOffers rfl hu is (setGroup_frame u g _).mono others
      rw [State.setGroup_group] at at_
      refine ⟨t, run, others, channels, e.delivered, fun a b => absurd ⟨a, b⟩ full, fun _ _ => ?_,
        fun _ h => by omega, e.same⟩
      rw [at_]
      refine ⟨rfl, mem_insertByClass.2 (.inl rfl), (insertByClass_perm _ _ _).length_eq, fun normal => ?_, channel,
        told _ ((Raised.of_frame taken).then (setGroup_frame u g _)), positions⟩
      simp [insertByClass, normal]
    · have is := spkTalkDownKey_full (by rw [channel, source]) (by rw [channel, ptt]) request
      obtain ⟨t, run, raised, -, positions, shown, delivered, frame⟩ :=
        turret_denied (i := .spkTalkDown p n) up noOffers rfl (hu ▸ is)
      have groups : t.groups = s.groups := frame .groups (by decide)
      have record (k : GroupId) : t.group k = s.group k := by rw [State.group, groups]; rfl
      have channels (q : PositionId) (k : ChannelId) : t.channel q k = s.channel q k := by
        rw [State.channel, State.speaker, frame .speakers (by decide)]
        rfl
      have speakers (q : PositionId) : t.speaker q = s.speaker q := by
        rw [State.speaker, frame .speakers (by decide)]
        rfl
      exact ⟨t, run, fun k _ => record k, ⟨fun q _ => speakers q, fun k _ => channels p k, by rw [speakers p]⟩, delivered,
        fun a b => absurd ⟨a, b⟩ full, fun _ h => by omega,
        fun _ _ => ⟨record g, channels p n, raised, shown, positions⟩, frame.mono⟩
  · obtain ⟨u, hu⟩ : ∃ u, u = s.takeDelivered p (.func .spkTalk (channelByte n) false) := ⟨_, rfl⟩
    have taken := takeDelivered_frame s p (.func .spkTalk (channelByte n) false)
    rw [← hu] at taken
    obtain ⟨v, hv⟩ : ∃ v, v = u.setChannel p n { s.channel p n with ptt := false, mustRelease := false } := ⟨_, rfl⟩
    have is : (u.talkKeyUp p n).1 = (v.talkRelease g p (.channel n)).1 := by
      rw [hv, talkKeyUp_group (by rw [hu]; exact source) (by rw [hu]; exact ptt), hu]
      rfl
    have released : v.releasedFloor g p (.channel n) = s.releasedFloor g p (.channel n) := by rw [hv, hu]; rfl
    have before : SameExcept [.speakers] u v := hv ▸ setChannel_frame u p n _
    have group (k : GroupId) : v.group k = s.group k := by rw [hv, hu]; rfl
    obtain ⟨record, others, raised⟩ := talkRelease_leaves v g p (.channel n)
    have frame := talkRelease_frame v g p (.channel n)
    rw [released] at record raised
    obtain ⟨w, hw⟩ : ∃ w, w = (v.talkRelease g p (.channel n)).1 := ⟨_, rfl⟩
    rw [← hw] at is record others raised frame
    have all : SameExcept [.groups, .speakers, .notices] u w := before.step frame
    obtain ⟨run, e⟩ := turretEvent_end (i := .spkTalkUp p n) up rfl (hu ▸ is) noOffers (hu ▸ all)
      (.inl ((all .offers (by decide)).trans (by rw [hu]; exact noOffers)))
    have speakers : w.finish.speakers = (s.setChannel p n
        { s.channel p n with ptt := false, mustRelease := false }).speakers := by
      rw [e.ended.speakers, frame .speakers (by decide), hv, hu]
      rfl
    obtain ⟨channel, channels⟩ := channel_written speakers
    have record := (e.ended.group g).trans record
    have raised := e.ended.raised (.after taken (.after before raised))
    refine ⟨_, run, fun k ne => (e.ended.group k).trans ((others k ne).trans (group k)), channels, e.delivered, channel,
      fun d absent talks empty => ?_, fun d x rest absent talks queue => ?_, fun x waits own => ?_,
      fun absent silent => ?_, e.same⟩
    · simp only [State.releasedFloor, absent, talks, empty, if_true] at record raised
      exact ⟨record.trans (by simp only [empty]), raised⟩
    · simp only [State.releasedFloor, absent, talks, queue, if_true] at record raised
      exact ⟨by rw [record], raised⟩
    · simp only [State.releasedFloor, waits, own, if_true] at record raised
      exact ⟨record, raised⟩
    · simp only [State.releasedFloor, absent, silent] at record raised
      exact ⟨record, raised⟩

/-! ### The lift of a handset -/

section
variable (x : Position) (h g : Handset) (r : HandsetRecord)

@[simp] theorem setHandset_handset : (x.setHandset h r).handset h = r := by cases h <;> rfl

theorem setHandset_handset_ne {h g : Handset} (ne : g ≠ h) : (x.setHandset h r).handset g = x.handset g := by
  cases h <;> cases g <;> first | rfl | exact absurd rfl ne

end

/-- The position with handset `h` lifted and selected (R48). -/
def Position.lifted (h : Handset) (x : Position) : Position :=
  { x.setHandset h { x.handset h with hook := .off } with selected := h }

theorem lifted_handset (x : Position) (h : Handset) : (x.lifted h).handset h = { x.handset h with hook := .off } :=
  setHandset_handset x h _

/-- A lift changes no slot. -/
theorem lifted_slot (x : Position) (h g : Handset) : ((x.lifted h).handset g).slot = (x.handset g).slot := by
  by_cases same : g = h
  · rw [same, lifted_handset]
  · exact congrArg HandsetRecord.slot (setHandset_handset_ne x _ same)

theorem hookOffEvent_line {s : State} {p : PositionId} {h : Handset} {l : LineId} {k : Key} (on : s.hook p h = .on)
    (slot : s.slot p h = some ⟨.line l, k⟩) : s.hookOffEvent p h =
      (s.setPosition p ((s.position p).lifted h)).updateTalking l p (.handset h) true := by
  simp [State.hookOffEvent, on, slot, Position.lifted]

theorem hookOffEvent_group {s : State} {p : PositionId} {h : Handset} {g : GroupId} {k : Key} (on : s.hook p h = .on)
    (slot : s.slot p h = some ⟨.group g, k⟩) : s.hookOffEvent p h = s.setPosition p ((s.position p).lifted h) := by
  simp [State.hookOffEvent, on, slot, Position.lifted]

theorem hookOffEvent_silent {s : State} {p : PositionId} {h : Handset} (on : s.hook p h = .on) (slot : s.slot p h = none)
    (quiet : (s.position p).answerOnLift = false ∨ (s.position p).ringQueue = []) :
    s.hookOffEvent p h = s.setPosition p ((s.position p).lifted h) := by
  rcases quiet with e | e <;> simp [State.hookOffEvent, on, slot, e, Position.lifted]

/-- What a lifted position has changed. -/
theorem lifted_leaves {s t : State} {p : PositionId} {h : Handset} (position : t.position p = (s.position p).lifted h)
    (others : OtherPositions p s t) : t.hook p h = .off ∧ t.selected p = h ∧ ∀ q g, t.slot q g = s.slot q g := by
  refine ⟨?_, ?_, fun q g => ?_⟩
  · rw [State.hook, position, lifted_handset]
  · rw [State.selected, position]
    rfl
  · by_cases at_ : q = p
    · subst at_
      rw [State.slot, position, lifted_slot]
      rfl
    · rw [State.slot, others q at_]
      rfl

/-- Settles O29: the lift writes the position record, and for a held line its party's talking flag. -/
theorem liftTalks : Obligations.LiftTalks := by
  intro p h s noOffers up
  refine ⟨fun l k on slot => ?_, fun g k on slot => ?_, fun on slot quiet => ?_, fun off => ?_⟩
  · have is := hookOffEvent_line (s := s.takeDelivered p (.hook h .off)) on slot
    obtain ⟨run, e⟩ := turretEvent_end (ch := [.lines, .positions]) (i := .hookOff p h) up rfl is noOffers
      ((setPosition_frame _ p _).step (updateTalking_frame _ l p _ _)) (.inl noOffers)
    obtain ⟨line, others⟩ := updateTalking_line ((s.takeDelivered p (.hook h .off)).setPosition p
      ((s.position p).lifted h)) l p (.handset h) true
    have positions : OtherPositions p s _ := fun q ne => (e.ended.position q).trans (State.setPosition_position_ne _ _ ne)
    obtain ⟨hook, selected, slots⟩ := lifted_leaves (h := h)
      ((e.ended.position p).trans (State.setPosition_position _ p _)) positions
    exact ⟨_, run, hook, selected, (e.ended.line l).trans line, fun k ne => (e.ended.line k).trans (others k ne), slots,
      positions, e.delivered, e.same⟩
  · exact turret_position (i := .hookOff p h) up noOffers rfl
      (hookOffEvent_group (s := s.takeDelivered p (.hook h .off)) on slot)
  · obtain ⟨t, run, position, others, delivered, frame⟩ := turret_position (i := .hookOff p h) up noOffers rfl
      (hookOffEvent_silent (s := s.takeDelivered p (.hook h .off)) on slot quiet)
    obtain ⟨hook, selected, slots⟩ := lifted_leaves position others
    exact ⟨t, run, hook, selected, slots, others, delivered, frame⟩
  · have is : (s.takeDelivered p (.hook h .off)).hookOffEvent p h = s.takeDelivered p (.hook h .off) := by
      simp [State.hookOffEvent, off]
    obtain ⟨t, run, -, delivered, frame⟩ := turret_ignored (i := .hookOff p h) up noOffers rfl is
    exact ⟨t, run, delivered, frame⟩

/-! ### Privacy -/

/-- A move that keeps the state writes the record and may offer an opportunity, and does nothing else. -/
theorem moveLine_still_frame {s : State} {l : LineId} {x : Line} (state : x.state = (s.line l).state) :
    SameExcept [.lines, .offers] s (s.moveLine l x) := by
  have written : SameExcept [.lines] s (s.setLine l x) := setLine_frame s l x
  simp only [State.moveLine, State.leaveRings, State.joinRings, State.raiseLineState, state, if_true]
  split
  · exact written.step (offer_frame _ l)
  · exact written.mono

theorem privacyKey_principal {s : State} {p : PositionId} {l : LineId} {k : Key} {x : Party}
    (slot : s.slot p (s.selected p) = some ⟨.line l, k⟩) (principal : (s.line l).principal = some x)
    (position : x.position = p) (path : x.path = .handset (s.selected p)) :
    (s.privacyKey p .turret).1 = s.moveLine l { s.line l with privacy := !(s.line l).privacy } := by
  have is : (s.line l).isPrincipal p (.handset (s.selected p)) = true := Line.isPrincipal_iff.2 ⟨x, principal, position, path⟩
  simp [State.privacyKey, slot, State.privacyRequest, is]

theorem privacyKey_other {s : State} {p : PositionId} {l : LineId} {k : Key} {y : Party}
    (slot : s.slot p (s.selected p) = some ⟨.line l, k⟩) (principal : (s.line l).principal = some y)
    (other : y.position ≠ p ∨ y.path ≠ .handset (s.selected p)) :
    (s.privacyKey p .turret).1 = s.denyKey p (some (keyLamp k)) .notPrincipal .turret := by
  have isnt : (s.line l).isPrincipal p (.handset (s.selected p)) = false := by
    rw [Bool.eq_false_iff, Ne, Line.isPrincipal_iff]
    rintro ⟨z, hz, position, path⟩
    obtain rfl := Option.some.inj (principal.symm.trans hz)
    exact other.elim (absurd position) (absurd path)
  unfold State.privacyKey
  simp only [slot]
  cases party : (s.line l).party? p (.handset (s.selected p)) <;> simp [State.privacyRequest, isnt, party]

/-- Settles O30: the principal moves the line's privacy, and everybody else is denied. -/
theorem privacyByPrincipal : Obligations.PrivacyByPrincipal := by
  refine ⟨fun p l k x s noOffers up slot mem position path => ⟨fun principal free => ?_, fun y principal other => ?_⟩,
    fun p s noOffers up => ⟨fun g k slot => ?_, fun slot => ?_⟩⟩
  · have is := privacyKey_principal (s := s.takeDelivered p (.func .privacy 0 true)) slot principal position path
    have moved := moveLine_moved (s.takeDelivered p (.func .privacy 0 true)) l { s.line l with privacy := !(s.line l).privacy }
    obtain ⟨run, e⟩ := turretEvent_end (i := .privacy p) up rfl is noOffers (moveLine_still_frame rfl)
      (.inr fun m hm => by
        rcases moved.offers m hm with h | rfl
        · rw [takeDelivered_offers, noOffers] at h
          cases h
        · exact noneWaits_congr moved.rings (moved.frame .speakers (by decide)) free)
    exact ⟨_, run, (e.ended.line l).trans moved.line, fun m ne => (e.ended.line m).trans (moved.others m ne), e.delivered,
      e.same⟩
  · obtain ⟨t, run, raised, record, others, -, delivered, frame⟩ := turret_denied (i := .privacy p) up noOffers rfl
      (privacyKey_other (s := s.takeDelivered p (.func .privacy 0 true)) slot principal other)
    exact ⟨t, run, raised, record, others, delivered, frame⟩
  · have is : ((s.takeDelivered p (.func .privacy 0 true)).privacyKey p .turret).1 =
        (s.takeDelivered p (.func .privacy 0 true)).denyKey p (some (keyLamp k)) .noLine .turret := by
      simp [State.privacyKey, slot]
    obtain ⟨t, run, raised, record, others, -, delivered, frame⟩ := turret_denied (i := .privacy p) up noOffers rfl is
    exact ⟨t, run, ⟨raised, record, others⟩, delivered, frame⟩
  · have is : ((s.takeDelivered p (.func .privacy 0 true)).privacyKey p .turret).1 =
        (s.takeDelivered p (.func .privacy 0 true)).raise (.keyDenied p none .noLine .turret) := by
      simp [State.privacyKey, slot, State.denyKey]
    obtain ⟨run, e⟩ := turretEvent_end (i := .privacy p) up rfl is noOffers (raise_frame _ _) (.inl noOffers)
    exact ⟨_, run, e.ended.raised (.after (takeDelivered_frame s p _) (raise_raised _ _)), e.delivered, e.same⟩

end Sys2Proof.Machine
end

section
/-! PROOFS. Changes of a handset slot: the disposal of the old content, the slot and the term count, and the binding report
(R34, R39); and a line key that takes an IDLE line. -/

namespace Sys2Proof.Machine

-- One theorem after another: side by side they hold the memory of too many stacks.
set_option Elab.async false

/-! ### Waiting channels -/

/-- Whether a channel waits is in the link state and the channels alone (R101). -/
theorem noneWaits_of {s t : State} {l : LineId} (up : ∀ q, (t.position q).linkUp = (s.position q).linkUp)
    (speakers : t.speakers = s.speakers) (h : s.noneWaits l) : t.noneWaits l := by
  intro p n
  have channel : t.channel p n = s.channel p n := by
    rw [State.channel, State.speaker, speakers]
    rfl
  rw [← h p n, State.awaits, up, channel]
  rfl

/-! ### Binding reports -/

/-- What the report of the end of a binding of entry (p, k) leaves, where `installed` is what it installs (R134, R136). -/
structure Reported (p : PositionId) (k : Key) (installed : Option Content) (a w : State) : Prop where
  entry : ∀ c, installed = some c → w.entry p k = ⟨c, none⟩
  kept : installed = none → w = a
  entries : OtherEntries p k a w
  positions : OtherPositions p a w
  rings : OnlyRings a w
  raised : Raised (installNotices p k installed) a w
  frame : SameExcept [.directory, .positions, .notices] a w

theorem install_is (a : State) (p : PositionId) (k : Key) (c : Content) : ∃ b,
    a.install p k c = b.raise (.directoryApplied p k c.kind) ∧ SameExcept [.directory, .positions] a b ∧
      OtherPositions p a b ∧ ∀ q k', b.entry q k' = (a.setEntry p k ⟨c, none⟩).entry q k' :=
  ⟨_, rfl, (setEntry_frame a p k _).step (directoryChanged_frame _ p _), fun _ ne => directoryChanged_other _ _ ne,
    fun q k' => directoryChanged_entry _ p _ q k'⟩

theorem install_reported (a : State) (p : PositionId) (k : Key) (c : Content) : Reported p k (some c) a (a.install p k c) := by
  have rings := install_rings a p k c
  have frame := install_frame a p k c
  obtain ⟨b, is, changed, positions, entry⟩ := install_is a p k c
  rw [is] at rings frame ⊢
  refine ⟨?_, fun h => (by cases h), fun q k' ne => ?_, positions, rings, .after changed (raise_raised _ _), frame⟩
  · rintro _ ⟨⟩
    exact (entry p k).trans (setEntry_entry_self _ _ _)
  · exact (entry q k').trans (setEntry_entry_ne _ ne)

theorem reportEnd_reported (a : State) (p : PositionId) (k : Key) :
    Reported p k (if a.bound p k then none else (a.entry p k).pendingContent) a (a.reportEnd p k) := by
  have still : Reported p k none a a :=
    ⟨fun _ h => (by cases h), fun _ => rfl, fun _ _ _ => rfl, fun _ _ => rfl, .refl a, .refl a, .refl _ a⟩
  unfold State.reportEnd
  split
  · exact still
  · cases pending : (a.entry p k).pendingContent with
    | none => exact still
    | some c => exact install_reported a p k c

/-! ### Slot changes -/

theorem setSlot_position (s : State) (p : PositionId) (h : Handset) (x : Option Held) :
    (s.setSlot p h x).position p = (s.position p).setHandset h { (s.position p).handset h with slot := x } ∧
      OtherPositions p s (s.setSlot p h x) := by
  refine ⟨State.setPosition_position s p _, fun q ne => State.setPosition_position_ne s _ ne⟩

@[simp] theorem setHandset_linkUp (x : Position) (h : Handset) (r : HandsetRecord) : (x.setHandset h r).linkUp = x.linkUp := by
  cases h <;> rfl

theorem setSlot_linkUp (s : State) (p q : PositionId) (h : Handset) (x : Option Held) :
    ((s.setSlot p h x).position q).linkUp = (s.position q).linkUp := by
  obtain ⟨position, others⟩ := setSlot_position s p h x
  by_cases at_ : q = p
  · rw [at_, position, setHandset_linkUp]
  · rw [others q at_]

/-- The old content of a slot has been disposed of: its line took the record `f`, its group the floor `y`, with the notices
`bs`. -/
structure Disposed (old : Held) (f : LineId → Line) (y : GroupId → Group) (bs : List NoticeBody) (v a : State) : Prop where
  record : ∀ x, old.source = .line x → a.line x = f x
  floor : ∀ g, old.source = .group g → a.group g = y g
  lines : ∀ l, old.source ≠ .line l → a.line l = v.line l
  groups : ∀ g, old.source ≠ .group g → a.group g = v.group g
  raised : Raised bs v a
  offers : ∀ m ∈ a.offers, m ∈ v.offers ∨ old.source = .line m
  frame : SameExcept [.lines, .groups, .notices, .offers] v a

/-- A line of a call leaves its parties' queues as they are. -/
theorem moveLine_disposed {v : State} {x : LineId} {z : Line} (k : Key) (f : LineId → Line) (y : GroupId → Group)
    (here : f x = z) (before : (v.line x).state.inQueues = false) (after : z.state.inQueues = false) :
    Disposed ⟨.line x, k⟩ f y (stateNotices x (v.line x).state z.state) v (v.moveLine x z) := by
  have m := moveLine_moved v x z
  refine ⟨?_, fun g e => (by cases e), ?_, fun g _ => ?_, m.raised, ?_, ?_⟩
  · rintro _ ⟨⟩
    rw [here]
    exact m.line
  · exact fun l ne => m.others l fun e => ne (by rw [e])
  · rw [State.group, m.frame .groups (by decide)]
    rfl
  · exact fun l hl => (m.offers l hl).imp id fun e => by rw [e]
  · exact (m.frame.without_positions (ch' := [.lines, .notices, .offers]) (moveLine_positions_calm before after)).mono

theorem talkRelease_disposed (v : State) (p : PositionId) (h : Handset) (g : GroupId) (k : Key) (f : LineId → Line) :
    Disposed ⟨.group g, k⟩ f (fun g => (v.releasedFloor g p (.handset h)).1) (v.releasedFloor g p (.handset h)).2 v
      (v.talkRelease g p (.handset h)).1 := by
  obtain ⟨record, others, raised⟩ := talkRelease_leaves v g p (.handset h)
  have frame := talkRelease_frame v g p (.handset h)
  refine ⟨fun x e => (by cases e), ?_, fun l _ => lines_of_frame frame (by decide) l, ?_, raised, ?_, frame.mono⟩
  · rintro _ ⟨⟩
    exact record
  · exact fun g' ne => others g' fun e => ne (by rw [e])
  · intro m hm
    rw [frame .offers (by decide)] at hm
    exact .inl hm

/-- Slot `h` of `p` has changed from `old` to `new` (R34): the disposal `f`, `y`, `bs` of the old content, the slot and the
count, and the binding report that installed `installed`. -/
structure SlotMoved (p : PositionId) (h : Handset) (old : Held) (new : Option Held) (f : LineId → Line)
    (y : GroupId → Group) (bs : List NoticeBody) (installed : Option Content) (v w : State) : Prop where
  record : ∀ x, old.source = .line x → w.line x = f x
  floor : ∀ g, old.source = .group g → w.group g = y g
  lines : ∀ l, old.source ≠ .line l → w.line l = v.line l
  groups : ∀ g, old.source ≠ .group g → w.group g = v.group g
  changed : SlotChanged p h old new installed v w
  position : PositionBecomes p ((v.position p).setHandset h { (v.position p).handset h with slot := new }) installed v w
  linkUp : ∀ q, (w.position q).linkUp = (v.position q).linkUp
  raised : Raised (bs ++ installNotices p old.key installed) v w
  offers : ∀ m ∈ w.offers, m ∈ v.offers ∨ old.source = .line m
  frame : SameExcept slotParts v w

theorem Disposed.moved {p : PositionId} {h : Handset} {old : Held} {f : LineId → Line} {y : GroupId → Group}
    {bs : List NoticeBody} {v a : State} (d : Disposed old f y bs v a) (slot : v.slot p h = some old) (new : Option Held)
    {installed : Option Content}
    (report : (if (a.setSlot p h new).bound p old.key then none else (v.entry p old.key).pendingContent) = installed) :
    SlotMoved p h old new f y bs installed v ((a.setSlot p h new).reportEnd p old.key) := by
  have positions : a.positions = v.positions := d.frame .positions (by decide)
  have position (q : PositionId) : a.position q = v.position q := by rw [State.position, positions]; rfl
  have slots (q : PositionId) (g : Handset) : a.slot q g = v.slot q g := by rw [State.slot, position]; rfl
  have entries (q : PositionId) (k : Key) : a.entry q k = v.entry q k := by
    rw [State.entry, d.frame .directory (by decide)]
    rfl
  obtain ⟨b, hb⟩ : ∃ b, b = a.setSlot p h new := ⟨_, rfl⟩
  have set : SameExcept [.positions, .termCount] a b := hb ▸ setSlot_frame a p h new
  have entriesB (q : PositionId) (k : Key) : b.entry q k = v.entry q k := by rw [← entries, hb]; rfl
  have r := reportEnd_reported b p old.key
  rw [entriesB, hb, report, ← hb] at r
  rw [← hb]
  obtain ⟨w, hw⟩ : ∃ w, w = b.reportEnd p old.key := ⟨_, rfl⟩
  rw [← hw] at r ⊢
  obtain ⟨positionB, othersB⟩ := setSlot_position a p h new
  rw [← hb, position p] at positionB
  have othersB : OtherPositions p v b := fun q ne => by rw [hb, ← position q]; exact (setSlot_position a p h new).2 q ne
  have all : SameExcept slotParts v w := ((d.frame.mono (by decide)).trans (set.mono (by decide))).trans (r.frame.mono (by decide))
  have lines (l : LineId) : w.line l = a.line l :=
    (lines_of_frame r.frame (by decide) l).trans (lines_of_frame set (by decide) l)
  have groups (g : GroupId) : w.group g = a.group g := by
    rw [State.group, r.frame .groups (by decide), set .groups (by decide)]
    rfl
  have becomes : PositionBecomes p ((v.position p).setHandset h { (v.position p).handset h with slot := new })
      installed v w := by
    refine ⟨fun q ne => (r.positions q ne).trans (othersB q ne), fun none => ?_, ?_⟩
    · rw [r.kept none, positionB]
    · rw [← positionB]
      exact r.rings p
  refine ⟨fun x e => (lines x).trans (d.record x e), fun g e => (groups g).trans (d.floor g e),
    fun l ne => (lines l).trans (d.lines l ne), fun g ne => (groups g).trans (d.groups g ne),
    ⟨?_, fun q g ne => ?_, ?_, r.entry, fun none => ?_, ?_⟩, becomes, fun q => ?_, ?_, fun m hm => ?_, all⟩
  · rw [r.rings.slot, hb, setSlot_slot]
  · rw [r.rings.slot, hb, setSlot_slot_ne _ _ ne, slots]
  · rw [r.frame .termCount (by decide), hb, setSlot_termCount, slots, slot, d.frame .termCount (by decide)]
  · rw [r.kept none, entriesB]
  · exact fun q k ne => (r.entries q k ne).trans (entriesB q k)
  · rw [r.rings.linkUp, hb, setSlot_linkUp, position]
  · exact (d.raised.then set).trans r.raised (r.frame .clock (by decide))
  · rw [r.frame .offers (by decide), set .offers (by decide)] at hm
    exact d.offers m hm

end Sys2Proof.Machine
end

section
/-! PROOFS. Switch-away, the wrapping of a key's interpretation as a turret event or as KEY INJECT, and a line key that takes
an IDLE line into an empty or a filled slot. -/

namespace Sys2Proof.Machine

-- One theorem after another: side by side they hold the memory of too many stacks.
set_option Elab.async false

/-! ### Switch-away -/

theorem switchedLine_congr {s t : State} {p : PositionId} {h : Handset} {k : Key} {x : LineId}
    (line : t.line x = s.line x) (setting : (t.position p).switchAway = (s.position p).switchAway)
    (params : t.params = s.params) (clock : t.clock = s.clock) : t.switchedLine p h k x = s.switchedLine p h k x := by
  simp only [State.switchedLine, line, setting, params, clock]

theorem releasedFloor_congr {s t : State} {g : GroupId} (p : PositionId) (src : Path) (group : t.group g = s.group g)
    (clock : t.clock = s.clock) : t.releasedFloor g p src = s.releasedFloor g p src := by
  simp only [State.releasedFloor, group, clock]

theorem switchedLine_inQueues {s : State} {p : PositionId} {h : Handset} {k : Key} {x : LineId}
    (before : (s.line x).state.inQueues = false) : (s.switchedLine p h k x).state.inQueues = false := by
  unfold State.switchedLine
  dsimp only
  split
  · rfl
  · rfl
  · exact before

/-- A line with a party stands in no ring queue. -/
theorem Line.ok.not_inQueues {x : Line} (ok : x.ok) {y : Party} (hy : y ∈ x.parties) : x.state.inQueues = false := by
  rcases ok.in_call hy with e | e <;> rw [e] <;> rfl

/-- What switch-away does to the old content of a slot (R39). -/
theorem switchAway_disposed {v : State} {p : PositionId} {h : Handset} {old : Held}
    (seated : ∀ x, old.source = .line x → (v.line x).ok ∧
      ∃ y ∈ (v.line x).parties, y.position = p ∧ y.path = .handset h ∧ y.key = some old.key) :
    Disposed old (v.switchedLine p h old.key) (fun g => (v.releasedFloor g p (.handset h)).1) (v.switchedNotices p h old) v
      (v.switchAway p h (some old)) := by
  obtain ⟨source, k⟩ := old
  cases source with
  | group g => exact talkRelease_disposed v p h g k _
  | line x =>
    obtain ⟨ok, y, hy, rfl, path, key⟩ := seated x rfl
    have party := ok.party? hy
    rw [path] at party
    rw [switchAway_line party key]
    have d := moveLine_disposed k (v.switchedLine y.position h k) (fun g => (v.releasedFloor g y.position (.handset h)).1) rfl
      (ok.not_inQueues hy) (switchedLine_inQueues (ok.not_inQueues hy))
    have notices : v.switchedNotices y.position h ⟨.line x, k⟩ =
        stateNotices x (v.line x).state (v.switchedLine y.position h k x).state := by
      simp only [State.switchedNotices, stateNotices, eq_comm]
    rw [notices]
    exact d

/-- The binding report of a content that switch-away disposed of installs `State.freed` (R133, R134). -/
theorem freed_reported {v a : State} {p : PositionId} {h : Handset} {old : Held} {y : GroupId → Group}
    {bs : List NoticeBody} (d : Disposed old (v.switchedLine p h old.key) y bs v a) (sole : v.soleBinding p h old.key)
    (new : Option Held) (other : (v.entry p old.key).pendingContent ≠ none → ∀ x, new = some x → x.key ≠ old.key) :
    (if (a.setSlot p h new).bound p old.key then none else (v.entry p old.key).pendingContent) = v.freed p h old := by
  cases pending : (v.entry p old.key).pendingContent with
  | none => cases e : old.source <;> simp [State.freed, e, pending]
  | some c =>
    have waits : (v.entry p old.key).pendingContent ≠ none := by simp [pending]
    obtain ⟨slots, owners⟩ := sole waits
    have position (q : PositionId) : a.position q = v.position q := by
      rw [State.position, d.frame .positions (by decide)]
      rfl
    have bound : (a.setSlot p h new).bound p old.key = true ↔
        ∃ l, old.source = .line l ∧ (v.switchedLine p h old.key l).holdOwner = some ⟨p, old.key⟩ := by
      rw [bound_iff]
      constructor
      · rintro (⟨g, x, slot, key, -⟩ | ⟨l, owner⟩)
        · by_cases same : g = h
          · rw [same, setSlot_slot] at slot
            exact absurd key (other waits x slot)
          · rw [setSlot_slot_ne _ _ (by simp [same]), State.slot, position] at slot
            exact absurd key (slots g x same slot)
        · by_cases here : old.source = .line l
          · exact ⟨l, here, (congrArg Line.holdOwner (d.record l here)).symm.trans owner⟩
          · exact absurd ((congrArg Line.holdOwner (d.lines l here)).symm.trans owner) (owners l)
      · rintro ⟨l, here, owner⟩
        exact .inr ⟨l, (congrArg Line.holdOwner (d.record l here)).trans owner⟩
    cases source : old.source with
    | group g =>
      have unbound : ¬(a.setSlot p h new).bound p old.key = true := by
        rw [bound]
        rintro ⟨l, e, -⟩
        rw [source] at e
        cases e
      rw [if_neg unbound]
      simp only [State.freed, source, pending]
    | line x =>
      have held : (a.setSlot p h new).bound p old.key = true ↔
          (v.switchedLine p h old.key x).holdOwner = some ⟨p, old.key⟩ := by
        rw [bound]
        refine ⟨fun ⟨l, e, owner⟩ => ?_, fun owner => ⟨x, source, owner⟩⟩
        rw [source] at e
        cases e
        exact owner
      simp only [State.freed, source, pending, held]

/-! ### A key's interpretation as a command -/

/-- Two states that agree in everything but the offers, the links, the lamps and the ports. -/
theorem Ended.shape {w t : State} (e : Ended w t) :
    t = { w with offers := t.offers, links := t.links, lamps := t.lamps } := by
  have h (q : Part) (n : q ∉ [Part.offers, .links, .lamps]) : q.same w t := e.frame q n
  cases t
  simp only [State.mk.injEq, true_and]
  exact ⟨h .pending (by decide), h .clock (by decide), h .lines (by decide), h .positions (by decide),
    h .groups (by decide), h .speakers (by decide), h .quiet (by decide), h .quietPin (by decide), h .mntPin (by decide),
    h .termCount (by decide), h .lineClip (by decide), h .positionClip (by decide), h .directory (by decide),
    h .guards (by decide), h .staging (by decide), h .turretOut (by decide), h .highway (by decide),
    h .highwayOut (by decide), h .ports (by decide), h .params (by decide), h .notices (by decide)⟩

theorem exec_keyInject {s w : State} {c : Port} {p : PositionId} {kind code ch : Byte} {e : InjectEvent} {r : ResultCode}
    {out : Option ResultCode} (up : (s.position p).linkUp = true)
    (read : injectArg (s.position p).layout kind code ch 1 = some e) (run : s.inject p e = (w, r, out)) :
    exec (.keyInject c (byteOf p.val) kind code ch 1) s = .next (w.answer c r (outcomeData out)).finish := by
  show execKeyInject c _ _ _ _ _ s = _
  simp only [execKeyInject, positionArg_byteOf, read, up, run, if_true]

/-- State `t` is what a KEY INJECT at port `c` leaves: its interpretation changed the parts `ch` and left `w`, and was
answered `r`, `d`. -/
structure InjectEnd (c : Port) (r : ResultCode) (d : List Byte) (ch : List Part) (s w t : State) : Prop where
  ended : Ended (w.answer c r d) t
  answered : Answered c r d s t
  queues : OnlyLampQueues s t
  before : SameExcept (.ports :: ch) s (w.answer c r d)
  noOffers : s.offers = []

theorem inject_end {s w : State} {ch : List Part} (c : Port) (r : ResultCode) (d : List Byte) (noOffers : s.offers = [])
    (frame : SameExcept ch s w) (free : w.offers = [] ∨ ∀ l ∈ w.offers, w.noneWaits l)
    (links : Part.links ∉ ch := by decide) (ports : Part.ports ∉ ch := by decide) :
    InjectEnd c r d ch s w (w.answer c r d).finish := by
  have e : Ended (w.answer c r d) (w.answer c r d).finish := by
    refine finish_ended fun l hl => ?_
    rcases free with none | free
    · rw [show (w.answer c r d).offers = w.offers from rfl, none] at hl
      cases hl
    · exact noneWaits_of (fun _ => rfl) rfl (free l hl)
  exact ⟨e, e.answered (frame .ports ports) rfl, e.onlyLampQueues (frame .links links),
    (frame.mono fun q hq => List.mem_cons_of_mem _ hq).trans ((answer_frame w c r d).mono (by simp)), noOffers⟩

theorem InjectEnd.same {c : Port} {r : ResultCode} {d : List Byte} {ch ch' : List Part} {s w t : State}
    (e : InjectEnd c r d ch s w t) (sub : ∀ q ∈ Part.ports :: ch, q ∈ Part.offers :: ch' := by decide)
    (lit : Part.links ∈ ch' ∧ Part.lamps ∈ ch' := by decide) : SameExcept ch' s t :=
  e.ended.same e.before e.noOffers sub lit

/-! ### A line key that is taken -/

/-- A key reads the attributes of its entry, and joins by the event that it came in (R11, R39). -/
def Origin.joins : Origin → JoinedBy
  | .turret => .key
  | .inject => .inject

theorem handsetTake_is {s : State} {p : PositionId} {h : Handset} {k : Key} {l : LineId} {r b u : Bool}
    (content : (s.entry p k).content = .line l r b u) (o : Origin) : s.handsetTake p h k o =
      ⟨p, .handset h, some k, b, u, true, decide (s.hook p h = .off), o.joins⟩ := by
  cases o <;> simp only [State.handsetTake, content, Origin.joins]

theorem takeIntoSlot_taken {s : State} {p : PositionId} {h : Handset} {l : LineId} {k : Key} {o : Origin}
    (admitted : s.admits (slotCost (s.slot p h)) 3 = true)
    (judged : judgeTake (s.line l) (s.handsetTake p h k o) = .ok) : s.takeIntoSlot p h l k o =
      (((s.moveLine l ((s.line l).afterTake (s.startTimer .burst) (s.handsetTake p h k o))).replaceSlot p h (s.slot p h)
        ⟨.line l, k⟩).reportOwner (s.line l).pickedUpOwner, .ok) := by
  simp only [State.takeIntoSlot, admitted, Bool.not_true, Bool.false_eq_true, if_false, take_ok s judged]

/-- A key naming a line that the slot does not hold is a take into the slot (R38). -/
theorem pressKey_line {s : State} {p : PositionId} {h : Handset} {k : Key} {l : LineId} {r b u : Bool} (o : Origin)
    (content : (s.entry p k).content = .line l r b u) (selected : s.selected p = h)
    (apart : ∀ x, s.slot p h = some x → x.source ≠ .line l) :
    s.pressKey p k o = ((s.takeIntoSlot p h l k o).1, (s.takeIntoSlot p h l k o).2, none) := by
  have not_held : holdsSource (s.slot p h) (.line l) = false := by
    cases slot : s.slot p h with
    | none => rfl
    | some x => simpa [holdsSource] using apart x slot
  simp [State.pressKey, content, selected, not_held]

/-- The line `l` has been taken through key `k` in place of the content `old` of the slot: line `l` took the record `y` with
the notices `bs`, which left `v`, and then the slot changed. -/
structure TakenInPlace (p : PositionId) (h : Handset) (k : Key) (l : LineId) (old : Held) (y : Line) (bs : List NoticeBody)
    (s v w : State) : Prop where
  record : w.line l = y
  away : SwitchedAway p h old s w
  lines : ∀ l', l' ≠ l → old.source ≠ .line l' → w.line l' = s.line l'
  groups : ∀ g, old.source ≠ .group g → w.group g = s.group g
  changed : SlotChanged p h old (some ⟨.line l, k⟩) (s.freed p h old) s w
  raised : Raised (bs ++ s.switchedNotices p h old ++ installNotices p old.key (s.freed p h old)) s w
  linkUp : ∀ q, (w.position q).linkUp = (s.position q).linkUp
  offers : ∀ m ∈ w.offers, m ∈ v.offers ∨ old.source = .line m
  frame : SameExcept slotParts s w

theorem switchedNotices_congr {s t : State} {p : PositionId} {h : Handset} {old : Held}
    (line : ∀ x, old.source = .line x → t.line x = s.line x) (group : ∀ g, old.source = .group g → t.group g = s.group g)
    (setting : (t.position p).switchAway = (s.position p).switchAway) (params : t.params = s.params)
    (clock : t.clock = s.clock) : t.switchedNotices p h old = s.switchedNotices p h old := by
  unfold State.switchedNotices
  cases e : old.source with
  | line x => simp only [switchedLine_congr (line x e) setting params clock, line x e]
  | group g => exact congrArg Prod.snd (releasedFloor_congr p (.handset h) (group g e) clock)

theorem freed_congr {s t : State} {p : PositionId} {h : Handset} {old : Held}
    (line : ∀ x, old.source = .line x → t.line x = s.line x) (entry : t.entry p old.key = s.entry p old.key)
    (setting : (t.position p).switchAway = (s.position p).switchAway) (params : t.params = s.params)
    (clock : t.clock = s.clock) : t.freed p h old = s.freed p h old := by
  unfold State.freed
  cases e : old.source with
  | line x => simp only [switchedLine_congr (line x e) setting params clock, entry]
  | group g => simp only [entry]

/-- A take and the slot change after it, as one change (R34, R39). -/
theorem taken_in_place {s v : State} {p : PositionId} {h : Handset} {k : Key} {l : LineId} {old : Held} {y : Line}
    {bs : List NoticeBody} (m : MovedLine l y bs s v) (slot : s.slot p h = some old) (apart : old.source ≠ .line l)
    (disposable : s.disposable p h old) (sole : s.soleBinding p h old.key)
    (other : (s.entry p old.key).pendingContent ≠ none → old.key ≠ k) (owner : y.holdOwner = (s.line l).holdOwner) :
    TakenInPlace p h k l old y bs s v (v.replaceSlot p h (some old) ⟨.line l, k⟩) ∧
      (v.positions = s.positions → PositionBecomes p ((s.position p).setHandset h
        { (s.position p).handset h with slot := some ⟨.line l, k⟩ }) (s.freed p h old) s
          (v.replaceSlot p h (some old) ⟨.line l, k⟩)) := by
  have setting : (v.position p).switchAway = (s.position p).switchAway := by rw [m.rings p]
  have params : v.params = s.params := m.frame .params (by decide)
  have clock : v.clock = s.clock := m.frame .clock (by decide)
  have entry (q : PositionId) (k' : Key) : v.entry q k' = s.entry q k' := by
    rw [State.entry, m.frame .directory (by decide)]
    rfl
  have group (g : GroupId) : v.group g = s.group g := by
    rw [State.group, m.frame .groups (by decide)]
    rfl
  have line (x : LineId) (here : old.source = .line x) : v.line x = s.line x :=
    m.others x fun e => apart (by rw [here, e])
  have d := switchAway_disposed (v := v) (p := p) (h := h) (old := old) fun x here => by
    rw [line x here]
    exact ⟨(disposable x here).1, (disposable x here).2.2⟩
  have sole : v.soleBinding p h old.key := by
    intro waits
    rw [entry] at waits
    obtain ⟨slots, owners⟩ := sole waits
    refine ⟨fun g x ne hx => slots g x ne (by rwa [m.rings.slot] at hx), fun l' => ?_⟩
    by_cases same : l' = l
    · rw [same, m.line, owner]
      exact owners l
    · rw [m.others l' same]
      exact owners l'
  have r := d.moved (by rw [m.rings.slot]; exact slot) (some ⟨.line l, k⟩)
    (freed_reported d sole (some ⟨.line l, k⟩) fun waits x hx => by
      rw [entry] at waits
      cases hx
      exact fun e => other waits e.symm)
  have freed := freed_congr (h := h) line (entry p old.key) setting params clock
  have notices := switchedNotices_congr (h := h) line (fun g _ => group g) setting params clock
  obtain ⟨w, hw⟩ : ∃ w, w = ((v.switchAway p h (some old)).setSlot p h (some ⟨.line l, k⟩)).reportEnd p old.key := ⟨_, rfl⟩
  have is : v.replaceSlot p h (some old) ⟨.line l, k⟩ = w := hw.symm
  rw [← hw, freed, notices] at r
  rw [is]
  obtain ⟨newSlot, slots, count, installed, kept, entries⟩ := r.changed
  refine ⟨⟨(r.lines l apart).trans m.line, ⟨fun x here => ?_, fun g here => ?_⟩,
    fun l' ne away => (r.lines l' away).trans (m.others l' ne), fun g away => (r.groups g away).trans (group g),
    ⟨newSlot, fun q g ne => ?_, ?_, installed, fun none => (kept none).trans (entry p old.key),
      fun q k' ne => (entries q k' ne).trans (entry q k')⟩, ?_, fun q => ?_, fun a ha => ?_, ?_⟩, fun same => ?_⟩
  · exact (r.record x here).trans (switchedLine_congr (line x here) setting params clock)
  · exact (r.floor g here).trans (congrArg Prod.fst (releasedFloor_congr p (.handset h) (group g) clock))
  · exact (slots q g ne).trans (m.rings.slot q g)
  · rw [count, m.frame .termCount (by decide)]
  · have := m.raised.trans r.raised (r.frame .clock (by decide))
    rwa [← List.append_assoc] at this
  · exact (r.linkUp q).trans (m.rings.linkUp q)
  · exact r.offers a ha
  · exact (m.frame.mono (by decide)).trans r.frame
  · have position (q : PositionId) : v.position q = s.position q := by
      rw [State.position, same]
      rfl
    obtain ⟨others, whole, rings⟩ := r.position
    rw [position] at whole rings
    exact ⟨fun q ne => (others q ne).trans (position q), whole, rings⟩

end Sys2Proof.Machine
end

section
/-! PROOFS. A line key that takes an IDLE line, pressed or injected, into an empty or a filled slot. -/

namespace Sys2Proof.Machine

-- One theorem after another: side by side they hold the memory of too many stacks.
set_option Elab.async false

/-! ### Into an empty slot -/

/-- Line `l` has taken the record `y` with the notices `bs`, and then the empty slot `h` of `p` was filled with it. -/
structure TakenEmpty (p : PositionId) (h : Handset) (k : Key) (l : LineId) (y : Line) (bs : List NoticeBody)
    (s v w : State) : Prop where
  line : w.line l = y
  others : OtherLines l s w
  slot : w.slot p h = some ⟨.line l, k⟩
  slots : OtherSlots p h s w
  count : w.termCount = s.termCount + 3
  position : w.position p = (v.position p).setHandset h { (v.position p).handset h with slot := some ⟨.line l, k⟩ }
  positions : OtherPositions p v w
  linkUp : ∀ q, (w.position q).linkUp = (s.position q).linkUp
  rings : ∀ q, (w.position q).ringQueue = (v.position q).ringQueue
  raised : Raised bs s w
  offers : w.offers = v.offers
  frame : SameExcept [.lines, .positions, .notices, .offers, .termCount] s w

@[simp] theorem setHandset_ringQueue (x : Position) (h : Handset) (r : HandsetRecord) :
    (x.setHandset h r).ringQueue = x.ringQueue := by cases h <;> rfl

theorem taken_empty {s v : State} {p : PositionId} {h : Handset} (k : Key) {l : LineId} {y : Line} {bs : List NoticeBody}
    (m : MovedLine l y bs s v) (slot : s.slot p h = none) :
    TakenEmpty p h k l y bs s v (v.replaceSlot p h none ⟨.line l, k⟩) := by
  obtain ⟨position, others⟩ := setSlot_position v p h (some ⟨.line l, k⟩)
  have set := setSlot_frame v p h (some ⟨.line l, k⟩)
  show TakenEmpty p h k l y bs s v (v.setSlot p h (some ⟨.line l, k⟩))
  refine ⟨m.line, m.others, setSlot_slot v p h _, fun q g ne => ?_, ?_, position, others, fun q => ?_, fun q => ?_,
    m.raised.then set, rfl, m.frame.step (ch := [.lines, .positions, .notices, .offers, .termCount]) set⟩
  · rw [setSlot_slot_ne v _ ne, m.rings.slot]
  · rw [setSlot_termCount, m.rings.slot, slot, m.frame .termCount (by decide)]
    rfl
  · rw [setSlot_linkUp, m.rings.linkUp]
  · by_cases at_ : q = p
    · rw [at_, position, setHandset_ringQueue]
    · rw [others q at_]

theorem TakenEmpty.offered {p : PositionId} {h : Handset} {k : Key} {l : LineId} {y : Line} {bs : List NoticeBody}
    {s v w : State} (t : TakenEmpty p h k l y bs s v w) (offers : ∀ m ∈ v.offers, s.noneWaits m) :
    ∀ m ∈ w.offers, w.noneWaits m := by
  intro m hm
  rw [t.offers] at hm
  exact noneWaits_of t.linkUp (t.frame .speakers (by decide)) (offers m hm)

theorem admits_line {s : State} {old : Option Held} (room : slotCost old = 0 ∧ s.termCount + 3 ≤ 768 ∨
    slotCost old = 3 ∨ slotCost old = 2 ∧ s.termCount + 1 ≤ 768) : s.admits (slotCost old) 3 = true := by
  rcases room with ⟨cost, room⟩ | cost | ⟨cost, room⟩ <;> simp [State.admits, cost, Config.termBudget] <;> omega

/-! ### An IDLE line -/

section
variable {s : State} {p : PositionId} {h : Handset} {k : Key} {l : LineId} {r b u : Bool}
variable (content : (s.entry p k).content = .line l r b u) (idle : (s.line l).state = .idle) (ok : (s.line l).ok)

include content idle ok in
/-- A handset take of an IDLE line originates (R12). -/
theorem afterTake_idle (o : Origin) : (s.line l).afterTake (s.startTimer .burst) (s.handsetTake p h k o) =
    s.originated o.joins p h k l := by
  have shared := ok.no_privacy (by rw [idle]; rfl)
  rw [handsetTake_is content]
  by_cases out : (s.line l).ringdown = .auto ∧ (s.line l).signals.fl = false
  · simp [Line.afterTake, idle, ringsOut, Path.isHandset, out, State.originated, Take.party, shared, State.startTimer,
      State.dueIn, Config.periodsPerMs]
  · have quiet : ringsOut (s.line l) ⟨p, .handset h, some k, b, u, true, decide (s.hook p h = .off), o.joins⟩ = false := by
      simpa [ringsOut, Path.isHandset] using out
    simp [Line.afterTake, idle, quiet, out, State.originated, Take.party, shared]

omit content in
theorem originated_state (j : JoinedBy) : (s.originated j p h k l).state = .calling ∨ (s.originated j p h k l).state = .active := by
  unfold State.originated
  split
  · exact .inl rfl
  · exact .inr rfl

theorem originated_holdOwner (j : JoinedBy) : (s.originated j p h k l).holdOwner = (s.line l).holdOwner := by
  unfold State.originated
  split <;> rfl

include idle ok in
theorem originated_no_offer (j : JoinedBy) : offersAttach (s.line l) (s.originated j p h k l) = false := by
  have empty := ok.no_parties (by rw [idle]; rfl)
  have shared := ok.no_privacy (by rw [idle]; rfl)
  refine offersAttach_none ?_ ?_ (by simp [shared]) (by simp [empty]) (by simp [idle]) ?_
  · rcases originated_state (s := s) (p := p) (h := h) (k := k) (l := l) j with e | e <;> simp [e]
  · rcases originated_state (s := s) (p := p) (h := h) (k := k) (l := l) j with e | e <;> simp [e]
  · unfold State.originated
    split <;> exact id

include idle ok in
/-- The move of an IDLE line that is taken: the notice, no ring queue, and no opportunity (R6, R8). -/
theorem originated_moved (noOffers : s.offers = []) (j : JoinedBy) :
    MovedLine l (s.originated j p h k l) [.lineState l .idle (s.originated j p h k l).state] s
      (s.moveLine l (s.originated j p h k l)) ∧
    (s.moveLine l (s.originated j p h k l)).offers = [] ∧
    (s.moveLine l (s.originated j p h k l)).positions = s.positions := by
  have state := originated_state (s := s) (p := p) (h := h) (k := k) (l := l) j
  have m := (moveLine_moved s l (s.originated j p h k l)).state_ne (by rw [idle]; rcases state with e | e <;> simp [e])
  rw [idle] at m
  exact ⟨m, moveLine_no_offer noOffers (originated_no_offer idle ok j),
    moveLine_positions_calm (by rw [idle]; rfl) (by rcases state with e | e <;> rw [e] <;> rfl)⟩

include content idle ok in
/-- A key that takes an IDLE line is a slot change on the line's originated record. -/
theorem pressKey_idle (o : Origin) (selected : s.selected p = h) (apart : ∀ x, s.slot p h = some x → x.source ≠ .line l)
    (admitted : s.admits (slotCost (s.slot p h)) 3 = true) : s.pressKey p k o =
      ((s.moveLine l (s.originated o.joins p h k l)).replaceSlot p h (s.slot p h) ⟨.line l, k⟩, .ok, none) := by
  have judged : judgeTake (s.line l) (s.handsetTake p h k o) = .ok := by simp only [judgeTake, idle]
  have unheld : (s.line l).pickedUpOwner = none := by simp only [Line.pickedUpOwner, idle]
  rw [pressKey_line o content selected apart, takeIntoSlot_taken admitted judged, afterTake_idle content idle ok, unheld]
  rfl

end

/-- What the key leaves of an IDLE line in an empty slot, at the end of its event. -/
theorem originated_end {s w t : State} {j : JoinedBy} {p : PositionId} {h : Handset} {k : Key} {l : LineId}
    (taken : TakenEmpty p h k l (s.originated j p h k l) [.lineState l .idle (s.originated j p h k l).state] s
      (s.moveLine l (s.originated j p h k l)) w)
    (calm : (s.moveLine l (s.originated j p h k l)).positions = s.positions)
    (same : ∃ a b c d, t = { w with offers := a, links := b, lamps := c, ports := d }) : Originated j p h k l s t := by
  obtain ⟨a, b, c, d, rfl⟩ := same
  have line : w.line l = s.originated j p h k l := taken.line
  have position (q : PositionId) : (s.moveLine l (s.originated j p h k l)).position q = s.position q := by
    rw [State.position, calm]
    rfl
  refine ⟨line, taken.others, taken.slot, taken.slots, fun q ne => (taken.positions q ne).trans (position q), ?_, taken.count, ?_⟩
  · have := taken.position
    rw [position] at this
    exact this
  · have raised := taken.raised
    rw [← line] at raised
    exact raised

/-- The key event of a key that the layout shows. -/
theorem keyDown_shown {s : State} {p : PositionId} {k : Key} (shown : k.val < (s.position p).layout.keyCount) {w : State}
    {r : ResultCode} {out : Option ResultCode} (press : (s.takeDelivered p (.key k true)).pressKey p k .turret = (w, r, out)) :
    (fun u : State => if k.val < (u.position p).layout.keyCount then (u.pressKey p k .turret).1 else u)
      (s.takeDelivered p (.key k true)) = w := by
  dsimp only
  rw [takeDelivered_position, if_pos shown, press]

theorem injectArg_key {y : Layout} {k : Key} (shown : k.val < y.keyCount) (ch : Byte) :
    injectArg y 0 (byteOf k.val) ch 1 = some (.key k true) := by
  have zero : (0 : Byte).toNat = 0 := rfl
  have flag : flagArg 1 = some true := rfl
  simp only [injectArg, zero, flag, keyArg_byteOf, shown, if_true]

theorem Ended.shaped {w t : State} (e : Ended w t) : ∃ a b c d, t = { w with offers := a, links := b, lamps := c, ports := d } :=
  ⟨_, _, _, w.ports, e.shape⟩

theorem InjectEnd.shaped {c : Port} {r : ResultCode} {d : List Byte} {ch : List Part} {s w t : State}
    (e : InjectEnd c r d ch s w t) : ∃ a b c d, t = { w with offers := a, links := b, lamps := c, ports := d } :=
  ⟨_, _, _, (w.answer c r d).ports, e.ended.shape⟩

/-- What a key press that came in as an event or as KEY INJECT left at the end of its command. -/
theorem key_ends {s : State} {p : PositionId} {k : Key} {ch : List Part} (up : (s.position p).linkUp = true)
    (shown : k.val < (s.position p).layout.keyCount) (noOffers : s.offers = []) (links : Part.links ∉ ch := by decide)
    (ports : Part.ports ∉ ch := by decide) :
    (∀ w, (s.takeDelivered p (.key k true)).pressKey p k .turret = (w, .ok, none) →
      SameExcept ch (s.takeDelivered p (.key k true)) w → (w.offers = [] ∨ ∀ l ∈ w.offers, w.noneWaits l) →
      ∃ t, exec (.keyDown p k) s = .next t ∧ TurretEnd p ch s w t) ∧
    ∀ w, s.pressKey p k .inject = (w, .ok, none) → SameExcept ch s w → (w.offers = [] ∨ ∀ l ∈ w.offers, w.noneWaits l) →
      ∀ (c : Port) (cb : Byte), ∃ t, exec (.keyInject c (byteOf p.val) 0 (byteOf k.val) cb 1) s = .next t ∧
        InjectEnd c .ok [] ch s w t := by
  refine ⟨fun w press frame free => ?_, fun w press frame free c cb => ?_⟩
  · obtain ⟨run, e⟩ := turretEvent_end (i := .keyDown p k) up rfl (keyDown_shown shown press) noOffers frame free links
    exact ⟨_, run, e⟩
  · exact ⟨_, exec_keyInject up (injectArg_key shown cb) press, inject_end c .ok [] noOffers frame free links ports⟩

/-- The key that takes an IDLE line into an empty slot, at any base state. -/
theorem originates_empty {s : State} {p : PositionId} {k : Key} {l : LineId} {r b u : Bool} (o : Origin)
    (noOffers : s.offers = []) (content : (s.entry p k).content = .line l r b u) (slot : s.slot p (s.selected p) = none)
    (idle : (s.line l).state = .idle) (ok : (s.line l).ok) (room : s.termCount + 3 ≤ 768) :
    ∃ w, s.pressKey p k o = (w, .ok, none) ∧
      TakenEmpty p (s.selected p) k l (s.originated o.joins p (s.selected p) k l)
        [.lineState l .idle (s.originated o.joins p (s.selected p) k l).state] s
        (s.moveLine l (s.originated o.joins p (s.selected p) k l)) w ∧
      (s.moveLine l (s.originated o.joins p (s.selected p) k l)).positions = s.positions ∧
      ∀ m ∈ w.offers, w.noneWaits m := by
  have press := pressKey_idle content idle ok o rfl (by simp [slot]) (by rw [slot]; exact admits_line (.inl ⟨rfl, room⟩))
  rw [slot] at press
  obtain ⟨moved, none, calm⟩ := originated_moved (p := p) (h := s.selected p) (k := k) idle ok noOffers o.joins
  have taken := taken_empty k moved slot
  refine ⟨_, press, taken, calm, ?_⟩
  rw [taken.offers, none]
  simp

/-- The key that takes an IDLE line in place of the slot's old content, at any base state. -/
theorem originates_in_place {s : State} {p : PositionId} {h : Handset} {k : Key} {l : LineId} {r b u : Bool} {old : Held}
    (o : Origin) (noOffers : s.offers = []) (selected : s.selected p = h) (content : (s.entry p k).content = .line l r b u)
    (slot : s.slot p h = some old) (apart : old.source ≠ .line l) (idle : (s.line l).state = .idle) (ok : (s.line l).ok)
    (room : slotCost (some old) = 3 ∨ s.termCount + 1 ≤ 768) (disposable : s.disposable p h old)
    (sole : s.soleBinding p h old.key) (other : (s.entry p old.key).pendingContent ≠ none → old.key ≠ k) :
    ∃ w, s.pressKey p k o = (w, .ok, none) ∧
      TakenInPlace p h k l old (s.originated o.joins p h k l) [.lineState l .idle (s.originated o.joins p h k l).state] s
        (s.moveLine l (s.originated o.joins p h k l)) w ∧
      PositionBecomes p ((s.position p).setHandset h { (s.position p).handset h with slot := some ⟨.line l, k⟩ })
        (s.freed p h old) s w ∧
      ∀ m ∈ w.offers, w.noneWaits m := by
  have cost : slotCost (some old) = 3 ∨ slotCost (some old) = 2 := by
    obtain ⟨source, k'⟩ := old
    cases source <;> simp [slotCost]
  have press := pressKey_idle content idle ok o selected (by simpa [slot] using apart) (by
    rw [slot]
    refine admits_line (.inr ?_)
    rcases room with e | e
    · exact .inl e
    · exact cost.imp id fun c => ⟨c, e⟩)
  rw [slot] at press
  obtain ⟨moved, none, calm⟩ := originated_moved (p := p) (h := h) (k := k) idle ok noOffers o.joins
  obtain ⟨taken, becomes⟩ := taken_in_place (k := k) moved slot apart disposable sole other (originated_holdOwner _)
  refine ⟨_, press, taken, becomes calm, fun m hm => ?_⟩
  have free : s.noneWaits m := by
    rcases taken.offers m hm with e | e
    · rw [none] at e
      cases e
    · exact (disposable m e).2.1
  exact noneWaits_of taken.linkUp (taken.frame .speakers (by decide)) free

/-- What the key leaves of an IDLE line taken in place of `old`, at the end of its event. -/
theorem originated_in_place_end {s v w t : State} {j : JoinedBy} {p : PositionId} {h : Handset} {k : Key} {l : LineId}
    {old : Held} (taken : TakenInPlace p h k l old (s.originated j p h k l)
      [.lineState l .idle (s.originated j p h k l).state] s v w)
    (becomes : PositionBecomes p ((s.position p).setHandset h
      { (s.position p).handset h with slot := some ⟨.line l, k⟩ }) (s.freed p h old) s w)
    (same : ∃ a b c d, t = { w with offers := a, links := b, lamps := c, ports := d }) :
    OriginatedInPlace j p h k l old s t := by
  obtain ⟨a, b, c, d, rfl⟩ := same
  have raised := taken.raised
  rw [← taken.record] at raised
  exact ⟨taken.record, taken.away, taken.lines, taken.groups, taken.changed, becomes, raised⟩

/-- Settles O22: the take of an IDLE line, then the slot change, for the key event and for KEY INJECT. -/
theorem lineKeyOriginates : Obligations.LineKeyOriginates := by
  refine ⟨fun p k l r b u s noOffers up shown content slot idle ok room => ?_,
    fun p h k l r b u old s noOffers up shown selected content slot apart idle ok room disposable sole other => ?_⟩
  · obtain ⟨pressed, injected⟩ := key_ends (ch := [.lines, .positions, .notices, .offers, .termCount]) up shown noOffers
    constructor
    · obtain ⟨w, press, taken, calm, free⟩ := originates_empty (s := s.takeDelivered p (.key k true)) .turret noOffers
        content slot idle ok room
      obtain ⟨t, run, e⟩ := pressed w press taken.frame (.inr free)
      have left := originated_end taken calm e.ended.shaped
      exact ⟨t, run, left, e.delivered, e.same⟩
    · intro c ch
      obtain ⟨w, press, taken, calm, free⟩ := originates_empty .inject noOffers content slot idle ok room
      obtain ⟨t, run, e⟩ := injected w press taken.frame (.inr free) c ch
      exact ⟨t, run, originated_end taken calm e.shaped, e.answered, e.queues, e.same⟩
  · obtain ⟨pressed, injected⟩ := key_ends (ch := slotParts) up shown noOffers
    constructor
    · obtain ⟨w, press, taken, becomes, free⟩ := originates_in_place (s := s.takeDelivered p (.key k true)) .turret noOffers
        selected content slot apart idle ok room disposable sole other
      obtain ⟨t, run, e⟩ := pressed w press taken.frame (.inr free)
      have left := originated_in_place_end taken becomes e.ended.shaped
      exact ⟨t, run, left, e.delivered, e.same⟩
    · intro c ch
      obtain ⟨w, press, taken, becomes, free⟩ := originates_in_place .inject noOffers selected content slot apart idle ok
        room disposable sole other
      obtain ⟨t, run, e⟩ := injected w press taken.frame (.inr free) c ch
      exact ⟨t, run, originated_in_place_end taken becomes e.shaped, e.answered, e.queues, e.same⟩

end Sys2Proof.Machine
end

section
/-! PROOFS. A line key that joins a call, picks up a held line or rings the held line again; and the refusals of keys. -/

namespace Sys2Proof.Machine

-- One theorem after another: side by side they hold the memory of too many stacks.
set_option Elab.async false

/-! ### Joining a call -/

section
variable {s : State} {p : PositionId} {h : Handset} {k : Key} {l : LineId} {r b u : Bool}
variable (content : (s.entry p k).content = .line l r b u)

include content in
theorem judgeTake_joins (inCall : (s.line l).state = .calling ∨ (s.line l).state = .active)
    (fresh : (s.line l).party? p (.handset h) = none) (barge : (s.line l).barge = .openPolicy)
    (shared : (s.line l).privacy = false) (allowed : b = true) (room : (s.line l).parties.length < 8) (o : Origin) :
    judgeTake (s.line l) (s.handsetTake p h k o) = .ok := by
  have full : ¬8 ≤ (s.line l).parties.length := by omega
  have judged : judgeBarge (s.line l) (s.handsetTake p h k o) = .ok := by
    simp [judgeBarge, handsetTake_is content, fresh, barge, shared, allowed, Config.maxParties, full]
  rcases inCall with e | e <;> simp only [judgeTake, e, judged]

include content in
/-- A key that joins an OPEN call appends its party and fills the slot (R14, R39). -/
theorem pressKey_joins (inCall : (s.line l).state = .calling ∨ (s.line l).state = .active)
    (fresh : (s.line l).party? p (.handset h) = none) (barge : (s.line l).barge = .openPolicy)
    (shared : (s.line l).privacy = false) (allowed : b = true) (room : (s.line l).parties.length < 8)
    (selected : s.selected p = h) (slot : s.slot p h = none) (budget : s.termCount + 3 ≤ 768) (o : Origin) :
    s.pressKey p k o = (((s.setLine l { s.line l with parties := (s.line l).parties ++
      [⟨p, .handset h, some k, true, decide (s.hook p h = .off), o.joins⟩] }).replaceSlot p h none ⟨.line l, k⟩), .ok, none) := by
  have judged := judgeTake_joins content inCall fresh barge shared allowed room o
  have unheld : (s.line l).pickedUpOwner = none := by
    rcases inCall with e | e <;> simp only [Line.pickedUpOwner, e]
  have after : (s.line l).afterTake (s.startTimer .burst) (s.handsetTake p h k o) = { s.line l with
      parties := (s.line l).parties ++ [⟨p, .handset h, some k, true, decide (s.hook p h = .off), o.joins⟩] } := by
    rw [handsetTake_is content]
    rcases inCall with e | e <;> simp only [Line.afterTake, e, Take.party]
  have unoffered : offersAttach (s.line l) { s.line l with
      parties := (s.line l).parties ++ [⟨p, .handset h, some k, true, decide (s.hook p h = .off), o.joins⟩] } = false := by
    refine offersAttach_none ?_ ?_ id (fun e => ?_) (fun _ => ?_) id
    · rcases inCall with e | e <;> simp [e]
    · rcases inCall with e | e <;> simp [e]
    · simp only [List.length_append, List.length_cons, List.length_nil] at e
      omega
    · rcases inCall with e | e <;> simp [e]
  have quiet := fun state => moveLine_quiet s l _ state unoffered
  rw [pressKey_line o content selected (by simp [slot]),
    takeIntoSlot_taken (by rw [slot]; exact admits_line (.inl ⟨rfl, budget⟩)) judged, after, unheld, slot, quiet rfl]
  rfl

/-! ### Picking up -/

include content in
/-- A key that picks up a held line makes its party the one party; the end of the hold is reported, and nothing waits for
it (R8, R15, R134). -/
theorem pressKey_picks_up {o : KeyRef} (held : (s.line l).state = .held ∨ (s.line l).state = .recall)
    (owner : (s.line l).holdOwner = some o) (may : o.position = p ∨ ((s.line l).privateHold = false ∧ u = true))
    (pending : (s.entry o.position o.key).pendingContent = none) (ok : (s.line l).ok) (selected : s.selected p = h)
    (slot : s.slot p h = none) (budget : s.termCount + 3 ≤ 768) (j : Origin) :
    s.pressKey p k j = (((s.moveLine l { s.line l with
      state := .active, parties := [⟨p, .handset h, some k, true, decide (s.hook p h = .off), j.joins⟩]
      holdOwner := none, privateHold := false, timer := none }).replaceSlot p h none ⟨.line l, k⟩), .ok, none) := by
  have judged : judgeTake (s.line l) (s.handsetTake p h k j) = .ok := by
    have picked : judgePickup (s.line l) (s.handsetTake p h k j) = .ok := by
      rcases may with rfl | ⟨open_, allowed⟩
      · simp [judgePickup, handsetTake_is content, Path.isHandset, Line.heldBy, owner]
      · simp [judgePickup, handsetTake_is content, Path.isHandset, open_, allowed]
    rcases held with e | e <;> simp only [judgeTake, e, picked]
  have picked : (s.line l).pickedUpOwner = some o := by
    rcases held with e | e <;> simp only [Line.pickedUpOwner, e, owner]
  have shared := ok.no_privacy (by rcases held with e | e <;> rw [e] <;> rfl)
  have after : (s.line l).afterTake (s.startTimer .burst) (s.handsetTake p h k j) = { s.line l with
      state := .active, parties := [⟨p, .handset h, some k, true, decide (s.hook p h = .off), j.joins⟩]
      holdOwner := none, privateHold := false, timer := none } := by
    rw [handsetTake_is content]
    rcases held with e | e <;> simp [Line.afterTake, e, Take.party, shared]
  rw [pressKey_line j content selected (by simp [slot]),
    takeIntoSlot_taken (by rw [slot]; exact admits_line (.inl ⟨rfl, budget⟩)) judged, after, picked, slot]
  have reported (v : State) (frame : v.directory = s.directory) : v.reportOwner (some o) = v := by
    have entry : (v.entry o.position o.key).pendingContent = none := by
      rw [State.entry, frame]
      exact pending
    show v.reportEnd o.position o.key = v
    exact (reportEnd_reported v o.position o.key).kept (by rw [entry]; split <;> rfl)
  rw [reported]
  exact moveLine_frame s l _ .directory (by decide)

/-! ### Ringing the held line again -/

/-- The record of a line that its own party rings again (R18). -/
def Line.rungAgain (timer : Option LineTimer) (x : Line) : Line :=
  if x.state = .calling then { x with burstCount := 1, rg := true, unanswered := false, timer := timer }
  else if x.ringdown = .auto then { x with rg := true, timer := timer }
  else x

/-- A key naming the line that the handset holds rings it again and changes that record alone (R18, R38). -/
theorem pressKey_again {k' : Key} {y : Party} (content : (s.entry p k).content = .line l r b u) (ok : (s.line l).ok)
    (selected : s.selected p = h) (slot : s.slot p h = some ⟨.line l, k'⟩)
    (party : (s.line l).party? p (.handset h) = some y) (o : Origin) :
    (s.pressKey p k o).1 = s.setLine l ((s.line l).rungAgain (s.startTimer .burst)) := by
  have press : (s.pressKey p k o).1 = (s.reRing l p h).1 := by
    simp [State.pressKey, content, selected, slot, holdsSource]
  have inCall := ok.in_call (Line.of_party? party).1
  have quiet (x : Line) (state : x.state = (s.line l).state) (parties : x.parties = (s.line l).parties)
      (privacy : x.privacy = (s.line l).privacy) (barge : x.barge = (s.line l).barge) : s.moveLine l x = s.setLine l x :=
    moveLine_timed state parties privacy barge inCall
  rw [press]
  rcases inCall with e | e
  · simp only [State.reRing, party, e, Line.rungAgain, if_true]
    exact quiet _ e.symm rfl rfl rfl
  · cases auto : (s.line l).ringdown with
    | auto =>
      simp only [State.reRing, party, e, auto, Line.rungAgain]
      exact quiet _ e.symm rfl rfl rfl
    | none =>
      simp [State.reRing, party, e, auto, Line.rungAgain]

end

/-- What the key leaves of a line taken into an empty slot, at the end of its event. -/
theorem taken_empty_end {s v w t : State} {p : PositionId} {h : Handset} {k : Key} {l : LineId} {y : Line}
    {bs : List NoticeBody} (taken : TakenEmpty p h k l y bs s v w)
    (same : ∃ a b c d, t = { w with offers := a, links := b, lamps := c, ports := d }) :
    t.line l = y ∧ OtherLines l s t ∧ t.slot p h = some ⟨.line l, k⟩ ∧ OtherSlots p h s t ∧
      t.termCount = s.termCount + 3 ∧ Raised bs s t := by
  obtain ⟨a, b, c, d, rfl⟩ := same
  exact ⟨taken.line, taken.others, taken.slot, taken.slots, taken.count, taken.raised⟩

/-- Settles O23: joining and picking up are takes into the empty slot, and the held line is rung again. -/
theorem lineKeyJoins : Obligations.LineKeyJoins := by
  intro p h k l r b u x s noOffers up shown selected content ok hx
  refine ⟨fun slot budget inCall fresh barge shared allowed room => ?_, fun o slot budget held owner may pending free => ?_,
    fun k' y slot party => ?_⟩
  · have press := pressKey_joins (s := s.takeDelivered p (.key k true)) content inCall fresh barge shared allowed room selected
      slot budget .turret
    have m := setLine_moved (s.takeDelivered p (.key k true)) l { s.line l with parties := (s.line l).parties ++ [x] }
    have taken := taken_empty (p := p) (h := h) k m slot
    have written : SameExcept [.lines, .positions, .termCount] (s.takeDelivered p (.key k true))
        (((s.takeDelivered p (.key k true)).setLine l { s.line l with
          parties := (s.line l).parties ++ [x] }).replaceSlot p h none ⟨.line l, k⟩) :=
      (setLine_frame _ l _).step (setSlot_frame _ p h _)
    subst hx
    obtain ⟨pressed, -⟩ := key_ends (ch := [.lines, .positions, .termCount]) up shown noOffers
    obtain ⟨t, run, e⟩ := pressed _ press written (.inl ((written .offers (by decide)).trans noOffers))
    obtain ⟨line, others, newSlot, slots, count, raised⟩ := taken_empty_end taken e.ended.shaped
    exact ⟨t, run, line, others, newSlot, slots, fun q ne => (e.ended.position q).trans (taken.positions q ne), count, raised,
      e.delivered, e.same⟩
  · have press := pressKey_picks_up (s := s.takeDelivered p (.key k true)) content held owner may pending ok selected slot
      budget .turret
    subst hx
    obtain ⟨record, hrecord⟩ : ∃ z : Line, z = { s.line l with
        state := .active, parties := [⟨p, .handset h, some k, true, decide (s.hook p h = .off), .key⟩]
        holdOwner := none, privateHold := false, timer := none } := ⟨_, rfl⟩
    have active : record.state = .active := by rw [hrecord]
    have m := (moveLine_moved (s.takeDelivered p (.key k true)) l record).state_ne (by
      rw [active, takeDelivered_line]
      rcases held with e | e <;> simp [e])
    rw [takeDelivered_line, active] at m
    have taken := taken_empty (p := p) (h := h) k m slot
    have offered := taken.offered fun a ha => by
      rcases m.offers a ha with e | rfl
      · rw [takeDelivered_offers, noOffers] at e
        cases e
      · exact free
    obtain ⟨pressed, -⟩ := key_ends (ch := [.lines, .positions, .notices, .offers, .termCount]) up shown noOffers
    rw [hrecord] at taken offered
    obtain ⟨t, run, e⟩ := pressed _ press taken.frame (.inr offered)
    obtain ⟨line, others, newSlot, slots, count, raised⟩ := taken_empty_end taken e.ended.shaped
    refine ⟨t, run, line, others, newSlot, slots, fun recalled q => ?_, count, raised, e.delivered, e.same⟩
    have left := moveLine_unqueued (s := s.takeDelivered p (.key k true)) (x := record) (.inr ⟨recalled, rfl⟩)
      (by rw [active]; rfl) q
    rw [hrecord] at left
    have rings : (t.position q).ringQueue = _ := (congrArg Position.ringQueue (e.ended.position q)).trans (taken.rings q)
    rintro ⟨a, ha, rest⟩
    rw [rings] at ha
    exact left ⟨a, ha, rest⟩
  · have press := pressKey_again (s := s.takeDelivered p (.key k true)) content ok selected slot party .turret
    have act := keyDown_shown shown (w := ((s.takeDelivered p (.key k true)).pressKey p k .turret).1)
      (r := ((s.takeDelivered p (.key k true)).pressKey p k .turret).2.1) rfl
    rw [press] at act
    obtain ⟨run, e⟩ := turretEvent_end (i := .keyDown p k) up rfl act noOffers (setLine_frame _ l _) (.inl noOffers)
    have line := (e.ended.line l).trans (State.setLine_line _ l _)
    refine ⟨_, run, fun calling => ?_, fun active auto => ?_, fun active silent => ?_,
      fun m ne => (e.ended.line m).trans (State.setLine_line_ne _ _ ne), e.delivered, e.same⟩
    · rw [line, takeDelivered_line, Line.rungAgain, if_pos calling]
      rfl
    · rw [line, takeDelivered_line, Line.rungAgain, if_neg (by simp [active]), if_pos auto]
      rfl
    · rw [line, takeDelivered_line, Line.rungAgain, if_neg (by simp [active]), if_neg (by simp [silent])]

end Sys2Proof.Machine
end

section
/-! PROOFS. The refusals of keys, and a group key that takes its group into the slot and asks for the floor. -/

namespace Sys2Proof.Machine

-- One theorem after another: side by side they hold the memory of too many stacks.
set_option Elab.async false

/-! ### Refused line keys -/

section
variable {s : State} {p : PositionId} {h : Handset} {k : Key} {l : LineId} {g : GroupId} {r b u : Bool}

theorem takeIntoSlot_refused {reason : ResultCode} (o : Origin)
    (refused : s.admits (slotCost (s.slot p h)) 3 = false ∧ reason = .mixFull ∨
      s.admits (slotCost (s.slot p h)) 3 = true ∧ judgeTake (s.line l) (s.handsetTake p h k o) = reason ∧ reason ≠ .ok) :
    s.takeIntoSlot p h l k o = (s.denyKey p (some (keyLamp k)) reason o, reason) := by
  unfold State.takeIntoSlot
  dsimp only
  rcases refused with ⟨full, rfl⟩ | ⟨admitted, rfl, ne⟩
  · simp [full]
  · rw [take_refused s ne, if_neg (by simp [admitted])]
    split
    · next e => exact absurd (congrArg Prod.snd e) ne
    · next e => obtain ⟨-, rfl⟩ := Prod.mk.inj e; rfl

/-- A refused line key is denied on its own lamp (R39, R53). -/
theorem pressKey_line_refused {reason : ResultCode} (o : Origin) (content : (s.entry p k).content = .line l r b u)
    (selected : s.selected p = h) (apart : ∀ x, s.slot p h = some x → x.source ≠ .line l)
    (refused : s.admits (slotCost (s.slot p h)) 3 = false ∧ reason = .mixFull ∨
      s.admits (slotCost (s.slot p h)) 3 = true ∧ judgeTake (s.line l) (s.handsetTake p h k o) = reason ∧ reason ≠ .ok) :
    s.pressKey p k o = (s.denyKey p (some (keyLamp k)) reason o, reason, none) := by
  rw [pressKey_line o content selected apart, takeIntoSlot_refused o refused]

theorem admits_within {old : Option Held} (room : s.termCount + 3 ≤ 768) : s.admits (slotCost old) 3 = true := by
  have : s.termCount + (3 - slotCost old) ≤ 768 := by omega
  simp [State.admits, Config.termBudget, this]

theorem admits_beyond {old : Option Held} (full : 768 < s.termCount + (3 - slotCost old)) (cost : slotCost old < 3) :
    s.admits (slotCost old) 3 = false := by
  have beyond : ¬s.termCount + (3 - slotCost old) ≤ 768 := by omega
  simp [State.admits, Config.termBudget, beyond, cost]

/-- The barge conditions as refusals of a handset that is no party, in their order (R14). -/
theorem judgeBarge_refuses {x : Line} {t : Take} {reason : ResultCode} (fresh : x.party? t.position t.path = none)
    (handset : t.path.isHandset = true)
    (refused : (x.barge = .closed ∧ reason = .deniedClosed) ∨
      (x.barge = .openPolicy ∧ x.privacy = true ∧ reason = .deniedPrivate) ∨
      (x.barge = .openPolicy ∧ x.privacy = false ∧ t.bargeAllowed = false ∧ reason = .noBarge) ∨
      (x.barge = .openPolicy ∧ x.privacy = false ∧ t.bargeAllowed = true ∧ 8 ≤ x.parties.length ∧ reason = .lineFull)) :
    judgeBarge x t = reason ∧ reason ≠ .ok := by
  rcases refused with ⟨a, rfl⟩ | ⟨a, b, rfl⟩ | ⟨a, b, c, rfl⟩ | ⟨a, b, c, d, rfl⟩
  · simp [judgeBarge, fresh, a]
  · simp [judgeBarge, fresh, a, b]
  · simp [judgeBarge, fresh, a, b, c, handset]
  · simp [judgeBarge, fresh, a, b, c, d, handset, Config.maxParties]

/-- The pickup conditions as refusals of a handset of another position, in their order (R15). -/
theorem judgePickup_refuses {x : Line} {t : Take} {reason : ResultCode} (handset : t.path.isHandset = true) {o : KeyRef}
    (owner : x.holdOwner = some o) (other : o.position ≠ t.position)
    (refused : (x.privateHold = true ∧ reason = .heldPrivate) ∨
      (x.privateHold = false ∧ t.pickupAllowed = false ∧ reason = .noPickup)) :
    judgePickup x t = reason ∧ reason ≠ .ok := by
  have unheld : x.heldBy t.position = false := by simp [Line.heldBy, owner, other]
  rcases refused with ⟨a, rfl⟩ | ⟨a, b, rfl⟩
  · simp [judgePickup, handset, unheld, a]
  · simp [judgePickup, handset, unheld, a, b]

/-! ### Group keys -/

/-- The talk request of a group key and its refusal on the key's lamp (R40, R53). -/
def State.asked (v : State) (p : PositionId) (h : Handset) (k : Key) (g : GroupId) (o : Origin) : State :=
  if (v.talkRequest g p (.handset h)).2 = .floorFull then
    (v.talkRequest g p (.handset h)).1.denyKey p (some (keyLamp k)) .floorFull o
  else (v.talkRequest g p (.handset h)).1

/-- A group key by the checks of R40, in their order. -/
theorem pressKey_group (o : Origin) (content : (s.entry p k).content = .group g) (selected : s.selected p = h)
    (apart : ∀ x, s.slot p h = some x → x.source ≠ .group g) :
    ((s.group g).defined = false → (s.pressKey p k o).1 = s.denyKey p (some (keyLamp k)) .notDefined o) ∧
    ((s.group g).defined = true → (s.group g).member? p = none →
      (s.pressKey p k o).1 = s.denyKey p (some (keyLamp k)) .notMember o) ∧
    ((s.group g).defined = true → (s.group g).member? p ≠ none → s.admits (slotCost (s.slot p h)) 2 = false →
      (s.pressKey p k o).1 = s.denyKey p (some (keyLamp k)) .mixFull o) ∧
    ((s.group g).defined = true → (s.group g).member? p ≠ none → s.admits (slotCost (s.slot p h)) 2 = true →
      (s.pressKey p k o).1 = (s.replaceSlot p h (s.slot p h) ⟨.group g, k⟩).asked p h k g o) := by
  have not_held : holdsSource (s.slot p h) (.group g) = false := by
    cases slot : s.slot p h with
    | none => rfl
    | some x => simpa [holdsSource] using apart x slot
  have press : s.pressKey p k o = s.groupKey p h g k o := by simp only [State.pressKey, content, selected]
  rw [press]
  refine ⟨fun undefined => ?_, fun defined stranger => ?_, fun defined member full => ?_, fun defined member admitted => ?_⟩
  · simp [State.groupKey, not_held, undefined]
  · simp [State.groupKey, not_held, defined, stranger]
  · have member : ((s.group g).member? p).isNone = false := by
      cases e : (s.group g).member? p with
      | none => exact absurd e member
      | some m => rfl
    simp [State.groupKey, not_held, defined, member, full]
  · have member : ((s.group g).member? p).isNone = false := by
      cases e : (s.group g).member? p with
      | none => exact absurd e member
      | some m => rfl
    simp only [State.groupKey, not_held, defined, member, admitted, Bool.not_true, Bool.false_eq_true, if_false, State.asked]
    split
    · next w e => simp only [e, if_true]
    · next w out other e =>
      rw [e, if_neg other]

end

/-! ### Denials -/

theorem keyDown_act {s : State} {p : PositionId} {k : Key} (shown : k.val < (s.position p).layout.keyCount) {w : State}
    (press : ((s.takeDelivered p (.key k true)).pressKey p k .turret).1 = w) :
    (fun u : State => if k.val < (u.position p).layout.keyCount then (u.pressKey p k .turret).1 else u)
      (s.takeDelivered p (.key k true)) = w := by
  dsimp only
  rw [takeDelivered_position, if_pos shown, press]

/-- A key that is denied on its own lamp. -/
theorem key_denied {s : State} {p : PositionId} {k : Key} {reason : ResultCode} (up : (s.position p).linkUp = true)
    (noOffers : s.offers = []) (shown : k.val < (s.position p).layout.keyCount)
    (press : ((s.takeDelivered p (.key k true)).pressKey p k .turret).1 =
      (s.takeDelivered p (.key k true)).denyKey p (some (keyLamp k)) reason .turret) :
    ∃ t, exec (.keyDown p k) s = .next t ∧ Denied p (keyLamp k) reason s t ∧ t.shownCode p (keyLamp k) = .deny ∧
      OnlyDelivered p s t ∧ SameExcept [.positions, .notices, .links, .lamps] s t := by
  obtain ⟨t, run, raised, position, others, code, delivered, frame⟩ :=
    turret_denied (i := .keyDown p k) up noOffers rfl (keyDown_act shown press)
  exact ⟨t, run, ⟨raised, position, others⟩, code, delivered, frame⟩

/-- Settles O25: the first refusal that applies is the one denied, and a key that is not shown is ignored. -/
theorem keysDenied : Obligations.KeysDenied := by
  refine ⟨fun p k s noOffers up => ⟨fun shown empty => ?_, fun hidden => ?_⟩,
    fun p k l r b u s noOffers up shown content apart reason refused => ?_,
    fun p k g s noOffers up shown content apart reason refused => ?_⟩
  · refine key_denied up noOffers shown ?_
    simp [State.pressKey, empty]
  · have hidden : ¬k.val < (s.position p).layout.keyCount := by omega
    obtain ⟨t, run, -, delivered, frame⟩ := turret_ignored (i := .keyDown p k) up noOffers rfl
      (by rw [takeDelivered_position, if_neg hidden])
    exact ⟨t, run, delivered, frame⟩
  · refine key_denied up noOffers shown (congrArg Prod.fst
      (pressKey_line_refused (s := s.takeDelivered p (.key k true)) (h := s.selected p) .turret content rfl apart ?_))
    have take := handsetTake_is (s := s) (p := p) (h := s.selected p) content .turret
    rcases refused with ⟨full, cost, rfl⟩ | ⟨room, refused⟩
    · exact .inl ⟨admits_beyond full cost, rfl⟩
    · refine .inr ⟨admits_within room, ?_⟩
      show judgeTake (s.line l) (s.handsetTake p (s.selected p) k .turret) = reason ∧ reason ≠ .ok
      rw [take]
      rcases refused with ⟨e, rfl⟩ | ⟨e, rfl⟩ | ⟨e, rfl⟩ | ⟨inCall, fresh, barge⟩ | ⟨held, ⟨o, owner, other⟩, pickup⟩
      · exact ⟨by simp only [judgeTake, e], by decide⟩
      · exact ⟨by simp only [judgeTake, e], by decide⟩
      · exact ⟨by simp only [judgeTake, e], by decide⟩
      · have judged := judgeBarge_refuses (t := ⟨p, .handset (s.selected p), some k, b, u, true,
          decide (s.hook p (s.selected p) = .off), Origin.turret.joins⟩) fresh rfl barge
        rcases inCall with e | e <;> simpa only [judgeTake, e] using judged
      · have judged := judgePickup_refuses (t := ⟨p, .handset (s.selected p), some k, b, u, true,
          decide (s.hook p (s.selected p) = .off), Origin.turret.joins⟩) rfl owner other pickup
        rcases held with e | e <;> simpa only [judgeTake, e] using judged
  · obtain ⟨undefined, stranger, full, -⟩ := pressKey_group (s := s.takeDelivered p (.key k true)) (h := s.selected p) .turret
      content rfl apart
    refine key_denied up noOffers shown ?_
    rcases refused with ⟨e, rfl⟩ | ⟨e, none, rfl⟩ | ⟨e, member, slot, beyond, rfl⟩
    · exact undefined e
    · exact stranger e none
    · refine full e member ?_
      rw [takeDelivered_slot, slot]
      have : ¬s.termCount + 2 ≤ 768 := by omega
      simp [State.admits, slotCost, Config.termBudget, this]

end Sys2Proof.Machine
end

section
/-! PROOFS. A group key that takes its group into the slot and asks for the floor. -/

namespace Sys2Proof.Machine

-- One theorem after another: side by side they hold the memory of too many stacks.
set_option Elab.async false

/-! ### The talk request of a key -/

theorem talkRequest_entered {s : State} {g : GroupId} {p : PositionId} {m : Member} (src : Path)
    (defined : (s.group g).defined = true) (member : (s.group g).member? p = some m)
    (entered : (s.group g).talker? p ≠ none ∨ (s.group g).waiter? p ≠ none) : s.talkRequest g p src = (s, .noChange) := by
  have entered : ((s.group g).talker? p).isSome = true ∨ ((s.group g).waiter? p).isSome = true :=
    entered.imp Option.isSome_iff_ne_none.2 Option.isSome_iff_ne_none.2
  simp [State.talkRequest, defined, member, entered]

theorem talkRequest_others (s : State) (g : GroupId) (p : PositionId) (src : Path) :
    OtherGroups g s (s.talkRequest g p src).1 := by
  intro g' ne
  unfold State.talkRequest
  dsimp only
  split
  · rfl
  · split
    · rfl
    · split
      · rfl
      · split
        · exact (grant_leaves s g p src false).2.1 g' ne
        · split
          · exact State.setGroup_group_ne s _ ne
          · rfl

/-- What the talk request of a group key can change. -/
structure FloorKey (p : PositionId) (g : GroupId) (v w : State) : Prop where
  frame : SameExcept [.groups, .positions, .notices] v w
  others : OtherGroups g v w
  slots : ∀ q x, w.slot q x = v.slot q x
  positions : OtherPositions p v w
  linkUp : ∀ q, (w.position q).linkUp = (v.position q).linkUp

theorem asked_leaves (v : State) (p : PositionId) (h : Handset) (k : Key) (g : GroupId) (o : Origin) :
    FloorKey p g v (v.asked p h k g o) := by
  have frame := talkRequest_frame v g p (.handset h)
  have others := talkRequest_others v g p (.handset h)
  unfold State.asked
  generalize (v.talkRequest g p (.handset h)).1 = w at frame others ⊢
  have position (q : PositionId) : w.position q = v.position q := by
    rw [State.position, frame .positions (by decide)]
    rfl
  split
  · obtain ⟨-, at_, positions, denied⟩ := denyKey_leaves w p (keyLamp k) .floorFull o
    have rest (q : PositionId) : ((w.denyKey p (some (keyLamp k)) .floorFull o).position q).h0 = (w.position q).h0 ∧
        ((w.denyKey p (some (keyLamp k)) .floorFull o).position q).h1 = (w.position q).h1 ∧
        ((w.denyKey p (some (keyLamp k)) .floorFull o).position q).linkUp = (w.position q).linkUp := by
      by_cases e : q = p
      · rw [e, at_]
        exact ⟨rfl, rfl, rfl⟩
      · rw [positions q e]
        exact ⟨rfl, rfl, rfl⟩
    refine ⟨frame.step (ch := [.groups, .positions, .notices]) denied, fun g' ne => ?_, fun q x => ?_,
      fun q ne => (positions q ne).trans (position q), fun q => ?_⟩
    · exact others g' ne
    · obtain ⟨h0, h1, -⟩ := rest q
      rw [← show w.slot q x = v.slot q x by rw [State.slot, position]; rfl]
      cases x
      · exact congrArg HandsetRecord.slot h0
      · exact congrArg HandsetRecord.slot h1
    · rw [(rest q).2.2, position]
  · exact ⟨frame.mono, others, fun q x => by rw [State.slot, position]; rfl, fun q _ => position q, fun q => by rw [position]⟩

/-- What the talk request of a group key does to its group, by what it finds there (R82, R83). -/
theorem asked_floor {s v : State} {p : PositionId} {h : Handset} (k : Key) {g : GroupId} {m : Member} {bs : List NoticeBody}
    (group : v.group g = s.group g) (clock : v.clock = s.clock) (defined : (s.group g).defined = true)
    (member : (s.group g).member? p = some m) (raised : Raised bs s v) :
    FloorAsked p h k g m.cls bs s (v.asked p h k g .turret) := by
  refine ⟨fun entered => ?_, fun silent absent => ?_⟩
  · have request := talkRequest_entered (s := v) (.handset h) (by rw [group, defined]) (by rw [group, member])
      (by rw [group]; exact entered)
    have is : v.asked p h k g .turret = v := by
      unfold State.asked
      rw [request, if_neg (by simp)]
    rw [is]
    exact ⟨group, raised⟩
  · have found := talkRequest_fresh (s := v) (.handset h) (by rw [group, defined]) (by rw [group, member])
      (by rw [group, silent]) (by rw [group, absent])
    rw [group] at found
    unfold State.asked
    rcases found with ⟨free, empty, request⟩ | ⟨full, room, request⟩ | ⟨full, crowded, request⟩
    · obtain ⟨record, -, granted⟩ := grant_leaves v g p (.handset h) false
      rw [group, clock] at record
      rw [request, if_neg (by simp)]
      refine ⟨fun _ _ => ⟨record, raised.trans granted (grant_frame v g p _ _ .clock (by decide))⟩,
        fun a _ => absurd free (by omega), fun a _ => absurd free (by omega)⟩
    · rw [request, if_neg (by simp)]
      refine ⟨fun a b => absurd ⟨a, b⟩ full, fun _ _ => ?_, fun _ a => by omega⟩
      dsimp only
      rw [State.setGroup_group]
      exact ⟨rfl, mem_insertByClass.2 (.inl rfl), (insertByClass_perm _ _ _).length_eq,
        raised.then (setGroup_frame v g _)⟩
    · obtain ⟨told, at_, -, frame⟩ := denyKey_leaves v p (keyLamp k) .floorFull .turret
      rw [request, if_pos rfl]
      refine ⟨fun a b => absurd ⟨a, b⟩ full, fun _ a => by omega,
        fun _ _ => ⟨group, shownCode_deny (due := v.clock + 8000) ?_, raised.trans told (frame .clock (by decide))⟩⟩
      rw [at_]
      exact Table.get_set_self _ _ _

/-- Switch-away of a content and the slot's change to another, as one change (R34, R39, R40). -/
theorem replaced_moved {s : State} {p : PositionId} {h : Handset} {old new : Held} (slot : s.slot p h = some old)
    (disposable : s.disposable p h old) (sole : s.soleBinding p h old.key)
    (other : (s.entry p old.key).pendingContent ≠ none → old.key ≠ new.key) :
    SlotMoved p h old (some new) (s.switchedLine p h old.key) (fun g => (s.releasedFloor g p (.handset h)).1)
      (s.switchedNotices p h old) (s.freed p h old) s (s.replaceSlot p h (some old) new) := by
  have d := switchAway_disposed (v := s) (p := p) (h := h) (old := old) fun x here =>
    ⟨(disposable x here).1, (disposable x here).2.2⟩
  refine d.moved slot (some new) (freed_reported d sole (some new) fun waits x hx => ?_)
  cases hx
  exact fun e => other waits e.symm

/-- Settles O24: the slot change, and then the talk request on the group as it was. -/
theorem groupKeyTaken : Obligations.GroupKeyTaken := by
  intro p h k g m s noOffers up shown selected content
  refine ⟨fun slot budget defined member => ?_, fun old slot apart defined member disposable sole other => ?_, fun k' slot => ?_⟩
  · obtain ⟨u, hu⟩ : ∃ u, u = s.takeDelivered p (.key k true) := ⟨_, rfl⟩
    have press := (pressKey_group (s := s.takeDelivered p (.key k true)) (h := h) .turret content selected
      (by rw [takeDelivered_slot, slot]; simp)).2.2.2 defined (by rw [takeDelivered_group, member]; simp)
      (by rw [takeDelivered_slot, slot]; simp [State.admits, slotCost, Config.termBudget, budget])
    rw [takeDelivered_slot, slot, ← hu] at press
    obtain ⟨v, hv⟩ : ∃ v, v = u.setSlot p h (some ⟨.group g, k⟩) := ⟨_, rfl⟩
    have set : SameExcept [.positions, .termCount] u v := hv ▸ setSlot_frame u p h _
    have is : (u.pressKey p k .turret).1 = v.asked p h k g .turret := by rw [hv]; exact press
    have left := asked_leaves v p h k g .turret
    have group (g' : GroupId) : v.group g' = s.group g' := by rw [hv, hu]; rfl
    have asked := asked_floor (s := s) (h := h) k (group g) (by rw [hv, hu]; rfl) defined member
      (bs := []) (.of_notices (by rw [hv, hu]; rfl))
    obtain ⟨w, hw⟩ : ∃ w, w = v.asked p h k g .turret := ⟨_, rfl⟩
    rw [← hw] at is left asked
    have frame : SameExcept [.groups, .positions, .termCount, .notices] u w := set.step left.frame
    obtain ⟨run, e⟩ := turretEvent_end (i := .keyDown p k) up rfl (keyDown_act shown (hu ▸ is)) noOffers (hu ▸ frame)
      (.inl ((frame .offers (by decide)).trans (by rw [hu]; exact noOffers)))
    obtain ⟨a, b, c, d, shape⟩ := e.ended.shaped
    have slots (q : PositionId) (x : Handset) : w.finish.slot q x = v.slot q x := (e.ended.slot q x).trans (left.slots q x)
    refine ⟨_, run, ?_, fun q x ne => ?_, ?_, fun g' ne => ?_, fun q ne => ?_, e.delivered, ?_, e.same⟩
    · rw [slots, hv, setSlot_slot]
    · rw [slots, hv, setSlot_slot_ne _ _ ne, hu]
      rfl
    · rw [e.ended.termCount, left.frame .termCount (by decide), hv, setSlot_termCount, hu, takeDelivered_slot, slot]
      rfl
    · rw [e.ended.group, left.others g' ne, group]
    · rw [e.ended.position, left.positions q ne, hv, (setSlot_position u p h _).2 q ne, hu]
      rfl
    · rw [shape]
      exact asked
  · obtain ⟨u, hu⟩ : ∃ u, u = s.takeDelivered p (.key k true) := ⟨_, rfl⟩
    have cost : 2 ≤ slotCost (some old) := by
      obtain ⟨source, k'⟩ := old
      cases source <;> simp [slotCost]
    have press := (pressKey_group (s := s.takeDelivered p (.key k true)) (h := h) .turret content selected
      (by rw [takeDelivered_slot, slot]; simpa using apart)).2.2.2 defined (by rw [takeDelivered_group, member]; simp)
      (by rw [takeDelivered_slot, slot]; simp [State.admits, cost])
    rw [takeDelivered_slot, slot, ← hu] at press
    have moved := replaced_moved (s := s.takeDelivered p (.key k true)) (new := ⟨.group g, k⟩) slot disposable sole other
    rw [← hu] at moved
    obtain ⟨v, hv⟩ : ∃ v, v = u.replaceSlot p h (some old) ⟨.group g, k⟩ := ⟨_, rfl⟩
    have is : (u.pressKey p k .turret).1 = v.asked p h k g .turret := by rw [hv]; exact press
    rw [← hv] at moved
    have left := asked_leaves v p h k g .turret
    have taken : SameExcept [.links] s u := hu ▸ takeDelivered_frame s p _
    have raised : Raised (s.switchedNotices p h old ++ installNotices p old.key (s.freed p h old)) s v := by
      subst hu
      exact .after (takeDelivered_frame s p _) moved.raised
    have asked := asked_floor (s := s) (v := v) (h := h) k (by rw [moved.groups g apart, hu]; rfl)
      (by rw [moved.frame .clock (by decide), hu]; rfl) defined member raised
    obtain ⟨w, hw⟩ : ∃ w, w = v.asked p h k g .turret := ⟨_, rfl⟩
    rw [← hw] at is left asked
    have frame : SameExcept slotParts u w := moved.frame.trans (left.frame.mono (by decide))
    have free : ∀ l ∈ w.offers, w.noneWaits l := by
      intro l hl
      rw [left.frame .offers (by decide)] at hl
      refine noneWaits_of (s := s) (fun q => ?_) ((frame .speakers (by decide)).trans (taken .speakers (by decide))) ?_
      · rw [left.linkUp, moved.linkUp, hu]
        rfl
      · rcases moved.offers l hl with e | e
        · rw [taken .offers (by decide), noOffers] at e
          cases e
        · exact (disposable l e).2.1
    obtain ⟨run, e⟩ := turretEvent_end (i := .keyDown p k) up rfl (keyDown_act shown (hu ▸ is)) noOffers (hu ▸ frame)
      (.inr free)
    obtain ⟨newSlot, slots, count, installed, kept, entries⟩ := moved.changed
    have line (l : LineId) : w.finish.line l = v.line l := (e.ended.line l).trans (lines_of_frame left.frame (by decide) l)
    have group (g' : GroupId) (ne : g' ≠ g) : w.finish.group g' = v.group g' := (e.ended.group g').trans (left.others g' ne)
    have slotOf (q : PositionId) (x : Handset) : w.finish.slot q x = v.slot q x := (e.ended.slot q x).trans (left.slots q x)
    have entry (q : PositionId) (k' : Key) : w.finish.entry q k' = v.entry q k' := by
      rw [e.ended.entry, State.entry, left.frame .directory (by decide)]
      rfl
    have asked : FloorAsked p h k g m.cls (s.switchedNotices p h old ++ installNotices p old.key (s.freed p h old)) s w.finish := by
      obtain ⟨a, b, c, d, shape⟩ := e.ended.shaped
      rw [shape]
      exact asked
    refine ⟨_, run, ⟨fun x here => ?_, fun g' here => ?_⟩, fun l away => ?_, fun g' ne away => ?_,
      ⟨?_, fun q x ne => ?_, ?_, fun c hc => ?_, fun none => ?_, fun q k' ne => ?_⟩, fun q ne => ?_, e.delivered, asked, e.same⟩
    all_goals clear asked run
    · rw [line, moved.record x here, hu]
      rfl
    · rw [group g' fun same => apart (by rw [here, same]), moved.floor g' here, hu]
      rfl
    · rw [line, moved.lines l away, hu]
      rfl
    · rw [group g' ne, moved.groups g' away, hu]
      rfl
    · rw [slotOf, newSlot]
    · rw [slotOf, slots q x ne, hu]
      rfl
    · rw [e.ended.termCount, left.frame .termCount (by decide), count, hu]
      rfl
    · rw [entry, installed c (by rw [hu]; exact hc)]
    · rw [entry, kept (by rw [hu]; exact none), hu]
      rfl
    · rw [entry, entries q k' ne, hu]
      rfl
    · rw [e.ended.position, left.positions q ne, moved.position.1 q ne, hu]
      rfl
  · have is : ((s.takeDelivered p (.key k true)).pressKey p k .turret).1 = s.takeDelivered p (.key k true) := by
      simp [State.pressKey, content, selected, State.groupKey, slot, holdsSource]
    obtain ⟨t, run, -, delivered, frame⟩ := turret_ignored (i := .keyDown p k) up noOffers rfl (keyDown_act shown is)
    exact ⟨t, run, delivered, frame⟩

end Sys2Proof.Machine
end

section
/-! PROOFS. Slots emptied by a release or a hold: HOLD (R21, R41). -/

namespace Sys2Proof.Machine

-- One theorem after another: side by side they hold the memory of too many stacks.
set_option Elab.async false

/-! ### A line's slot emptied -/

theorem reportEnd_still {a : State} {p : PositionId} {k : Key}
    (still : a.bound p k = true ∨ (a.entry p k).pendingContent = none) : a.reportEnd p k = a := by
  refine (reportEnd_reported a p k).kept ?_
  split
  · rfl
  · exact still.resolve_left ‹_›

/-- Line `l` has taken the record `y` with the notices `bs`, and slot `h` of `p`, which held it, was emptied. -/
structure SlotDropped (p : PositionId) (h : Handset) (l : LineId) (y : Line) (bs : List NoticeBody) (s w : State) : Prop where
  line : w.line l = y
  others : OtherLines l s w
  slot : w.slot p h = none
  slots : OtherSlots p h s w
  count : w.termCount = s.termCount - 3
  position : w.position p = (s.position p).setHandset h { (s.position p).handset h with slot := none }
  positions : OtherPositions p s w
  raised : Raised bs s w

theorem slot_dropped {s v : State} {p : PositionId} {h : Handset} {k : Key} {l : LineId} {y : Line} {bs : List NoticeBody}
    (m : MovedLine l y bs s v) (slot : s.slot p h = some ⟨.line l, k⟩) (calm : v.positions = s.positions) :
    SlotDropped p h l y bs s (v.setSlot p h none) := by
  have positions (q : PositionId) : v.position q = s.position q := by rw [State.position, calm]; rfl
  obtain ⟨position, others⟩ := setSlot_position v p h none
  rw [positions] at position
  refine ⟨m.line, m.others, setSlot_slot v p h _, fun q g ne => ?_, ?_, position, fun q ne => (others q ne).trans (positions q),
    m.raised.then (setSlot_frame v p h none)⟩
  · rw [setSlot_slot_ne v _ ne, State.slot, positions]
    rfl
  · rw [setSlot_termCount, m.rings.slot, slot, m.frame .termCount (by decide)]
    rfl

/-- The end of the event leaves the line, the slot and the notices as the emptying left them. -/
theorem SlotDropped.end_ {p : PositionId} {h : Handset} {l : LineId} {y : Line} {bs : List NoticeBody} {ch : List Part}
    {s w t : State} (d : SlotDropped p h l y bs s w) (frame : SameExcept ch w t)
    (rest : ∀ q ∈ ch, q ∈ [Part.speakers, .offers, .links, .lamps, .ports] := by decide) : SlotDropped p h l y bs s t := by
  have frame := frame.mono rest
  have position (q : PositionId) : t.position q = w.position q := by rw [State.position, frame .positions (by decide)]; rfl
  have slot (q : PositionId) (g : Handset) : t.slot q g = w.slot q g := by rw [State.slot, position]; rfl
  have line (m : LineId) : t.line m = w.line m := lines_of_frame frame (by decide) m
  exact ⟨(line l).trans d.line, fun m ne => (line m).trans (d.others m ne), (slot p h).trans d.slot,
    fun q g ne => (slot q g).trans (d.slots q g ne), (frame .termCount (by decide)).trans d.count,
    (position p).trans d.position, fun q ne => (position q).trans (d.positions q ne), d.raised.then frame⟩

/-! ### A party leaves or holds -/

section
variable {s : State} {p : PositionId} {h : Handset} {l : LineId} {k : Key} {x : Party} {others : List Party}

theorem leave_is {path : Path} (party : (s.line l).party? p path = some x) :
    s.leave l p path = (s.moveLine l ((s.line l).afterLeave (s.startTimer .guard) p path), .left) := by
  simp only [State.leave, party]

theorem hold_last (party : (s.line l).party? p (.handset h) = some x) (last : (s.line l).without p (.handset h) = []) :
    s.hold l p h =
      (s.moveLine l ((s.line l).onHold (s.startTimer .hold) (x.key.map fun k => ⟨p, k⟩)), .ok) := by
  simp only [State.hold, party, last]

theorem hold_among (party : (s.line l).party? p (.handset h) = some x) (among : (s.line l).without p (.handset h) ≠ []) :
    s.hold l p h = s.leave l p (.handset h) := by
  unfold State.hold
  rw [party]
  dsimp only
  split
  · next e => exact absurd e among
  · rfl

theorem releaseSlot_line (slot : s.slot p h = some ⟨.line l, k⟩) (party : (s.line l).party? p (.handset h) = some x)
    (pending : (s.entry p k).pendingContent = none) : s.releaseSlot p h =
      ((s.moveLine l ((s.line l).afterLeave (s.startTimer .guard) p (.handset h))).setSlot p h none, .left) := by
  simp only [State.releaseSlot, slot, leave_is party]
  rw [reportEnd_still (.inr ?_)]
  rw [State.entry, setSlot_frame _ p h none .directory (by decide), moveLine_frame _ _ _ .directory (by decide)]
  exact pending

theorem releaseSlot_group {g : GroupId} (slot : s.slot p h = some ⟨.group g, k⟩) :
    s.releaseSlot p h = (((s.talkRelease g p (.handset h)).1.setSlot p h none).reportEnd p k, .ok) := by
  simp only [State.releaseSlot, slot]

/-- The list without a party of a well-formed line. -/
theorem Line.ok.without_split {y : Line} {before behind : List Party} (ok : y.ok) (parties : y.parties = before ++ x :: behind)
    (position : x.position = p) (path : x.path = .handset h) : y.without p (.handset h) = before ++ behind := by
  have distinct := ok.distinct
  rw [parties] at distinct
  simp only [List.map_append, List.map_cons, List.nodup_append, List.nodup_cons, List.mem_cons, List.mem_map] at distinct
  obtain ⟨-, ⟨apart, -⟩, disjoint⟩ := distinct
  have kept (z : Party) (hz : z ∈ before ++ behind) : (!z.is p (.handset h)) = true := by
    simp only [Bool.not_eq_true', Bool.eq_false_iff, Ne, Party.is_iff]
    rintro ⟨at_, by_⟩
    rcases List.mem_append.1 hz with hz | hz
    · exact disjoint _ ⟨z, hz, rfl⟩ _ (.inl rfl) (by rw [at_, by_, position, path])
    · exact apart ⟨z, hz, by rw [at_, by_, position, path]⟩
  have left : (!x.is p (.handset h)) = false := by simp [position, path]
  rw [Line.without, parties, List.filter_append, List.filter_cons_of_neg (by simp [left])]
  rw [List.filter_eq_self.2 fun z hz => kept z (List.mem_append_left _ hz),
    List.filter_eq_self.2 fun z hz => kept z (List.mem_append_right _ hz)]

/-- The record that a party leaves to others: its state, and privacy with the principal (R3, R20). -/
theorem Line.ok.afterLeave_among {y : Line} {before behind : List Party} (ok : y.ok)
    (parties : y.parties = before ++ x :: behind) (among : before ++ behind ≠ []) (position : x.position = p)
    (path : x.path = .handset h) (timer : Option LineTimer) : y.afterLeave timer p (.handset h) =
      { y with parties := before ++ behind, privacy := y.privacy && !decide (y.principal = some x) } := by
  have hx : x ∈ y.parties := by rw [parties]; simp
  have principal : y.isPrincipal p (.handset h) = decide (y.principal = some x) := by
    rw [Bool.eq_iff_iff, Line.isPrincipal_iff, decide_eq_true_eq]
    constructor
    · rintro ⟨z, is, at_, by_⟩
      rw [is, ok.unique (List.mem_of_find?_eq_some is) hx (at_.trans position.symm) (by_.trans path.symm)]
    · exact fun is => ⟨x, is, position, path⟩
  unfold Line.afterLeave
  dsimp only
  rw [ok.without_split parties position path, principal]
  cases e : before ++ behind with
  | nil => exact absurd e among
  | cons z zs => rfl

/-- The record that the last party leaves (R9, R20). -/
theorem Line.ok.afterLeave_last {y : Line} (ok : y.ok) (parties : y.parties = [x]) (position : x.position = p)
    (path : x.path = .handset h) (timer : Option LineTimer) : y.afterLeave timer p (.handset h) =
      { y with
        state := .guard, parties := [], privacy := false, sz := false, rg := false, unanswered := false
        burstCount := 0, timer := timer } := by
  have left : y.without p (.handset h) = [] :=
    ok.without_split (before := []) (behind := []) (by simpa using parties) position path
  have principal : y.principal = some x := by simp [Line.principal, parties, path, Path.isHandset]
  have is : y.isPrincipal p (.handset h) = true := Line.isPrincipal_iff.2 ⟨x, principal, position, path⟩
  unfold Line.afterLeave
  dsimp only
  rw [left, is]
  simp [Line.guarded]

end

/-! ### Events that offer an opportunity which is refused -/

/-- A turret event at a position whose link is UP, where the one line that it offers refuses every waiting channel. -/
theorem turretEvent_refused {i : Instr} {s : State} {p : PositionId} {ev : TurretEvent} {act : State → State} {w : State}
    {ch ch' : List Part} {l : LineId} {r : ResultCode} (up : (s.position p).linkUp = true)
    (run : exec i s = .next (s.turretEvent p ev act)) (is : act (s.takeDelivered p ev) = w) (noOffers : s.offers = [])
    (frame : SameExcept ch (s.takeDelivered p ev) w) (refuses : (w.line l).refusesChannels r) (ne : r ≠ .ok)
    (offers : ∀ m ∈ w.offers, m = l) (links : Part.links ∉ ch := by decide)
    (sub : ∀ q ∈ Part.links :: ch, q ∈ Part.offers :: ch' := by decide)
    (lit : ∀ q ∈ [Part.speakers, .links, .lamps], q ∈ ch' := by decide) :
    exec i s = .next w.finish ∧ Refused r w w.finish ∧ OnlyDelivered p s w.finish ∧ SameExcept ch' s w.finish := by
  have refused := finish_refused refuses ne offers
  refine ⟨?_, refused, .of_taken (frame .links links), ?_⟩
  · rw [run]
    congr 1
    show (if (s.position p).linkUp = true then (act (s.takeDelivered p ev)).finish else _) = _
    rw [if_pos up, is]
  · have before : SameExcept (.offers :: ch') s w :=
      ((takeDelivered_frame s p ev).mono (by simp)).trans (frame.mono fun q hq => List.mem_cons_of_mem _ hq) |>.mono sub
    refine SameExcept.narrow (ch := .offers :: ch') (before.trans (refused.frame.mono fun q hq => ?_)) fun q hq hn => ?_
    · have := lit q
      simp only [List.mem_cons, List.not_mem_nil, or_false] at hq this ⊢
      tauto
    · rcases List.mem_cons.1 hq with rfl | h
      · exact noOffers.symm
      · exact absurd h hn

theorem Line.refusesChannels_guard {x : Line} (guard : x.state = .guard) : x.refusesChannels .lineGuard := by
  intro p n v
  simp only [judgeTake, guard]

theorem Line.refusesChannels_held {x : Line} (held : x.state = .held) : x.refusesChannels .lineHeld := by
  intro p n v
  simp [judgeTake, held, judgePickup, speakerTake, Path.isHandset]

/-! ### A group's slot emptied -/

/-- The release of a group from a slot: its floor place, the slot with its terms, and the binding report (R34, R85). -/
theorem group_released {s : State} {p : PositionId} {h : Handset} {g : GroupId} {k : Key}
    (slot : s.slot p h = some ⟨.group g, k⟩) (sole : s.soleBinding p h k) :
    (s.releaseSlot p h).2 = .ok ∧
      GroupReleased p h g k { (s.position p).handset h with slot := none } s (s.releaseSlot p h).1 ∧
      SameExcept [.groups, .notices, .positions, .termCount, .directory] s (s.releaseSlot p h).1 := by
  rw [releaseSlot_group slot]
  dsimp only
  have d := talkRelease_disposed s p h g k (s.switchedLine p h k)
  have r := d.moved slot none (freed_reported d sole none fun _ x hx => by cases hx)
  have frame := talkRelease_frame s g p (.handset h)
  generalize (s.talkRelease g p (.handset h)).1 = a at r frame ⊢
  have frame : SameExcept [.groups, .notices, .positions, .termCount, .directory] s ((a.setSlot p h none).reportEnd p k) :=
    ((frame.mono (by decide)).trans ((setSlot_frame a p h none).mono (by decide))).trans
      ((reportEnd_frame (a.setSlot p h none) p k).mono (by decide))
  exact ⟨rfl, ⟨r.floor g rfl, fun g' ne => r.groups g' fun e => ne (by cases e; rfl), r.changed, r.position, r.raised⟩, frame⟩

/-- An empty slot has nothing to release (R42). -/
theorem releaseSlot_empty {s : State} {p : PositionId} {h : Handset} (slot : s.slot p h = none) :
    s.releaseSlot p h = (s, .noChange) := by
  simp only [State.releaseSlot, slot]

theorem GroupReleased.shaped {p : PositionId} {h : Handset} {g : GroupId} {k : Key} {x : HandsetRecord} {s w t : State}
    (r : GroupReleased p h g k x s w) (same : ∃ a b c d, t = { w with offers := a, links := b, lamps := c, ports := d }) :
    GroupReleased p h g k x s t := by
  obtain ⟨a, b, c, d, rfl⟩ := same
  exact r

/-! ### Injected function keys -/

theorem inject_func {s w : State} {p : PositionId} {f : Func} {r : ResultCode} (c : Port) (ch code : Byte)
    (up : (s.position p).linkUp = true) (read : funcArg code = some f) (channel : injectChannel f ch = some 0)
    (run : s.funcEvent p f 0 true .inject = (w, r)) :
    exec (.keyInject c (byteOf p.val) 1 code ch 1) s = .next (w.answer c r []).finish := by
  have one : (1 : Byte).toNat = 1 := rfl
  have flag : flagArg 1 = some true := rfl
  refine exec_keyInject (out := none) (e := .func f 0 true) up ?_ ?_
  · simp only [injectArg, one, flag, read, channel, Option.map_some]
  · simp only [State.inject, run]

end Sys2Proof.Machine
end

section
/-! PROOFS. HOLD, as an event and injected (R21, R36, R41). -/

namespace Sys2Proof.Machine

-- One theorem after another: side by side they hold the memory of too many stacks.
set_option Elab.async false

section
variable {s : State} {p : PositionId} {l : LineId} {k : Key} {x : Party} {before behind : List Party}

/-- HOLD by the one party of the slot's line (R21, R41). -/
theorem holdKey_last (o : Origin) (slot : s.slot p (s.selected p) = some ⟨.line l, k⟩) (ok : (s.line l).ok)
    (parties : (s.line l).parties = [x]) (position : x.position = p) (path : x.path = .handset (s.selected p))
    (key : x.key = some k) : s.holdKey p o =
      ((s.moveLine l ((s.line l).onHold (s.startTimer .hold) (some ⟨p, k⟩))).setSlot p (s.selected p) none, .ok) := by
  have hx : x ∈ (s.line l).parties := by rw [parties]; simp
  have party : (s.line l).party? p (.handset (s.selected p)) = some x := by rw [← path, ← position]; exact ok.party? hx
  have left : (s.line l).without p (.handset (s.selected p)) = [] :=
    ok.without_split (before := []) (behind := []) (by simpa using parties) position path
  have held := hold_last party left
  rw [key] at held
  simp only [State.holdKey, slot, held]
  rw [reportEnd_still (.inl (bound_iff.2 (.inr ⟨l, ?_⟩)))]
  · rfl
  · have line := moveLine_line s l ((s.line l).onHold (s.startTimer .hold) (some ⟨p, k⟩))
    exact (congrArg Line.holdOwner line).trans rfl

/-- HOLD while other parties remain is a leave (R21, R41). -/
theorem holdKey_among (o : Origin) (slot : s.slot p (s.selected p) = some ⟨.line l, k⟩) (ok : (s.line l).ok)
    (parties : (s.line l).parties = before ++ x :: behind) (among : before ++ behind ≠ []) (position : x.position = p)
    (path : x.path = .handset (s.selected p)) (pending : (s.entry p k).pendingContent = none) :
    s.holdKey p o = s.releaseSlot p (s.selected p) := by
  have left := ok.without_split parties position path
  have hx : x ∈ (s.line l).parties := by rw [parties]; simp
  have party : (s.line l).party? p (.handset (s.selected p)) = some x := by rw [← path, ← position]; exact ok.party? hx
  rw [releaseSlot_line slot party pending]
  simp only [State.holdKey, slot]
  rw [hold_among party (by rw [left]; exact among), leave_is party]
  dsimp only
  rw [reportEnd_still (.inr ?_)]
  rw [State.entry, setSlot_frame _ p _ none .directory (by decide), moveLine_frame _ _ _ .directory (by decide)]
  exact pending

theorem holdKey_group {g : GroupId} (o : Origin) (slot : s.slot p (s.selected p) = some ⟨.group g, k⟩) :
    s.holdKey p o = s.releaseSlot p (s.selected p) := by
  simp only [State.holdKey, slot]

/-- A release that leaves the line to other parties (R3, R20, R34). -/
theorem releaseSlot_among {h : Handset} (slot : s.slot p h = some ⟨.line l, k⟩) (ok : (s.line l).ok)
    (parties : (s.line l).parties = before ++ x :: behind) (among : before ++ behind ≠ []) (position : x.position = p)
    (path : x.path = .handset h) (pending : (s.entry p k).pendingContent = none) :
    (s.releaseSlot p h).2 = .left ∧
      SlotDropped p h l { s.line l with
        parties := before ++ behind, privacy := (s.line l).privacy && !decide ((s.line l).principal = some x) } [] s
        (s.releaseSlot p h).1 ∧
      (∀ m ∈ (s.releaseSlot p h).1.offers, m ∈ s.offers ∨ m = l) ∧
      (∀ q, ((s.releaseSlot p h).1.position q).linkUp = (s.position q).linkUp) ∧
      SameExcept [.lines, .offers, .positions, .termCount] s (s.releaseSlot p h).1 := by
  have hx : x ∈ (s.line l).parties := by rw [parties]; simp
  have party : (s.line l).party? p (.handset h) = some x := by rw [← path, ← position]; exact ok.party? hx
  rw [releaseSlot_line slot party pending, ok.afterLeave_among parties among position path]
  obtain ⟨y, hy⟩ : ∃ y, y = { s.line l with
    parties := before ++ behind, privacy := (s.line l).privacy && !decide ((s.line l).principal = some x) } := ⟨_, rfl⟩
  rw [← hy]
  have state : y.state = (s.line l).state := by rw [hy]
  have frame := moveLine_still_frame state
  have m := (moveLine_moved s l y).state_same state
  have d := slot_dropped m slot (frame .positions (by decide))
  refine ⟨rfl, d, m.offers, fun q => ?_,
    frame.step (ch := [.lines, .offers, .positions, .termCount]) (setSlot_frame _ p h none)⟩
  rw [setSlot_linkUp, m.rings.linkUp]

theorem SlotDropped.left {h : Handset} {others : List Party} {w : State} (d : SlotDropped p h l { s.line l with
    parties := others, privacy := (s.line l).privacy && !decide ((s.line l).principal = some x) } [] s w) :
    PartyLeft p h l x others s w := ⟨d.line, d.others, d.slot, d.slots, d.positions, d.count, d.raised⟩

theorem PartyLeft.shaped {p : PositionId} {h : Handset} {l : LineId} {x : Party} {others : List Party} {s w t : State}
    (left : PartyLeft p h l x others s w) (same : ∃ a b c d, t = { w with offers := a, links := b, lamps := c, ports := d }) :
    PartyLeft p h l x others s t := by
  obtain ⟨a, b, c, d, rfl⟩ := same
  exact left

end

/-- What a leave offers finds no waiting channel where none waits for its line (R101). -/
theorem left_free {s w : State} {l : LineId} (noOffers : s.offers = []) (offers : ∀ m ∈ w.offers, m ∈ s.offers ∨ m = l)
    (linkUp : ∀ q, (w.position q).linkUp = (s.position q).linkUp) (speakers : w.speakers = s.speakers)
    (none : s.noneWaits l) : ∀ m ∈ w.offers, w.noneWaits m := by
  intro m hm
  rcases offers m hm with e | rfl
  · rw [noOffers] at e
    cases e
  · exact noneWaits_of linkUp speakers none

/-- Settles O26: the one party holds, with others HOLD is a release, and so it is with a group. -/
theorem holdKeyHolds : Obligations.HoldKeyHolds := by
  refine ⟨fun p l k x s noOffers up slot ok parties position path key => ?_,
    fun p l k x before behind s noOffers up slot ok parties among position path pending none => ⟨?_, fun c ch => ?_⟩,
    fun p h g k s noOffers up selected slot sole => ⟨?_, fun c ch => ?_⟩, fun p s noOffers up slot => ?_⟩
  · obtain ⟨u, hu⟩ : ∃ u, u = s.takeDelivered p (.func .hold 0 true) := ⟨_, rfl⟩
    have act := congrArg Prod.fst (holdKey_last (s := s.takeDelivered p (.func .hold 0 true)) .turret slot ok parties position path key)
    have hx : x ∈ (s.line l).parties := by rw [parties]; simp
    obtain ⟨y, hy⟩ : ∃ y, y = (s.line l).onHold (u.startTimer .hold) (some ⟨p, k⟩) := ⟨_, rfl⟩
    have held : y.state = .held := by rw [hy]; rfl
    have live : (u.line l).state = (s.line l).state := by rw [hu]; rfl
    have moved := (moveLine_moved u l y).state_ne (by
      rw [live, held]
      rcases ok.in_call hx with e | e <;> simp [e])
    rw [live, held] at moved
    have calm : (u.moveLine l y).positions = u.positions :=
      moveLine_positions_calm (by rw [live]; exact ok.not_inQueues hx) (by rw [held]; rfl)
    have dropped := slot_dropped (h := s.selected p) (k := k) moved (by rw [hu]; exact slot) calm
    have frame : SameExcept [.lines, .positions, .notices, .offers, .termCount] u
        ((u.moveLine l y).setSlot p (s.selected p) none) := moved.frame.step (setSlot_frame _ p _ none)
    obtain ⟨w, hw⟩ : ∃ w, w = (u.moveLine l y).setSlot p (s.selected p) none := ⟨_, rfl⟩
    rw [← hw] at dropped frame
    have is : ((s.takeDelivered p (.func .hold 0 true)).holdKey p .turret).1 = w := by
      rw [act, hw, hy, hu]
      rfl
    obtain ⟨run, refused, delivered, same⟩ := turretEvent_refused (i := .hold p) (l := l)
      (ch' := [.lines, .positions, .termCount, .notices, .speakers, .links, .lamps]) up rfl is noOffers (hu ▸ frame)
      (by rw [dropped.line]; exact Line.refusesChannels_held held) (by simp) (fun m hm => by
        rw [hw] at hm
        rcases moved.offers m hm with e | e
        · rw [hu] at e
          rw [show (s.takeDelivered p (.func .hold 0 true)).offers = [] from noOffers] at e
          cases e
        · exact e)
    have d := dropped.end_ refused.frame
    have line : w.finish.line l = { s.line l with
        state := .held, parties := [], holdOwner := some ⟨p, k⟩, privateHold := (s.line l).privacy, privacy := false
        rg := false, burstCount := 0, unanswered := false
        timer := if s.params.holdRecall = 0 then Option.none
          else some ⟨.hold, s.clock + s.params.holdRecall * 1000 * 8⟩ } := by
      rw [d.line, hy, hu]
      rfl
    clear act
    subst hu
    refine ⟨_, run, line, d.others, d.slot, d.slots, d.count, ?_, ?_, d.raised, delivered, same⟩
    · rw [State.entry, same .directory (by decide)]
      rfl
    · exact bound_iff.2 (.inr ⟨l, by rw [line]⟩)
  · obtain ⟨-, left, offers, linkUp, frame⟩ := releaseSlot_among (s := s.takeDelivered p (.func .hold 0 true)) slot ok parties
      among position path pending
    have act := congrArg Prod.fst (holdKey_among (s := s.takeDelivered p (.func .hold 0 true)) .turret slot ok parties among
      position path pending)
    obtain ⟨run, e⟩ := turretEvent_end (i := .hold p) up rfl act noOffers frame
      (.inr (left_free noOffers offers linkUp (frame .speakers (by decide)) none))
    exact ⟨_, run, PartyLeft.shaped (SlotDropped.left (s := s.takeDelivered p (.func .hold 0 true)) left) e.ended.shaped,
       e.delivered, e.same⟩
  · obtain ⟨result, left, offers, linkUp, frame⟩ := releaseSlot_among slot ok parties among position path pending
    have act := holdKey_among .inject slot ok parties among position path pending
    have run := inject_func (w := (s.releaseSlot p (s.selected p)).1) (r := .left) (f := .hold) c ch 0 up rfl rfl
      (act.trans (Prod.ext rfl result))
    have e := inject_end c .left [] noOffers frame (.inr (left_free noOffers offers linkUp (frame .speakers (by decide)) none))
    exact ⟨_, run, left.left.shaped e.shaped, e.answered, e.queues, e.same⟩
  · subst selected
    obtain ⟨-, released, frame⟩ := group_released (s := s.takeDelivered p (.func .hold 0 true)) slot sole
    have act := congrArg Prod.fst (holdKey_group (s := s.takeDelivered p (.func .hold 0 true)) .turret slot)
    obtain ⟨run, e⟩ := turretEvent_end (i := .hold p) up rfl act noOffers frame (.inl ((frame .offers (by decide)).trans noOffers))
    exact ⟨_, run, GroupReleased.shaped released e.ended.shaped, e.delivered, e.same⟩
  · subst selected
    obtain ⟨result, released, frame⟩ := group_released slot sole
    have run := inject_func (w := (s.releaseSlot p (s.selected p)).1) (r := .ok) (f := .hold) c ch 0 up rfl rfl
      ((holdKey_group .inject slot).trans (Prod.ext rfl result))
    have e := inject_end c .ok [] noOffers frame (.inl ((frame .offers (by decide)).trans noOffers))
    exact ⟨_, run, released.shaped e.shaped, e.answered, e.queues, e.same⟩
  · have is : ((s.takeDelivered p (.func .hold 0 true)).holdKey p .turret).1 =
        (s.takeDelivered p (.func .hold 0 true)).raise (.keyDenied p none .noLine .turret) := by
      have empty : (s.takeDelivered p (.func .hold 0 true)).slot p ((s.takeDelivered p (.func .hold 0 true)).selected p) =
          none := slot
      simp only [State.holdKey, empty]
      rfl
    obtain ⟨run, e⟩ := turretEvent_end (i := .hold p) up rfl is noOffers (raise_frame _ _) (.inl noOffers)
    exact ⟨_, run, e.ended.raised (.after (takeDelivered_frame s p _) (raise_raised _ _)), e.delivered, e.same⟩

end Sys2Proof.Machine
end

section
/-! PROOFS. The head of the ring queue answered by ANSWER and by a lift (R13, R43, R48). -/

namespace Sys2Proof.Machine

-- One theorem after another: side by side they hold the memory of too many stacks.
set_option Elab.async false

/-! ### A line that does not ring joins no queue by a directory change -/

/-- Line `l` does not ring and stands in no queue as a RING entry. -/
structure State.silent (s : State) (l : LineId) : Prop where
  state : (s.line l).state ≠ .ringing
  unrung : ∀ q, ¬(s.position q).rings .ring l

theorem setPosition_silent {s : State} {l : LineId} (silent : s.silent l) {p : PositionId} {x : Position}
    (unrung : ¬x.rings .ring l) : (s.setPosition p x).silent l := by
  refine ⟨silent.state, fun q => ?_⟩
  by_cases at_ : q = p
  · rw [at_, State.setPosition_position]
    exact unrung
  · rw [State.setPosition_position_ne s x at_]
    exact silent.unrung q

theorem updateRing_silent {s : State} {l : LineId} (silent : s.silent l) (p : PositionId) (old : Table 64 Entry) (m : LineId) :
    (s.updateRing p old m).silent l := by
  have unrung := silent.unrung p
  unfold State.updateRing
  split
  · next ringing =>
    have ne : m ≠ l := fun e => silent.state (e ▸ ringing)
    split
    · refine setPosition_silent silent fun ⟨e, he, line, kind⟩ => ?_
      rw [Position.joinRing, requeue_ringQueue, mem_insertByClass] at he
      rcases he with rfl | he
      · exact ne line
      · exact unrung ⟨e, (List.mem_filter.1 he).1, line, kind⟩
    · refine setPosition_silent silent fun ⟨e, he, line, kind⟩ => unrung ⟨e, ?_, line, kind⟩
      rw [Position.dropRing, requeue_ringQueue] at he
      exact (List.mem_filter.1 he).1
    · split
      · exact silent
      · refine setPosition_silent silent fun ⟨e, he, line, kind⟩ => ?_
        rw [Position.rekeyRing, requeue_ringQueue] at he
        obtain ⟨y, hy, rfl⟩ := List.mem_map.1 he
        refine unrung ⟨y, hy, ?_, ?_⟩
        · split at line <;> exact line
        · split at kind <;> exact kind
    · exact silent
  · exact silent

theorem directoryChanged_silent {s : State} {l : LineId} (silent : s.silent l) (p : PositionId) (old : Table 64 Entry) :
    (s.directoryChanged p old).silent l := by
  unfold State.directoryChanged
  generalize ascending 160 = xs
  induction xs generalizing s with
  | nil => exact silent
  | cons m xs ih => exact ih (updateRing_silent silent p old m)

theorem reportEnd_silent {s : State} {l : LineId} (silent : s.silent l) (p : PositionId) (k : Key) :
    (s.reportEnd p k).silent l := by
  unfold State.reportEnd
  split
  · exact silent
  · split
    · next c _ =>
      have written : (s.setEntry p k ⟨c, none⟩).silent l := ⟨silent.state, silent.unrung⟩
      have changed := directoryChanged_silent written p (s.directory.get p)
      unfold State.install
      dsimp only
      generalize (s.setEntry p k ⟨c, none⟩).directoryChanged p (s.directory.get p) = a at changed
      exact ⟨changed.state, changed.unrung⟩
    · exact silent

/-- A slot change away from another source rings no line that is silent (R52). -/
theorem replaceSlot_silent {s : State} {p : PositionId} {h : Handset} {l : LineId} {old new : Held} (silent : s.silent l)
    (apart : old.source ≠ .line l) (disposable : s.disposable p h old) : (s.replaceSlot p h (some old) new).silent l := by
  have d := switchAway_disposed (v := s) (p := p) (h := h) (old := old) fun x here =>
    ⟨(disposable x here).1, (disposable x here).2.2⟩
  show (((s.switchAway p h (some old)).setSlot p h (some new)).reportEnd p old.key).silent l
  generalize s.switchAway p h (some old) = a at d
  refine reportEnd_silent ⟨?_, fun q => ?_⟩ p old.key
  · exact (congrArg (fun x : Line => x.state ≠ .ringing) (d.lines l apart)).mpr silent.state
  · have positions : a.position q = s.position q := by rw [State.position, d.frame .positions (by decide)]; rfl
    have queue : ((a.setSlot p h (some new)).position q).ringQueue = (s.position q).ringQueue := by
      obtain ⟨at_, others⟩ := setSlot_position a p h (some new)
      by_cases e : q = p
      · subst e
        rw [at_, setHandset_ringQueue, positions]
      · rw [others q e, positions]
    intro ⟨e, he, is⟩
    rw [queue] at he
    exact silent.unrung q ⟨e, he, is⟩

/-! ### The take of a RINGING line -/

/-- The record of a RINGING line that party `x` has taken (R13). -/
def Line.answeredBy (x : Party) (y : Line) : Line :=
  { y with state := .active, parties := [x], missed := 0, sz := true, rg := false, timer := none }

section
variable {s : State} {p : PositionId} {h : Handset} {k : Key} {l : LineId}

theorem handsetTake_party (s : State) (p : PositionId) (h : Handset) (k : Key) :
    (s.handsetTake p h k .turret).party = ⟨p, .handset h, some k, true, decide (s.hook p h = .off), .key⟩ := rfl

theorem takeIntoSlot_rings (ringing : (s.line l).state = .ringing) (ok : (s.line l).ok)
    (admitted : s.admits (slotCost (s.slot p h)) 3 = true) : (s.takeIntoSlot p h l k .turret).1 =
      (s.moveLine l ((s.line l).answeredBy ⟨p, .handset h, some k, true, decide (s.hook p h = .off), .key⟩)).replaceSlot
        p h (s.slot p h) ⟨.line l, k⟩ := by
  have judged : judgeTake (s.line l) (s.handsetTake p h k .turret) = .ok := by simp only [judgeTake, ringing]
  have unheld : (s.line l).pickedUpOwner = none := by simp only [Line.pickedUpOwner, ringing]
  have shared := ok.no_privacy (by rw [ringing]; rfl)
  have after : (s.line l).afterTake (s.startTimer .burst) (s.handsetTake p h k .turret) =
      (s.line l).answeredBy ⟨p, .handset h, some k, true, decide (s.hook p h = .off), .key⟩ := by
    simp only [Line.afterTake, ringing, handsetTake_party, Line.answeredBy, shared]
  rw [takeIntoSlot_taken admitted judged, after, unheld]
  rfl

/-- The move of a RINGING line that is taken: its notice, no RING entry left, and no opportunity (R6, R8, R51). -/
theorem answeredBy_moved (x : Party) (ringing : (s.line l).state = .ringing) (ok : (s.line l).ok) (noOffers : s.offers = []) :
    MovedLine l ((s.line l).answeredBy x) [.lineState l .ringing .active] s (s.moveLine l ((s.line l).answeredBy x)) ∧
      (s.moveLine l ((s.line l).answeredBy x)).offers = [] ∧ (s.moveLine l ((s.line l).answeredBy x)).silent l := by
  have m := (moveLine_moved s l ((s.line l).answeredBy x)).state_ne (by rw [ringing]; exact fun e => by cases e)
  rw [ringing] at m
  have empty := ok.no_parties (by rw [ringing]; rfl)
  have unoffered : offersAttach (s.line l) ((s.line l).answeredBy x) = false :=
    offersAttach_none (fun e => by cases e) (fun e => by cases e) id (by simp [empty]) (by simp [ringing]) id
  refine ⟨m, moveLine_no_offer noOffers unoffered, ?_, moveLine_unrung ringing rfl⟩
  rw [moveLine_line]
  exact fun e => by cases e

end

/-- The head's line taken into the empty slot, at any base state. -/
theorem answers_empty {s : State} {p : PositionId} {h : Handset} {e : RingEntry} {rest : List RingEntry}
    (noOffers : s.offers = []) (head : (s.position p).ringQueue = e :: rest) (ringing : (s.line e.line).state = .ringing)
    (ok : (s.line e.line).ok) (slot : s.slot p h = none) (room : s.termCount + 3 ≤ 768) :
    ∃ v w, (s.answerHead p h .turret).1 = w ∧
      TakenEmpty p h e.key e.line
        ((s.line e.line).answeredBy ⟨p, .handset h, some e.key, true, decide (s.hook p h = .off), .key⟩)
        [.lineState e.line .ringing .active] s v w ∧ v.offers = [] ∧ v.silent e.line ∧ OnlyRings s v := by
  have is : s.answerHead p h .turret = s.takeIntoSlot p h e.line e.key .turret := by
    simp only [State.answerHead, head]
  rw [is, takeIntoSlot_rings ringing ok (by rw [slot]; exact admits_line (.inl ⟨rfl, room⟩)), slot]
  obtain ⟨m, none, silent⟩ := answeredBy_moved ⟨p, .handset h, some e.key, true, decide (s.hook p h = .off), .key⟩ ringing ok
    noOffers
  exact ⟨_, _, rfl, taken_empty e.key m slot, none, silent, m.rings⟩

/-- The head's line taken in place of the slot's content, at any base state. -/
theorem answers_in_place {s : State} {p : PositionId} {h : Handset} {e : RingEntry} {rest : List RingEntry} {old : Held}
    (noOffers : s.offers = []) (head : (s.position p).ringQueue = e :: rest) (ringing : (s.line e.line).state = .ringing)
    (ok : (s.line e.line).ok) (slot : s.slot p h = some old) (apart : old.source ≠ .line e.line)
    (room : slotCost (some old) = 3 ∨ s.termCount + 1 ≤ 768) (disposable : s.disposable p h old)
    (sole : s.soleBinding p h old.key) (other : (s.entry p old.key).pendingContent ≠ none → old.key ≠ e.key) :
    ∃ v w, (s.answerHead p h .turret).1 = w ∧
      TakenInPlace p h e.key e.line old
        ((s.line e.line).answeredBy ⟨p, .handset h, some e.key, true, decide (s.hook p h = .off), .key⟩)
        [.lineState e.line .ringing .active] s v w ∧ v.offers = [] ∧ w.silent e.line := by
  have is : s.answerHead p h .turret = s.takeIntoSlot p h e.line e.key .turret := by
    simp only [State.answerHead, head]
  have cost : slotCost (some old) = 3 ∨ slotCost (some old) = 2 := by
    obtain ⟨source, k⟩ := old
    cases source <;> simp [slotCost]
  have admitted : s.admits (slotCost (s.slot p h)) 3 = true := by
    rw [slot]
    rcases cost with c | c
    · exact admits_line (.inr (.inl c))
    · exact admits_line (.inr (room.imp id fun r => ⟨c, r⟩))
  rw [is, takeIntoSlot_rings ringing ok admitted, slot]
  obtain ⟨m, none, silent⟩ := answeredBy_moved ⟨p, .handset h, some e.key, true, decide (s.hook p h = .off), .key⟩ ringing ok
    noOffers
  have line (x : LineId) (here : old.source = .line x) :=
    m.others x fun same => apart (by rw [here, same])
  have disposable' : State.disposable _ p h old := fun x here => by
    have := disposable x here
    rw [← line x here] at this
    exact ⟨this.1, noneWaits_congr m.rings (m.frame .speakers (by decide)) this.2.1, this.2.2⟩
  exact ⟨_, _, rfl, (taken_in_place (k := e.key) m slot apart disposable sole other rfl).1, none,
    replaceSlot_silent silent apart disposable'⟩

theorem TakenEmpty.silent {p : PositionId} {h : Handset} {k : Key} {l : LineId} {y : Line} {bs : List NoticeBody}
    {s v w : State} (t : TakenEmpty p h k l y bs s v w) (silent : v.silent l) : ∀ q, ¬(w.position q).rings .ring l := by
  intro q ⟨e, he, is⟩
  rw [t.rings] at he
  exact silent.unrung q ⟨e, he, is⟩

theorem hookOffEvent_answers {s : State} {p : PositionId} {h : Handset} {e : RingEntry} {rest : List RingEntry}
    (on : s.hook p h = .on) (slot : s.slot p h = none) (answers : (s.position p).answerOnLift = true)
    (head : (s.position p).ringQueue = e :: rest) :
    s.hookOffEvent p h = ((s.setPosition p ((s.position p).lifted h)).answerHead p h .turret).1 := by
  simp [State.hookOffEvent, on, slot, answers, head, Position.lifted]

/-- Settles O28: the head's line is taken as a slot change, for ANSWER and for a lift. -/
theorem headAnswered : Obligations.HeadAnswered := by
  refine ⟨fun p h e rest s noOffers up head ringing ok slot room c event => ?_,
    fun p h e rest old s noOffers up head ringing ok selected slot apart room disposable sole other => ?_⟩
  · rcases event with ⟨rfl, rfl⟩ | ⟨rfl, on, answers⟩
    · obtain ⟨v, w, is, taken, none, silent, -⟩ := answers_empty (s := s.takeDelivered p (.func .answer 0 true)) noOffers head
        ringing ok slot room
      obtain ⟨run, t⟩ := turretEvent_end (i := .answer p) up rfl is noOffers taken.frame (.inl (taken.offers.trans none))
      have unrung := taken.silent silent
      obtain ⟨line, others, newSlot, slots, count, -, -, -, -, raised, -, -⟩ := taken
      refine ⟨_, run, (t.ended.line _).trans ?_, fun m ne => (t.ended.line m).trans (others m ne), (t.ended.slot _ _).trans newSlot,
        fun q g ne => (t.ended.slot q g).trans (slots q g ne), t.ended.termCount.trans count, fun q => ?_,
        (fun e => by cases e), t.ended.raised raised, t.delivered, t.same⟩
      · rw [line, show decide (Instr.answer p = Instr.hookOff p (s.selected p)) = false by simp, Bool.false_or]
        rfl
      · rw [t.ended.position]
        exact unrung q
    · obtain ⟨u, hu⟩ : ∃ u, u = (s.takeDelivered p (.hook h .off)).setPosition p ((s.position p).lifted h) := ⟨_, rfl⟩
      have position : u.position p = (s.position p).lifted h := by rw [hu, State.setPosition_position]
      have others : OtherPositions p s u := fun q ne => by rw [hu, State.setPosition_position_ne _ _ ne, takeDelivered_position]
      obtain ⟨hook, selected, slotsU⟩ := lifted_leaves position others
      have written : SameExcept [.positions] (s.takeDelivered p (.hook h .off)) u := hu ▸ setPosition_frame _ p _
      have line (m : LineId) : u.line m = s.line m := lines_of_frame written (by decide) m
      obtain ⟨v, w, is, taken, none, silent, rings⟩ := answers_empty (s := u) (h := h) (e := e) (rest := rest)
        ((written .offers (by decide)).trans noOffers) (by rw [position]; exact (setHandset_ringQueue _ h _).trans head)
        (by rw [line, ringing]) (by rw [line]; exact ok) (by rw [slotsU, slot])
        (by rw [written .termCount (by decide)]; exact room)
      have act : (s.takeDelivered p (.hook h .off)).hookOffEvent p h = w := by
        rw [hookOffEvent_answers (s := s.takeDelivered p (.hook h .off)) on slot answers head, ← is, hu]
        rfl
      have frame : SameExcept [.lines, .positions, .notices, .offers, .termCount] (s.takeDelivered p (.hook h .off)) w :=
        (written.mono (by decide)).trans taken.frame
      obtain ⟨run, t⟩ := turretEvent_end (i := .hookOff p h) up rfl act noOffers frame (.inl (taken.offers.trans none))
      have unrung := taken.silent silent
      have raised : Raised [.lineState e.line .ringing .active] s w :=
        .after (ch := [.links, .positions]) ((takeDelivered_frame s p _).step (ch := [.links, .positions]) written) taken.raised
      obtain ⟨lineW, othersW, newSlot, slots, count, positionW, -, -, -, -, -, -⟩ := taken
      rw [rings p, position] at positionW
      refine ⟨_, run, (t.ended.line _).trans ?_, fun m ne => (t.ended.line m).trans ((othersW m ne).trans (line m)),
        (t.ended.slot _ _).trans newSlot, fun q g ne => (t.ended.slot q g).trans ((slots q g ne).trans (slotsU q g)),
        t.ended.termCount.trans (count.trans ?_), fun q => ?_, fun _ => ⟨?_, ?_⟩, t.ended.raised raised, t.delivered, t.same⟩
      · rw [lineW, line, hook]
        simp [Line.answeredBy]
      · rw [written .termCount (by decide)]
        rfl
      · rw [t.ended.position]
        exact unrung q
      · rw [State.hook, t.ended.position, positionW, setHandset_handset]
        exact congrArg HandsetRecord.hook (lifted_handset (s.position p) h)
      · rw [State.selected, t.ended.position, positionW]
        cases h <;> rfl
  · subst selected
    obtain ⟨v, w, is, taken, none, silent⟩ := answers_in_place (s := s.takeDelivered p (.func .answer 0 true)) noOffers head
      ringing ok slot apart room disposable sole other
    have free : ∀ m ∈ w.offers, w.noneWaits m := fun m hm => by
      rcases taken.offers m hm with here | here
      · rw [none] at here
        cases here
      · exact noneWaits_of taken.linkUp (taken.frame .speakers (by decide)) (disposable m here).2.1
    obtain ⟨run, t⟩ := turretEvent_end (i := .answer p) up rfl is noOffers taken.frame (.inr free)
    obtain ⟨record, away, lines, groups, changed, raised, -, -, -⟩ := taken
    obtain ⟨a, b, c, d, shape⟩ := t.ended.shaped
    have left := (⟨away, lines, groups, changed, silent.unrung, raised⟩ : _ ∧ _ ∧ _ ∧ _ ∧ _ ∧ _)
    refine ⟨_, run, (t.ended.line _).trans record, ?_⟩
    have rest := And.intro t.delivered (t.same (ch' := [.lines, .groups, .positions, .termCount, .directory, .notices, .links,
      .lamps]))
    rw [shape] at rest ⊢
    obtain ⟨away, lines, groups, changed, unrung, raised⟩ := left
    exact ⟨away, lines, groups, changed, unrung, raised, rest⟩

end Sys2Proof.Machine
end

section
/-! PROOFS. Attach opportunities with waiting channels: the takes in order, the first refusal, and every later one (R101). -/

namespace Sys2Proof.Machine

-- One theorem after another: side by side they hold the memory of too many stacks.
set_option Elab.async false

/-! ### What takes leave -/

/-- Line `l` has taken the record `y`, the waiting channels `ws` attached, and the waiting channels `rs` were refused with
`r`. -/
structure Attaches (l : LineId) (ws rs : List (PositionId × ChannelId)) (r : ResultCode) (y : Line) (s t : State) : Prop where
  line : t.line l = y
  others : OtherLines l s t
  attached : ∀ w ∈ ws, t.channel w.1 w.2 = { s.channel w.1 w.2 with attach := .attached, waitReason := none }
  refused : ∀ w ∈ rs, t.channel w.1 w.2 = { s.channel w.1 w.2 with waitReason := some r }
  rest : ∀ w, w ∉ ws → w ∉ rs → t.channel w.1 w.2 = s.channel w.1 w.2
  plans : ∀ p, { t.speaker p with channels := (s.speaker p).channels } = s.speaker p

theorem Attaches.refl (l : LineId) (r : ResultCode) (s : State) : Attaches l [] [] r (s.line l) s s :=
  ⟨rfl, fun _ _ => rfl, fun _ h => (by cases h), fun _ h => (by cases h), fun _ _ _ => rfl, fun _ => rfl⟩

theorem Attaches.trans {l : LineId} {ws rs ws' rs' : List (PositionId × ChannelId)} {r : ResultCode} {y z : Line}
    {s t u : State} (a : Attaches l ws rs r y s t) (b : Attaches l ws' rs' r z t u)
    (apart : ∀ w, w ∈ ws ∨ w ∈ rs → w ∉ ws' ∧ w ∉ rs') : Attaches l (ws ++ ws') (rs ++ rs') r z s u := by
  refine ⟨b.line, fun m ne => (b.others m ne).trans (a.others m ne), fun w hw => ?_, fun w hw => ?_, fun w h1 h2 => ?_,
    fun p => ?_⟩
  · by_cases first : w ∈ ws
    · obtain ⟨h1, h2⟩ := apart w (.inl first)
      rw [b.rest w h1 h2, a.attached w first]
    · have here := (List.mem_append.1 hw).resolve_left first
      rw [b.attached w here, a.rest w first fun h => (apart w (.inr h)).1 here]
  · by_cases first : w ∈ rs
    · obtain ⟨h1, h2⟩ := apart w (.inr first)
      rw [b.rest w h1 h2, a.refused w first]
    · have here := (List.mem_append.1 hw).resolve_left first
      rw [b.refused w here, a.rest w (fun h => (apart w (.inl h)).2 here) first]
  · simp only [List.mem_append, not_or] at h1 h2
    rw [b.rest w h1.2 h2.2, a.rest w h1.1 h2.1]
  · rw [← a.plans p, ← b.plans p]

/-- One channel written after the line. -/
theorem Attaches.of_setChannel {s v : State} {l : LineId} {y : Line} {p : PositionId} {n : ChannelId} (r : ResultCode) (x : Channel)
    (line : v.line l = y) (others : OtherLines l s v) (speakers : v.speakers = s.speakers) :
    (x = { s.channel p n with attach := .attached, waitReason := none } → Attaches l [(p, n)] [] r y s (v.setChannel p n x)) ∧
      (x = { s.channel p n with waitReason := some r } → Attaches l [] [(p, n)] r y s (v.setChannel p n x)) := by
  have written := channel_written (s := s) (t := v.setChannel p n x) (p := p) (n := n) (x := x) (by
    simp only [State.setChannel, State.setSpeaker, State.speaker, speakers])
  obtain ⟨here, elsewhere, channels, plan⟩ := written
  have rest (w : PositionId × ChannelId) (ne : w ≠ (p, n)) : (v.setChannel p n x).channel w.1 w.2 = s.channel w.1 w.2 := by
    obtain ⟨q, m⟩ := w
    by_cases same : q = p
    · subst same
      exact channels m fun e => ne (by rw [e])
    · exact congrArg (fun z : Speaker => z.channels.get m) (elsewhere q same)
  have plans (q : PositionId) : { (v.setChannel p n x).speaker q with channels := (s.speaker q).channels } = s.speaker q := by
    by_cases same : q = p
    · rw [same]
      exact plan
    · rw [elsewhere q same]
  have line' : (v.setChannel p n x).line l = y := line
  have others' : OtherLines l s (v.setChannel p n x) := others
  constructor
  · intro is
    refine ⟨line', others', fun w hw => ?_, fun w hw => (by cases hw), fun w h1 _ => rest w fun e => h1 (by rw [e]; simp), plans⟩
    obtain rfl := List.mem_singleton.1 hw
    exact here.trans is
  · intro is
    refine ⟨line', others', fun w hw => (by cases hw), fun w hw => ?_, fun w _ h2 => rest w fun e => h2 (by rw [e]; simp), plans⟩
    obtain rfl := List.mem_singleton.1 hw
    exact here.trans is

/-! ### One take -/

theorem State.awaits_iff {s : State} {l : LineId} {p : PositionId} {n : ChannelId} : s.awaits l p n = true ↔
    (s.position p).linkUp = true ∧ (s.channel p n).source = some (.line l) ∧ (s.channel p n).attach = .waiting := by
  simp only [State.awaits, Bool.and_eq_true, decide_eq_true_eq, and_assoc]

section
variable {s : State} {l : LineId} {p : PositionId} {n : ChannelId}

theorem sendTake_taken (source : (s.channel p n).source = some (.line l)) (waiting : (s.channel p n).attach = .waiting)
    (judged : judgeTake (s.line l) (speakerTake p n (s.channel p n).talkback) = .ok) : State.sendTake p s n =
      (s.moveLine l ((s.line l).afterTake (s.startTimer .burst) (speakerTake p n (s.channel p n).talkback))).setChannel p n
        { s.channel p n with attach := .attached, waitReason := none } := by
  simp only [State.sendTake, source, waiting, if_true, take_ok s judged]

theorem sendTake_refused {r : ResultCode} (source : (s.channel p n).source = some (.line l))
    (waiting : (s.channel p n).attach = .waiting) (ne : r ≠ .ok)
    (judged : judgeTake (s.line l) (speakerTake p n (s.channel p n).talkback) = r) :
    State.sendTake p s n = s.setChannel p n { s.channel p n with waitReason := some r } := by
  have refused : s.take l (speakerTake p n (s.channel p n).talkback) = (s, r) := by
    rw [take_refused s (by rw [judged]; exact ne), judged]
  simp only [State.sendTake, source, waiting, if_true, refused]

theorem partyOf_speakerTake (s : State) (p : PositionId) (n : ChannelId) :
    (speakerTake p n (s.channel p n).talkback).party = s.partyOf (p, n) := rfl

/-- A channel that no party of the line is joins an OPEN call with room (R14). -/
theorem judgeTake_speaker_ok {x : Line} {v : Bool} (inCall : x.state = .calling ∨ x.state = .active)
    (unseated : x.party? p (.channel n) = none) (barge : x.barge = .openPolicy) (shared : x.privacy = false)
    (room : x.parties.length < 8) : judgeTake x (speakerTake p n v) = .ok := by
  have full : ¬8 ≤ x.parties.length := by omega
  have judged : judgeBarge x (speakerTake p n v) = .ok := by
    simp [judgeBarge, speakerTake, unseated, barge, shared, Path.isHandset, Config.maxParties, full]
  rcases inCall with e | e <;> simp only [judgeTake, e, judged]

/-- A channel that no party of the line is, is refused on a CLOSED call and on a full one (R14). -/
theorem judgeTake_speaker_refused {x : Line} {v : Bool} {r : ResultCode} (inCall : x.state = .calling ∨ x.state = .active)
    (unseated : x.party? p (.channel n) = none) (refused : x.barge = .closed ∧ r = .deniedClosed ∨
      x.barge = .openPolicy ∧ x.privacy = false ∧ 8 ≤ x.parties.length ∧ r = .lineFull) :
    judgeTake x (speakerTake p n v) = r := by
  have judged : judgeBarge x (speakerTake p n v) = r := by
    rcases refused with ⟨barge, rfl⟩ | ⟨barge, shared, full, rfl⟩
    · simp [judgeBarge, speakerTake, unseated, barge]
    · simp [judgeBarge, speakerTake, unseated, barge, shared, Path.isHandset, Config.maxParties, full]
  rcases inCall with e | e <;> simp only [judgeTake, e, judged]

/-- A take that joins writes the record and the channel. -/
theorem sendTake_joins (r : ResultCode) (waits : s.awaits l p n = true)
    (inCall : (s.line l).state = .calling ∨ (s.line l).state = .active)
    (unseated : (s.line l).party? p (.channel n) = none) (barge : (s.line l).barge = .openPolicy)
    (shared : (s.line l).privacy = false) (room : (s.line l).parties.length < 8) :
    Attaches l [(p, n)] [] r { s.line l with parties := (s.line l).parties ++ [s.partyOf (p, n)] } s (State.sendTake p s n) ∧
      SameExcept [.lines, .speakers] s (State.sendTake p s n) := by
  obtain ⟨-, source, waiting⟩ := State.awaits_iff.1 waits
  have judged := judgeTake_speaker_ok (v := (s.channel p n).talkback) inCall unseated barge shared room
  have after : (s.line l).afterTake (s.startTimer .burst) (speakerTake p n (s.channel p n).talkback) =
      { s.line l with parties := (s.line l).parties ++ [s.partyOf (p, n)] } := by
    rcases inCall with e | e <;> simp only [Line.afterTake, e, partyOf_speakerTake]
  have unoffered : offersAttach (s.line l) { s.line l with parties := (s.line l).parties ++ [s.partyOf (p, n)] } = false := by
    refine offersAttach_none ?_ ?_ id (fun e => ?_) (fun _ => ?_) id
    · rcases inCall with e | e <;> simp [e]
    · rcases inCall with e | e <;> simp [e]
    · simp only [List.length_append, List.length_cons, List.length_nil] at e
      omega
    · rcases inCall with e | e <;> simp [e]
  have quiet := fun state => moveLine_quiet s l _ state unoffered
  rw [sendTake_taken source waiting judged, after, quiet rfl]
  exact ⟨(Attaches.of_setChannel r _ (State.setLine_line s l _) (fun m ne => State.setLine_line_ne s _ ne) rfl).1 rfl,
    (setLine_frame s l _).step (setChannel_frame _ p n _)⟩

theorem sendTake_turned_away {r : ResultCode} (waits : s.awaits l p n = true) (ne : r ≠ .ok)
    (judged : judgeTake (s.line l) (speakerTake p n (s.channel p n).talkback) = r) :
    Attaches l [] [(p, n)] r (s.line l) s (State.sendTake p s n) ∧ SameExcept [.lines, .speakers] s (State.sendTake p s n) := by
  obtain ⟨-, source, waiting⟩ := State.awaits_iff.1 waits
  rw [sendTake_refused source waiting ne judged]
  exact ⟨(Attaches.of_setChannel r _ rfl (fun _ _ => rfl) rfl).2 rfl, (setChannel_frame s p n _).mono⟩

end

/-! ### The takes of an opportunity -/

/-- The takes of the channels `ws`, in order. -/
def State.takesOf (s : State) (ws : List (PositionId × ChannelId)) : State :=
  ws.foldl (fun s w => State.sendTake w.1 s w.2) s

theorem party?_append {x : Line} {ps : List Party} {p : PositionId} {path : Path} (unseated : x.party? p path = none)
    (apart : ∀ y ∈ ps, ¬(y.position = p ∧ y.path = path)) : Line.party? { x with parties := x.parties ++ ps } p path = none := by
  rw [Line.party?_eq_none] at unseated ⊢
  rintro ⟨y, hy, is⟩
  rcases List.mem_append.1 hy with h | h
  · exact unseated ⟨y, h, is⟩
  · exact apart y h is

theorem partyOf_apart {s : State} {v w : PositionId × ChannelId} (ne : v ≠ w) :
    ¬((s.partyOf w).position = v.1 ∧ (s.partyOf w).path = .channel v.2) := by
  rintro ⟨position, path⟩
  exact ne (Prod.ext position.symm (Path.channel.inj path).symm)

/-- Channels that wait for an OPEN call with room for all of them join it, in order (R14, R101). -/
theorem takesOf_join {l : LineId} (r : ResultCode) (ws : List (PositionId × ChannelId)) (s : State) (distinct : ws.Nodup)
    (waits : ∀ w ∈ ws, s.awaits l w.1 w.2 = true) (inCall : (s.line l).state = .calling ∨ (s.line l).state = .active)
    (barge : (s.line l).barge = .openPolicy) (shared : (s.line l).privacy = false)
    (room : (s.line l).parties.length + ws.length ≤ 8)
    (unseated : ∀ w ∈ ws, (s.line l).party? w.1 (.channel w.2) = none) :
    Attaches l ws [] r { s.line l with parties := (s.line l).parties ++ ws.map s.partyOf } s (s.takesOf ws) ∧
      SameExcept [.lines, .speakers] s (s.takesOf ws) := by
  induction ws generalizing s with
  | nil =>
    refine ⟨?_, .refl _ s⟩
    rw [List.map_nil, List.append_nil]
    exact .refl l r s
  | cons w ws ih =>
    obtain ⟨fresh, distinct⟩ := List.nodup_cons.1 distinct
    rw [List.length_cons] at room
    obtain ⟨first, frame⟩ := sendTake_joins r (waits w List.mem_cons_self) inCall (unseated w List.mem_cons_self) barge shared
      (by omega)
    have other (v : PositionId × ChannelId) (hv : v ∈ ws) : v ≠ w := fun e => fresh (e ▸ hv)
    have channel (v : PositionId × ChannelId) (hv : v ∈ ws) := first.rest v (by simpa using other v hv) (by simp)
    have party (v : PositionId × ChannelId) (hv : v ∈ ws) : (State.sendTake w.1 s w.2).partyOf v = s.partyOf v := by
      simp only [State.partyOf, channel v hv]
    have positions : (State.sendTake w.1 s w.2).positions = s.positions := frame .positions (by decide)
    obtain ⟨s1, hs⟩ : ∃ s1, s1 = State.sendTake w.1 s w.2 := ⟨_, rfl⟩
    rw [← hs] at first frame channel party positions
    have line := first.line
    obtain ⟨rest, frame'⟩ := ih s1 distinct (fun v hv => by
        rw [State.awaits, channel v hv, State.position, positions]
        exact waits v (List.mem_cons_of_mem _ hv)) (by rw [line]; exact inCall) (by rw [line]; exact barge)
      (by rw [line]; exact shared) (by rw [line]; simp only [List.length_append, List.length_cons, List.length_nil]; omega)
      (fun v hv => by
        rw [line]
        refine party?_append (unseated v (List.mem_cons_of_mem _ hv)) fun y hy => ?_
        obtain rfl := List.mem_singleton.1 hy
        exact partyOf_apart (other v hv))
    have is : s.takesOf (w :: ws) = s1.takesOf ws := by rw [hs]; rfl
    rw [is]
    refine ⟨?_, frame.trans frame'⟩
    have both := first.trans rest fun v hv => by
      rcases hv with hv | hv
      · obtain rfl := List.mem_singleton.1 hv
        exact ⟨fresh, by simp⟩
      · cases hv
    rw [line] at both
    rw [List.map_congr_left party, List.append_assoc] at both
    exact both

/-- Channels that a line refuses keep waiting with the refusal (R101). -/
theorem takesOf_refused {l : LineId} {r : ResultCode} (ne : r ≠ .ok) (rs : List (PositionId × ChannelId)) (s : State)
    (distinct : rs.Nodup) (waits : ∀ w ∈ rs, s.awaits l w.1 w.2 = true)
    (refused : ∀ w ∈ rs, ∀ v, judgeTake (s.line l) (speakerTake w.1 w.2 v) = r) :
    Attaches l [] rs r (s.line l) s (s.takesOf rs) ∧ SameExcept [.lines, .speakers] s (s.takesOf rs) := by
  induction rs generalizing s with
  | nil => exact ⟨.refl l r s, .refl _ s⟩
  | cons w rs ih =>
    obtain ⟨fresh, distinct⟩ := List.nodup_cons.1 distinct
    obtain ⟨first, frame⟩ := sendTake_turned_away (waits w List.mem_cons_self) ne (refused w List.mem_cons_self _)
    have channel (v : PositionId × ChannelId) (hv : v ∈ rs) :=
      first.rest v (by simp) (by simpa using fun e : v = w => fresh (e ▸ hv))
    have positions : (State.sendTake w.1 s w.2).positions = s.positions := frame .positions (by decide)
    obtain ⟨s1, hs⟩ : ∃ s1, s1 = State.sendTake w.1 s w.2 := ⟨_, rfl⟩
    rw [← hs] at first frame channel positions
    obtain ⟨rest, frame'⟩ := ih s1 distinct (fun v hv => by
        rw [State.awaits, channel v hv, State.position, positions]
        exact waits v (List.mem_cons_of_mem _ hv))
      (fun v hv => by rw [first.line]; exact refused v (List.mem_cons_of_mem _ hv))
    have is : s.takesOf (w :: rs) = s1.takesOf rs := by rw [hs]; rfl
    rw [is]
    refine ⟨?_, frame.trans frame'⟩
    have both := first.trans rest fun v hv => by
      rcases hv with hv | hv
      · cases hv
      · obtain rfl := List.mem_singleton.1 hv
        exact ⟨by simp, fresh⟩
    rw [first.line] at both
    exact both

end Sys2Proof.Machine
end

section
/-! PROOFS. An attach opportunity as a whole, at the end of the event that offers it; and the attaches after link UP (R101,
R102). -/

namespace Sys2Proof.Machine

-- One theorem after another: side by side they hold the memory of too many stacks.
set_option Elab.async false

/-! ### The waiting channels -/

section
variable {s t : State} {l : LineId}

theorem mem_waiters {w : PositionId × ChannelId} : w ∈ s.waiters l ↔ s.awaits l w.1 w.2 = true := by
  obtain ⟨p, n⟩ := w
  simp only [State.waiters, List.mem_flatMap, List.mem_map, List.mem_filter]
  constructor
  · rintro ⟨q, -, m, ⟨-, waits⟩, e⟩
    obtain ⟨rfl, rfl⟩ := Prod.mk.inj e
    exact waits
  · exact fun waits => ⟨p, List.mem_finRange p, n, ⟨List.mem_finRange n, waits⟩, rfl⟩

theorem waiters_nodup (s : State) (l : LineId) : (s.waiters l).Nodup := by
  have pick : s.waiters l =
      ((ascending 32).flatMap fun p => (ascending 8).map fun n => (p, n)).filter fun w => s.awaits l w.1 w.2 := by
    simp only [State.waiters, List.filter_flatMap, List.filter_map, Function.comp_def]
  rw [pick]
  exact List.Nodup.filter _ (by decide +kernel)

theorem waiters_congr (up : ∀ q, (t.position q).linkUp = (s.position q).linkUp) (speakers : t.speakers = s.speakers) :
    t.waiters l = s.waiters l := by
  have waits (p : PositionId) (n : ChannelId) : t.awaits l p n = s.awaits l p n := by
    rw [State.awaits, up, State.channel, State.speaker, speakers]
    rfl
  simp only [State.waiters, waits]

theorem partyOf_congr (speakers : t.speakers = s.speakers) (w : PositionId × ChannelId) : t.partyOf w = s.partyOf w := by
  simp only [State.partyOf, State.channel, State.speaker, speakers]

/-- A waiting channel is no party of any line. -/
theorem State.attachAgree.unseated (agree : s.attachAgree) {w : PositionId × ChannelId} (waits : s.awaits l w.1 w.2 = true) :
    (s.line l).party? w.1 (.channel w.2) = none := by
  obtain ⟨-, -, waiting⟩ := State.awaits_iff.1 waits
  rw [Line.party?_eq_none]
  intro seated
  obtain ⟨-, attached⟩ := (agree w.1 w.2 l).1 seated
  rw [waiting] at attached
  cases attached

end

/-! ### The takes of a line in a call -/

/-- The waiting channels of a call: as many as it has room for join, and every later one is refused (R14, R101). -/
theorem takesOf_call {l : LineId} {room : Nat} {r : ResultCode} (ws : List (PositionId × ChannelId)) (s : State)
    (distinct : ws.Nodup) (waits : ∀ w ∈ ws, s.awaits l w.1 w.2 = true)
    (inCall : (s.line l).state = .calling ∨ (s.line l).state = .active) (shared : (s.line l).privacy = false)
    (few : (s.line l).parties.length ≤ 8) (unseated : ∀ w ∈ ws, (s.line l).party? w.1 (.channel w.2) = none)
    (which : (s.line l).barge = .openPolicy ∧ room = 8 - (s.line l).parties.length ∧ r = .lineFull ∨
      (s.line l).barge = .closed ∧ room = 0 ∧ r = .deniedClosed) :
    Attaches l (ws.take room) (ws.drop room) r
        { s.line l with parties := (s.line l).parties ++ (ws.take room).map s.partyOf } s (s.takesOf ws) ∧
      SameExcept [.lines, .speakers] s (s.takesOf ws) := by
  rcases which with ⟨barge, rfl, rfl⟩ | ⟨barge, rfl, rfl⟩
  · obtain ⟨room, hroom⟩ : ∃ room, room = 8 - (s.line l).parties.length := ⟨_, rfl⟩
    rw [← hroom]
    have split : s.takesOf ws = (s.takesOf (ws.take room)).takesOf (ws.drop room) := by
      rw [State.takesOf, State.takesOf, State.takesOf, ← List.foldl_append, List.take_append_drop]
    have apart : ∀ w ∈ ws.take room, w ∉ ws.drop room := fun w h1 h2 => by
      have := distinct
      rw [← List.take_append_drop room ws, List.nodup_append] at this
      exact this.2.2 w h1 w h2 rfl
    have length : (ws.take room).length ≤ room := List.length_take_le _ _
    obtain ⟨joined, frame⟩ := takesOf_join .lineFull (ws.take room) s (distinct.sublist (List.take_sublist _ _))
      (fun w hw => waits w (List.mem_of_mem_take hw)) inCall barge shared (by omega)
      (fun w hw => unseated w (List.mem_of_mem_take hw))
    obtain ⟨s1, hs⟩ : ∃ s1, s1 = s.takesOf (ws.take room) := ⟨_, rfl⟩
    rw [split, ← hs]
    rw [← hs] at joined frame
    have line := joined.line
    have positions : s1.positions = s.positions := frame .positions (by decide)
    obtain ⟨turned, frame'⟩ := takesOf_refused (r := .lineFull) (by simp) (ws.drop room) s1
      (distinct.sublist (List.drop_sublist _ _)) (fun w hw => by
        have channel := joined.rest w (fun h => apart w h hw) (by simp)
        rw [State.awaits, channel, State.position, positions]
        exact waits w (List.mem_of_mem_drop hw)) (fun w hw v => by
        rw [line]
        refine judgeTake_speaker_refused inCall (party?_append (unseated w (List.mem_of_mem_drop hw)) fun y hy => ?_)
          (.inr ⟨barge, shared, ?_, rfl⟩)
        · obtain ⟨z, hz, rfl⟩ := List.mem_map.1 hy
          exact partyOf_apart fun e => apart z hz (e ▸ hw)
        · have more : 0 < (ws.drop room).length := List.length_pos_of_mem hw
          rw [List.length_drop] at more
          simp only [List.length_append, List.length_map, List.length_take]
          omega)
    have both := joined.trans turned fun w hw => by
      rcases hw with hw | hw
      · exact ⟨by simp, apart w hw⟩
      · cases hw
    rw [List.append_nil, List.nil_append, line] at both
    exact ⟨both, frame.trans frame'⟩
  · obtain ⟨turned, frame⟩ := takesOf_refused (r := .deniedClosed) (by simp) ws s distinct waits fun w hw v =>
      judgeTake_speaker_refused inCall (unseated w hw) (.inl ⟨barge, rfl⟩)
    refine ⟨?_, frame⟩
    rw [List.take_zero, List.drop_zero, List.map_nil, List.append_nil]
    exact turned

/-! ### The takes of a line without parties -/

section
variable {s : State} {l : LineId} {p : PositionId} {n : ChannelId}

/-- The first take of an IDLE or RINGING line makes it ACTIVE with that channel as the one party and no burst (R12, R13). -/
theorem sendTake_first (r : ResultCode) (waits : s.awaits l p n = true) (fresh : (s.line l).state = .idle ∨ (s.line l).state = .ringing)
    (empty : (s.line l).parties = []) (shared : (s.line l).privacy = false) (noOffers : s.offers = []) :
    Attaches l [(p, n)] [] r ((s.line l).answeredBy (s.partyOf (p, n))) s (State.sendTake p s n) ∧
      Raised [.lineState l (s.line l).state .active] s (State.sendTake p s n) ∧ OnlyRings s (State.sendTake p s n) ∧
      ((s.line l).state = .idle → (State.sendTake p s n).positions = s.positions) ∧
      ((s.line l).state = .ringing → ∀ q, ¬((State.sendTake p s n).position q).rings .ring l) ∧
      SameExcept [.lines, .positions, .notices, .speakers] s (State.sendTake p s n) := by
  obtain ⟨-, source, waiting⟩ := State.awaits_iff.1 waits
  have judged : judgeTake (s.line l) (speakerTake p n (s.channel p n).talkback) = .ok := by
    rcases fresh with e | e <;> simp only [judgeTake, e]
  have after : (s.line l).afterTake (s.startTimer .burst) (speakerTake p n (s.channel p n).talkback) =
      (s.line l).answeredBy (s.partyOf (p, n)) := by
    have quiet : ringsOut (s.line l) (speakerTake p n (s.channel p n).talkback) = false := by
      simp [ringsOut, speakerTake, Path.isHandset]
    rcases fresh with e | e <;>
      simp [Line.afterTake, e, quiet, partyOf_speakerTake, Line.answeredBy, shared]
  have ne : (s.line l).state ≠ .active := by rcases fresh with e | e <;> simp [e]
  have unoffered : offersAttach (s.line l) ((s.line l).answeredBy (s.partyOf (p, n))) = false :=
    offersAttach_none (fun e => by cases e) (fun e => by cases e) id (by simp [empty])
      (fun _ => by rcases fresh with e | e <;> simp [e]) id
  have m := (moveLine_moved s l ((s.line l).answeredBy (s.partyOf (p, n)))).state_ne ne
  have none := moveLine_no_offer noOffers unoffered
  have calm : (s.line l).state = .idle → (s.moveLine l ((s.line l).answeredBy (s.partyOf (p, n)))).positions = s.positions :=
    fun idle => moveLine_positions_calm (by rw [idle]; rfl) rfl
  have unrung : (s.line l).state = .ringing →
      ∀ q, ¬((s.moveLine l ((s.line l).answeredBy (s.partyOf (p, n)))).position q).rings .ring l :=
    fun ringing => moveLine_unrung ringing rfl
  rw [sendTake_taken source waiting judged, after]
  generalize s.moveLine l ((s.line l).answeredBy (s.partyOf (p, n))) = v at m none calm unrung ⊢
  have set := setChannel_frame v p n { s.channel p n with attach := .attached, waitReason := Option.none }
  refine ⟨(Attaches.of_setChannel r _ m.line m.others (m.frame .speakers (by decide))).1 rfl, m.raised.then set,
    m.rings.trans (.of_positions (set .positions (by decide))), calm, unrung, ?_⟩
  refine SameExcept.narrow (ch := [.lines, .positions, .notices, .speakers, .offers])
    ((m.frame.mono (by decide)).trans (set.mono (by decide))) fun q hq hn => ?_
  cases q <;> first | exact absurd (by decide) hn | exact none.trans noOffers.symm | exact absurd hq (by decide)

end

/-- The takes of an IDLE or RINGING line: the first makes the call, and the others find it as it is (R12, R13, R101). -/
theorem takesOf_fresh {l : LineId} {room : Nat} {r : ResultCode} {ws : List (PositionId × ChannelId)} {s : State}
    (some_ : ws ≠ []) (distinct : ws.Nodup) (waits : ∀ w ∈ ws, s.awaits l w.1 w.2 = true)
    (fresh : (s.line l).state = .idle ∨ (s.line l).state = .ringing) (empty : (s.line l).parties = [])
    (shared : (s.line l).privacy = false) (noOffers : s.offers = [])
    (which : (s.line l).barge = .openPolicy ∧ room = 8 ∧ r = .lineFull ∨
      (s.line l).barge = .closed ∧ room = 1 ∧ r = .deniedClosed) :
    Attaches l (ws.take room) (ws.drop room) r { s.line l with
        state := .active, parties := (ws.take room).map s.partyOf, missed := 0, sz := true, rg := false
        timer := none } s (s.takesOf ws) ∧
      Raised [.lineState l (s.line l).state .active] s (s.takesOf ws) ∧ OnlyRings s (s.takesOf ws) ∧
      ((s.line l).state = .idle → (s.takesOf ws).positions = s.positions) ∧
      ((s.line l).state = .ringing → ∀ q, ¬((s.takesOf ws).position q).rings .ring l) ∧
      SameExcept [.lines, .positions, .notices, .speakers] s (s.takesOf ws) := by
  obtain ⟨w, ws, rfl⟩ := List.exists_cons_of_ne_nil some_
  obtain ⟨new, distinct⟩ := List.nodup_cons.1 distinct
  obtain ⟨first, raised, rings, calm, unrung, frame⟩ := sendTake_first r (waits w List.mem_cons_self) fresh empty shared noOffers
  have other (v : PositionId × ChannelId) (hv : v ∈ ws) : v ≠ w := fun e => new (e ▸ hv)
  have channel (v : PositionId × ChannelId) (hv : v ∈ ws) := first.rest v (by simpa using other v hv) (by simp)
  have party (v : PositionId × ChannelId) (hv : v ∈ ws) : (State.sendTake w.1 s w.2).partyOf v = s.partyOf v := by
    simp only [State.partyOf, channel v hv]
  obtain ⟨s1, hs⟩ : ∃ s1, s1 = State.sendTake w.1 s w.2 := ⟨_, rfl⟩
  rw [← hs] at first raised rings calm unrung frame channel party
  have line := first.line
  obtain ⟨rest, frame'⟩ := takesOf_call (l := l) (room := room - 1) (r := r) ws s1 distinct (fun v hv => by
      rw [State.awaits, channel v hv, rings.linkUp]
      exact waits v (List.mem_cons_of_mem _ hv)) (by rw [line]; exact .inr rfl) (by rw [line]; exact shared)
    (by rw [line]; simp [Line.answeredBy]) (fun v hv => by
      rw [line, Line.party?_eq_none]
      rintro ⟨y, hy, is⟩
      obtain rfl := List.mem_singleton.1 hy
      exact partyOf_apart (other v hv) is) (by
      rw [line]
      rcases which with ⟨barge, rfl, rfl⟩ | ⟨barge, rfl, rfl⟩
      · exact .inl ⟨barge, rfl, rfl⟩
      · exact .inr ⟨barge, rfl, rfl⟩)
  have is : s.takesOf (w :: ws) = s1.takesOf ws := by rw [hs]; rfl
  have positions : (s1.takesOf ws).positions = s1.positions := frame' .positions (by decide)
  rw [is]
  refine ⟨?_, raised.then frame', rings.trans (.of_positions positions), fun idle => positions.trans (calm idle),
    fun ringing q => ?_, frame.trans (frame'.mono (by decide))⟩
  · have both := first.trans rest fun v hv => by
      rcases hv with hv | hv
      · obtain rfl := List.mem_singleton.1 hv
        exact ⟨fun h => new (List.mem_of_mem_take h), fun h => new (List.mem_of_mem_drop h)⟩
      · cases hv
    rw [line, List.map_congr_left fun v hv => party v (List.mem_of_mem_take hv)] at both
    obtain ⟨less, hroom⟩ : ∃ less, room = less + 1 := by
      rcases which with ⟨-, rfl, -⟩ | ⟨-, rfl, -⟩
      · exact ⟨7, rfl⟩
      · exact ⟨0, rfl⟩
    subst hroom
    rw [Nat.add_sub_cancel] at both
    rw [List.take_succ_cons, List.drop_succ_cons, List.map_cons]
    exact both
  · rw [State.position, positions]
    exact unrung ringing q

/-! ### The opportunity at the end of its event -/

/-- The one opportunity of an event is taken, and then the event ends with its lamps (R8, R101). -/
theorem finish_opportunity {w : State} {l : LineId} (offers : w.offers = [l]) :
    Ended (({ w with offers := [] } : State).takesOf (w.waiters l)) w.finish := by
  have is : ({ w with offers := [] } : State).takesOf (w.waiters l) = ({ w with offers := [] } : State).attachOpportunity l :=
    (attachOpportunity_waiters { w with offers := [] } l).symm
  rw [is]
  have finish : w.finish = ({ ({ w with offers := [] } : State).attachOpportunity l with offers := [] } : State).sendLamps := by
    rw [State.finish, State.takeOffers, offers, List.foldl_cons, List.foldl_nil]
  rw [finish]
  generalize ({ w with offers := [] } : State).attachOpportunity l = u
  refine ⟨?_, sendLamps_queues { u with offers := [] }, rfl⟩
  intro q hq
  cases q <;> first | rfl | simp at hq

theorem Attaches.inOrder {l : LineId} {room : Nat} {r : ResultCode} {y : Line} {s t : State}
    (a : Attaches l ((s.waiters l).take room) ((s.waiters l).drop room) r y s t) : AttachedInOrder l room r s t :=
  ⟨a.attached, a.refused, fun p n out => a.rest (p, n) (fun h => out (List.mem_of_mem_take h))
    fun h => out (List.mem_of_mem_drop h), a.plans⟩

/-- The takes seen from before the event that offered them and from its end. -/
theorem Attaches.around {l : LineId} {ws rs : List (PositionId × ChannelId)} {r : ResultCode} {y : Line} {s b a t : State}
    (takes : Attaches l ws rs r y b a) (others : OtherLines l s b) (speakers : b.speakers = s.speakers) (e : Ended a t) :
    Attaches l ws rs r y s t := by
  have channel (p : PositionId) (n : ChannelId) : b.channel p n = s.channel p n := by
    rw [State.channel, State.speaker, speakers]
    rfl
  have speaker (p : PositionId) : b.speaker p = s.speaker p := by
    rw [State.speaker, speakers]
    rfl
  refine ⟨(e.line l).trans takes.line, fun m ne => (e.line m).trans ((takes.others m ne).trans (others m ne)), fun w hw => ?_,
    fun w hw => ?_, fun w h1 h2 => ?_, fun p => ?_⟩
  · rw [e.channel, takes.attached w hw, channel]
  · rw [e.channel, takes.refused w hw, channel]
  · rw [e.channel, takes.rest w h1 h2, channel]
  · have := takes.plans p
    rw [speaker] at this
    rw [e.speaker]
    exact this

end Sys2Proof.Machine
end

section
/-! PROOFS. Waiting channels take their line: after link UP, at the end of GUARD, and when privacy goes off (R8, R101, R102). -/

namespace Sys2Proof.Machine

-- One theorem after another: side by side they hold the memory of too many stacks.
set_option Elab.async false

/-! ### After link UP -/

/-- A list of steps of which one alone does anything. -/
theorem foldl_only {α : Type} {f : State → α → State} {a : α} {s : State} (before : ∀ b, b ≠ a → f s b = s)
    (after : ∀ b, b ≠ a → f (f s a) b = f s a) (xs : List α) (distinct : xs.Nodup) (mem : a ∈ xs) : xs.foldl f s = f s a := by
  induction xs with
  | nil => cases mem
  | cons x xs ih =>
    obtain ⟨fresh, distinct⟩ := List.nodup_cons.1 distinct
    rw [List.foldl_cons]
    by_cases e : x = a
    · subst e
      have still : ∀ ys : List α, x ∉ ys → ys.foldl f (f s x) = f s x := by
        intro ys
        induction ys with
        | nil => exact fun _ => rfl
        | cons y ys ih =>
          intro out
          rw [List.foldl_cons, after y fun e => out (by rw [e]; simp)]
          exact ih fun h => out (List.mem_cons_of_mem _ h)
      exact still xs fresh
    · rw [before x e]
      exact ih distinct ((List.mem_cons.1 mem).resolve_left fun h => e h.symm)

theorem sendTake_calm {s : State} {p : PositionId} {n : ChannelId} (calm : (s.channel p n).attach ≠ .waiting) :
    State.sendTake p s n = s := by
  unfold State.sendTake
  dsimp only
  split
  · rw [if_neg calm]
  · rfl
  · rfl

theorem linkUpTakes_one {s : State} {p : PositionId} {n : ChannelId} (up : (s.position p).linkUp = true)
    (only : ∀ m, m ≠ n → (s.channel p m).attach ≠ .waiting) : s.linkUpTakes p = State.sendTake p s n := by
  rw [State.linkUpTakes, if_pos up]
  refine foldl_only (fun m ne => sendTake_calm (only m ne)) (fun m ne => sendTake_calm ?_) _ (List.nodup_finRange 8)
    (List.mem_finRange n)
  rw [sendTake_channel_ne s (by simpa using ne)]
  exact only m ne

/-- One attach changes no other channel, plan or step. -/
theorem Attaches.others_of_one {l : LineId} {p : PositionId} {n : ChannelId} {r : ResultCode} {y : Line} {s t : State}
    (a : Attaches l [(p, n)] [] r y s t) : OtherChannels p n s t := by
  have rest (q : PositionId) (m : ChannelId) (ne : (q, m) ≠ (p, n)) : t.channel q m = s.channel q m :=
    a.rest (q, m) (by simpa using ne) (by simp)
  refine ⟨fun q ne => ?_, fun m ne => rest p m (by simpa using ne), a.plans p⟩
  have channels : (t.speaker q).channels = (s.speaker q).channels :=
    Table.ext_get fun m => rest q m fun e => ne (Prod.mk.inj e).1
  rw [← a.plans q, ← channels]

/-! ### Moves that offer the opportunity -/

theorem moveLine_offered {s : State} {l : LineId} {x : Line} (noOffers : s.offers = []) (offered : offersAttach (s.line l) x = true) :
    (s.moveLine l x).offers = [l] := by
  rw [moveLine_offers, if_pos offered, noOffers]
  rfl

/-- A line without parties that has entered IDLE or RINGING, at the end of its event: the waiting channels have taken it
(R10, R12, R13, R101). -/
theorem MovedLine.taken_up {l : LineId} {y : Line} {bs : List NoticeBody} {u w : State} (m : MovedLine l y bs u w)
    (offers : w.offers = [l]) {room : Nat} {r : ResultCode} (waiting : u.waiters l ≠ [])
    (fresh : y.state = .idle ∨ y.state = .ringing) (empty : y.parties = []) (shared : y.privacy = false)
    (which : y.barge = .openPolicy ∧ room = 8 ∧ r = .lineFull ∨ y.barge = .closed ∧ room = 1 ∧ r = .deniedClosed) :
    Attaches l ((u.waiters l).take room) ((u.waiters l).drop room) r { y with
        state := .active, parties := ((u.waiters l).take room).map u.partyOf, missed := 0, sz := true, rg := false
        timer := none } u w.finish ∧
      Raised (bs ++ [.lineState l y.state .active]) u w.finish ∧ OnlyRings u w.finish ∧ OnlyLampQueues u w.finish ∧
      (y.state = .idle → w.finish.positions = w.positions) ∧
      (y.state = .ringing → ∀ q, ¬(w.finish.position q).rings .ring l) ∧
      SameExcept [.lines, .positions, .notices, .speakers, .offers, .links, .lamps] u w.finish := by
  have e := finish_opportunity offers
  have ws : w.waiters l = u.waiters l := waiters_congr m.rings.linkUp (m.frame .speakers (by decide))
  obtain ⟨b, hb⟩ : ∃ b : State, b = { w with offers := [] } := ⟨_, rfl⟩
  have opened : SameExcept [.offers] w b := by
    rw [hb]
    intro q hq
    cases q <;> first | rfl | simp at hq
  have speakers : b.speakers = u.speakers := (opened .speakers (by decide)).trans (m.frame .speakers (by decide))
  have rings : OnlyRings u b := m.rings.trans (.of_positions (opened .positions (by decide)))
  have line : b.line l = y := (lines_of_frame opened (by decide) l).trans m.line
  have others : OtherLines l u b := fun k ne => (lines_of_frame opened (by decide) k).trans (m.others k ne)
  rw [← hb, ws] at e
  obtain ⟨takes, raised, rings', calm, unrung, frame⟩ := takesOf_fresh (s := b) (room := room) (r := r) waiting
    (waiters_nodup u l) (fun v hv => by
      rw [State.awaits, rings.linkUp, State.channel, State.speaker, speakers]
      exact mem_waiters.1 hv) (by rw [line]; exact fresh) (by rw [line]; exact empty) (by rw [line]; exact shared)
    (by rw [hb]) (by rw [line]; exact which)
  rw [line] at takes raised calm unrung
  rw [List.map_congr_left fun v _ => partyOf_congr speakers v] at takes
  have linkFrame : SameExcept [.lines, .positions, .notices, .speakers, .offers] u (b.takesOf (u.waiters l)) :=
    ((m.frame.mono (by decide)).trans (opened.mono (by decide))).trans (frame.mono (by decide))
  refine ⟨takes.around others speakers e, e.raised ((m.raised.then opened).trans raised (frame .clock (by decide))),
    (rings.trans rings').trans (.of_positions e.positions), e.onlyLampQueues (linkFrame .links (by decide)),
    fun idle => e.positions.trans ((calm idle).trans (opened .positions (by decide))), fun ringing q => ?_,
    (linkFrame.mono (by decide)).trans (e.frame.mono (by decide))⟩
  rw [e.position]
  exact unrung ringing q

/-- A turret event at a position whose link is UP runs its interpretation and ends. -/
theorem turretEvent_runs {i : Instr} {s : State} {p : PositionId} {ev : TurretEvent} {act : State → State} {w : State}
    (up : (s.position p).linkUp = true) (run : exec i s = .next (s.turretEvent p ev act))
    (is : act (s.takeDelivered p ev) = w) : exec i s = .next w.finish := by
  rw [run]
  congr 1
  show (if (s.position p).linkUp = true then (act (s.takeDelivered p ev)).finish else _) = _
  rw [if_pos up, is]

/-- A call that offers its opportunity, at the end of its event: the waiting channels have joined while there was room
(R14, R101). -/
theorem call_taken_up {l : LineId} {s w : State} {y : Line} (line : w.line l = y) (offers : w.offers = [l]) {room : Nat}
    {r : ResultCode} (others : OtherLines l s w) (up : ∀ q, (w.position q).linkUp = (s.position q).linkUp)
    (speakers : w.speakers = s.speakers) (inCall : y.state = .calling ∨ y.state = .active) (shared : y.privacy = false)
    (few : y.parties.length ≤ 8) (unseated : ∀ v ∈ s.waiters l, y.party? v.1 (.channel v.2) = none)
    (which : y.barge = .openPolicy ∧ room = 8 - y.parties.length ∧ r = .lineFull ∨
      y.barge = .closed ∧ room = 0 ∧ r = .deniedClosed) :
    Attaches l ((s.waiters l).take room) ((s.waiters l).drop room) r
        { y with parties := y.parties ++ ((s.waiters l).take room).map s.partyOf } s w.finish ∧
      OnlyLampQueues w w.finish ∧ SameExcept [.lines, .speakers, .offers, .links, .lamps] w w.finish := by
  have e := finish_opportunity offers
  have ws : w.waiters l = s.waiters l := waiters_congr up speakers
  obtain ⟨b, hb⟩ : ∃ b : State, b = { w with offers := [] } := ⟨_, rfl⟩
  have opened : SameExcept [.offers] w b := by
    rw [hb]
    intro q hq
    cases q <;> first | rfl | simp at hq
  have speakers' : b.speakers = s.speakers := (opened .speakers (by decide)).trans speakers
  have line' : b.line l = y := (lines_of_frame opened (by decide) l).trans line
  rw [← hb, ws] at e
  obtain ⟨takes, frame⟩ := takesOf_call (l := l) (room := room) (r := r) (s.waiters l) b (waiters_nodup s l) (fun v hv => by
      rw [State.awaits, State.position, opened .positions (by decide), State.channel, State.speaker, speakers']
      have := mem_waiters.1 hv
      rw [State.awaits, ← up] at this
      exact this) (by rw [line']; exact inCall) (by rw [line']; exact shared) (by rw [line']; exact few)
    (by rw [line']; exact unseated) (by rw [line']; exact which)
  rw [line', List.map_congr_left fun v _ => partyOf_congr speakers' v] at takes
  have all : SameExcept [.lines, .speakers, .offers] w (b.takesOf (s.waiters l)) :=
    (opened.mono (by decide)).trans (frame.mono (by decide))
  exact ⟨takes.around (fun m ne => (lines_of_frame opened (by decide) m).trans (others m ne)) speakers' e,
    e.onlyLampQueues (all .links (by decide)), (all.mono (by decide)).trans (e.frame.mono (by decide))⟩

/-- Settles O41: the takes of an opportunity in order, on a line without parties and on a call. -/
theorem linkUpAttaches : Obligations.LinkUpAttaches := by
  refine ⟨fun p n l s noOffers up source waiting only idle ok => ?_,
    fun l due room reason s noOffers guard timer ok waiting which => ?_,
    fun p l k x room reason s noOffers up slot ok agree principal position path hidden which => ?_⟩
  · obtain ⟨u, hu⟩ : ∃ u, u = s.setLink p { s.link p with attachDue := false } := ⟨_, rfl⟩
    have linked : SameExcept [.links] s u := hu ▸ setLink_frame s p _
    have line (m : LineId) : u.line m = s.line m := lines_of_frame linked (by decide) m
    have channel (m : ChannelId) : u.channel p m = s.channel p m := channel_of_frame linked
    have position (q : PositionId) : u.position q = s.position q := by rw [hu]; rfl
    have waits : u.awaits l p n = true := State.awaits_iff.2 ⟨by rw [position]; exact up, by rw [channel, source],
      by rw [channel, waiting]⟩
    have is : u.linkUpTakes p = State.sendTake p u n :=
      linkUpTakes_one (by rw [position]; exact up) fun m ne => by rw [channel]; exact only m ne
    have run : exec (.linkUpAttach p) s = .next (State.sendTake p u n).finish := by
      rw [← is, hu]
      rfl
    obtain ⟨takes, raised, -, calm, -, frame⟩ := sendTake_first .ok waits (by rw [line]; exact .inl idle)
      (by rw [line]; exact ok.no_parties (by rw [idle]; rfl)) (by rw [line]; exact ok.no_privacy (by rw [idle]; rfl))
      ((linked .offers (by decide)).trans noOffers)
    have positions := calm (by rw [line]; exact idle)
    obtain ⟨w, hw⟩ : ∃ w, w = State.sendTake p u n := ⟨_, rfl⟩
    rw [← hw] at takes raised frame positions run
    have e : Ended w w.finish := finish_ended_none ((frame .offers (by decide)).trans ((linked .offers (by decide)).trans noOffers))
    have around := takes.around (fun m _ => line m) (linked .speakers (by decide)) e
    rw [line, idle] at raised
    have links : w.links = u.links := frame .links (by decide)
    refine ⟨_, run, ?_, around.others, around.attached (p, n) (by simp), ?_, ?_, e.raised (.after linked raised), ?_⟩
    · rw [around.line, line]
      simp only [Line.answeredBy, State.partyOf, channel]
    · exact around.others_of_one
    · have link (q : PositionId) : w.finish.link q = { u.link q with lampQueue := (w.finish.link q).lampQueue } := by
        have := e.queues q
        rwa [show w.link q = u.link q by rw [State.link, links]; rfl] at this
      refine ⟨fun q ne => ?_, ?_⟩
      · rw [link q, hu, State.setLink_link_ne _ _ ne]
      · rw [link p, hu, State.setLink_link]
    · have := e.same (ch' := [.lines, .positions, .speakers, .notices, .links, .lamps])
        ((linked.mono (by decide)).trans (frame.mono (by decide)) : SameExcept [.links, .lines, .positions, .notices, .speakers] s w)
        noOffers
      exact this.without_positions (e.positions.trans (positions.trans (linked .positions (by decide))))
  · have calm : (s.line l).state.inQueues = false := by rw [guard]; rfl
    have empty := ok.no_parties (by rw [guard]; rfl)
    have shared := ok.no_privacy (by rw [guard]; rfl)
    have expires := Line.expires_of timer guard
    have clocked := reach_frame s due
    have finished {t : State} (frame : SameExcept [.lines, .positions, .notices, .speakers, .offers, .links, .lamps] (s.reach due) t)
        (none : t.offers = []) : t.clock = max s.clock due ∧
          SameExcept [.clock, .lines, .positions, .notices, .speakers, .links, .lamps] s t := by
      refine ⟨frame .clock (by decide), SameExcept.narrow (ch := [.clock, .lines, .positions, .notices, .speakers, .offers,
        .links, .lamps]) ((clocked.mono (by decide)).trans (frame.mono (by decide))) fun q hq hn => ?_⟩
      cases q <;> first | exact absurd (by decide) hn | exact none.trans noOffers.symm | exact absurd hq (by decide)
    by_cases rd : (s.line l).signals.rd = true
    · have run : exec (.guardExpiry l) s = .next ((s.reach due).enterRinging l none).finish := by
        show execGuardExpiry l s = _
        simp only [execGuardExpiry, expires, reach_line, rd, if_true]
      have m := enterRinging_moved none (reach_line s due l) calm
      have offers : ((s.reach due).enterRinging l none).offers = [l] :=
        moveLine_offered noOffers (by rw [reach_line]; simp [offersAttach, guard])
      obtain ⟨takes, raised, rings, queues, -, unrung, frame⟩ := m.taken_up offers (room := room) (r := reason) waiting (.inr rfl)
        empty shared which
      obtain ⟨clock, same⟩ := finished frame rfl
      rw [← guard]
      exact ⟨_, run, clock, takes.line, takes.others, takes.inOrder, rings, queues,
        fun off => absurd (off.symm.trans rd) (by decide), fun _ => ⟨unrung rfl, raised⟩, same⟩
    · have run : exec (.guardExpiry l) s = .next ((s.reach due).moveLine l { s.line l with
          state := .idle, timer := none }).finish := by
        show execGuardExpiry l s = _
        simp only [execGuardExpiry, expires, reach_line]
        exact if_neg rd
      have m := (moveLine_moved (s.reach due) l { s.line l with state := .idle, timer := none }).state_ne
        (by rw [reach_line, guard]; simp)
      have offers : ((s.reach due).moveLine l { s.line l with state := .idle, timer := none }).offers = [l] :=
        moveLine_offered noOffers (by rw [reach_line]; simp [offersAttach, guard])
      have quiet : ((s.reach due).moveLine l { s.line l with state := .idle, timer := none }).positions = s.positions :=
        moveLine_positions_calm calm rfl
      obtain ⟨takes, raised, rings, queues, still, -, frame⟩ := m.taken_up offers (room := room) (r := reason) waiting (.inl rfl)
        empty shared which
      obtain ⟨clock, same⟩ := finished frame rfl
      rw [← guard]
      exact ⟨_, run, clock, takes.line, takes.others, takes.inOrder, rings, queues, fun _ => ⟨(still rfl).trans quiet, raised⟩,
        fun on => absurd on rd, same⟩
  · obtain ⟨u, hu⟩ : ∃ u, u = s.takeDelivered p (.func .privacy 0 true) := ⟨_, rfl⟩
    have hx := List.mem_of_find?_eq_some principal
    have is := privacyKey_principal (s := s.takeDelivered p (.func .privacy 0 true)) slot principal position path
    obtain ⟨y, hy⟩ : ∃ y : Line, y = { s.line l with privacy := false } := ⟨_, rfl⟩
    have act : ((s.takeDelivered p (.func .privacy 0 true)).privacyKey p .turret).1 = u.moveLine l y := by
      rw [is, hu, hy, takeDelivered_line, hidden]
      rfl
    have line : u.line l = s.line l := by rw [hu]; rfl
    have m := moveLine_moved u l y
    have frame : SameExcept [.lines, .offers] u (u.moveLine l y) := moveLine_still_frame (by rw [line, hy])
    have offers : (u.moveLine l y).offers = [l] := by
      refine moveLine_offered (by rw [hu]; exact noOffers) ?_
      rw [line, hy]
      simp [offersAttach, hidden]
    have run := turretEvent_runs (i := .privacy p) up rfl act
    have taken : SameExcept [.links] s u := hu ▸ takeDelivered_frame s p _
    have delivered : OnlyDelivered p s (u.moveLine l y).finish :=
      .of_taken (ev := .func .privacy 0 true) ((frame .links (by decide)).trans (by rw [hu]))
    obtain ⟨w, hw⟩ : ∃ w, w = u.moveLine l y := ⟨_, rfl⟩
    rw [← hw] at m frame offers run delivered
    obtain ⟨takes, -, end_⟩ := call_taken_up (s := s) (room := room) (r := reason) m.line offers
      (fun k ne => (m.others k ne).trans (by rw [hu]; rfl)) (fun q => (m.rings.linkUp q).trans (by rw [hu]; rfl))
      ((frame .speakers (by decide)).trans (taken .speakers (by decide)))
      (by rw [hy]; exact (ok.in_call hx)) (by rw [hy]) (by rw [hy]; exact ok.atMostEight)
      (fun v hv => by rw [hy]; exact agree.unseated (mem_waiters.1 hv)) (by rw [hy]; exact which)
    rw [hy] at takes
    refine ⟨_, run, takes.line, takes.others, takes.inOrder, delivered, SameExcept.narrow
      (ch := [.lines, .speakers, .offers, .links, .lamps]) ((taken.mono (by decide)).trans ((frame.mono (by decide)).trans end_))
        fun q hq hn => ?_⟩
    cases q <;> first | exact absurd (by decide) hn | exact noOffers.symm | exact absurd hq (by decide)

end Sys2Proof.Machine
end

section
/-! PROOFS. RELEASE and HOOK ON (R20, R42, R47). -/

namespace Sys2Proof.Machine

-- One theorem after another: side by side they hold the memory of too many stacks.
set_option Elab.async false

/-! ### The release of a slot as an event -/

/-- The event `c` at `p`, delivered as `ev`, runs the release of slot `h` from state `u`, where at most the hook of that
handset has been set (R42, R47). -/
structure Releases (p : PositionId) (h : Handset) (c : Instr) (ev : TurretEvent) (s u : State) : Prop where
  run : exec c s = .next (u.releaseSlot p h).1.finish
  written : SameExcept [.positions] (s.takeDelivered p ev) u
  slots : ∀ q g, u.slot q g = s.slot q g
  others : OtherPositions p s u
  linkUp : ∀ q, (u.position q).linkUp = (s.position q).linkUp
  selected : u.selected p = s.selected p
  hook : c = .hookOn p h → u.hook p h = .on

theorem hookOnEvent_off {s : State} {p : PositionId} {h : Handset} (off : s.hook p h = .off) : s.hookOnEvent p h =
    ((s.setPosition p ((s.position p).setHandset h { (s.position p).handset h with hook := .on })).releaseSlot p h).1 := by
  simp only [State.hookOnEvent, off]

/-- The state with one handset of `p` on-hook. -/
theorem hungUp_releases {s : State} {p : PositionId} {h : Handset} (up : (s.position p).linkUp = true)
    (off : s.hook p h = .off) : Releases p h (.hookOn p h) (.hook h .on) s ((s.takeDelivered p (.hook h .on)).setPosition p
      ((s.position p).setHandset h { (s.position p).handset h with hook := .on })) := by
  obtain ⟨x, hx⟩ : ∃ x, x = (s.position p).setHandset h { (s.position p).handset h with hook := .on } := ⟨_, rfl⟩
  have run := turretEvent_runs (i := .hookOn p h) up rfl (hookOnEvent_off (s := s.takeDelivered p (.hook h .on)) off)
  have here : ((s.takeDelivered p (.hook h .on)).setPosition p x).position p = x := State.setPosition_position _ p x
  have others : OtherPositions p s ((s.takeDelivered p (.hook h .on)).setPosition p x) := fun q ne =>
    State.setPosition_position_ne _ x ne
  rw [← hx]
  refine ⟨hx ▸ run, setPosition_frame _ p x, fun q g => ?_, others, fun q => ?_, ?_, fun _ => ?_⟩
  · by_cases e : q = p
    · subst e
      rw [State.slot, here, hx]
      by_cases same : g = h
      · rw [same, setHandset_handset]
        rfl
      · rw [setHandset_handset_ne _ _ same]
        rfl
    · rw [State.slot, others q e]
      rfl
  · by_cases e : q = p
    · rw [e, here, hx, setHandset_linkUp]
    · rw [others q e]
  · rw [State.selected, here, hx]
    cases h <;> rfl
  · rw [State.hook, here, hx, setHandset_handset]

theorem released_releases {s : State} {p : PositionId} {h : Handset} (up : (s.position p).linkUp = true)
    (selected : h = s.selected p) : Releases p h (.release p) (.func .release 0 true) s
      (s.takeDelivered p (.func .release 0 true)) := by
  subst selected
  exact ⟨turretEvent_runs (i := .release p) up rfl rfl, .refl _ _, fun _ _ => rfl, fun _ _ => rfl, fun _ => rfl, rfl,
    fun e => (by cases e)⟩

theorem releases_of {s : State} {p : PositionId} {h : Handset} {c : Instr} (up : (s.position p).linkUp = true)
    (event : (c = .release p ∧ h = s.selected p) ∨ (c = .hookOn p h ∧ s.hook p h = .off)) :
    ∃ ev u, Releases p h c ev s u := by
  rcases event with ⟨rfl, selected⟩ | ⟨rfl, off⟩
  · exact ⟨_, _, released_releases up selected⟩
  · exact ⟨_, _, hungUp_releases up off⟩

section
variable {p : PositionId} {h : Handset} {c : Instr} {ev : TurretEvent} {s u : State} (r : Releases p h c ev s u)
include r

theorem Releases.pre : SameExcept [.links, .positions] s u :=
  (takeDelivered_frame s p ev).step (ch := [.links, .positions]) r.written

theorem Releases.line (l : LineId) : u.line l = s.line l := lines_of_frame r.pre (by decide) l

theorem Releases.entry (q : PositionId) (k : Key) : u.entry q k = s.entry q k := by
  rw [State.entry, r.pre .directory (by decide)]
  rfl

theorem Releases.delivered {w : State} (links : w.links = u.links) : OnlyDelivered p s w.finish :=
  .of_taken (ev := ev) (links.trans (r.written .links (by decide)))

/-- What a release of a line's slot leaves, seen from before the event. -/
theorem Releases.dropped {l : LineId} {y : Line} {bs : List NoticeBody} {t : State} (d : SlotDropped p h l y bs u t) :
    OtherLines l s t ∧ OtherSlots p h s t ∧ t.termCount = s.termCount - 3 ∧ OtherPositions p s t ∧
      t.selected p = s.selected p ∧ (c = .hookOn p h → t.hook p h = .on) ∧ Raised bs s t := by
  refine ⟨fun m ne => (d.others m ne).trans (r.line m), fun q g ne => (d.slots q g ne).trans (r.slots q g), ?_,
    fun q ne => (d.positions q ne).trans (r.others q ne), ?_, fun e => ?_, .after r.pre d.raised⟩
  · rw [d.count, r.pre .termCount (by decide)]
  · rw [← r.selected, State.selected, d.position]
    cases h <;> rfl
  · rw [← r.hook e, State.hook, d.position, setHandset_handset]
    rfl

end

/-- The last party's release: the line enters GUARD, and the takes that an end of privacy offers are refused (R9, R20). -/
theorem releaseSlot_last {s : State} {p : PositionId} {h : Handset} {l : LineId} {k : Key} {x : Party}
    (slot : s.slot p h = some ⟨.line l, k⟩) (ok : (s.line l).ok) (parties : (s.line l).parties = [x]) (position : x.position = p)
    (path : x.path = .handset h) (pending : (s.entry p k).pendingContent = none) :
    SlotDropped p h l { s.line l with
        state := .guard, parties := [], privacy := false, sz := false, rg := false, unanswered := false
        burstCount := 0, timer := some ⟨.guard, s.clock + s.params.guardTime * 8⟩ }
      [.lineState l (s.line l).state .guard] s (s.releaseSlot p h).1 ∧
      (∀ m ∈ (s.releaseSlot p h).1.offers, m ∈ s.offers ∨ m = l) ∧
      SameExcept [.lines, .positions, .notices, .offers, .termCount] s (s.releaseSlot p h).1 := by
  have hx : x ∈ (s.line l).parties := by rw [parties]; simp
  have party : (s.line l).party? p (.handset h) = some x := by rw [← path, ← position]; exact ok.party? hx
  rw [releaseSlot_line slot party pending, ok.afterLeave_last parties position path]
  obtain ⟨y, hy⟩ : ∃ y, y = { s.line l with
    state := .guard, parties := [], privacy := false, sz := false, rg := false, unanswered := false
    burstCount := 0, timer := s.startTimer .guard } := ⟨_, rfl⟩
  have guard : y.state = .guard := by rw [hy]
  have live : (s.line l).state = .calling ∨ (s.line l).state = .active := ok.in_call hx
  rw [← hy]
  have m := (moveLine_moved s l y).state_ne (by rw [guard]; rcases live with e | e <;> simp [e])
  have calm := moveLine_positions_calm (ok.not_inQueues hx) (x := y) (by rw [guard]; rfl)
  have d := slot_dropped m slot calm
  rw [guard] at d
  refine ⟨?_, m.offers, m.frame.step (setSlot_frame _ p h none)⟩
  rw [hy] at d ⊢
  exact d

/-- A group's release seen from before the event (R34, R85). -/
theorem Releases.group {p : PositionId} {h : Handset} {c : Instr} {ev : TurretEvent} {s u : State} {g : GroupId} {k : Key}
    {x : HandsetRecord} (r : Releases p h c ev s u) (noOffers : s.offers = [])
    (slot : s.slot p h = some ⟨.group g, k⟩) (sole : s.soleBinding p h k)
    (record : (u.position p).setHandset h { (u.position p).handset h with slot := none } = (s.position p).setHandset h x) :
    ∃ t, exec c s = .next t ∧ GroupReleased p h g k x s t ∧ OnlyDelivered p s t ∧
      SameExcept [.groups, .positions, .termCount, .directory, .notices, .links, .lamps] s t := by
  have group (g' : GroupId) : u.group g' = s.group g' := by rw [State.group, r.pre .groups (by decide)]; rfl
  have clock : u.clock = s.clock := r.pre .clock (by decide)
  have floor := releasedFloor_congr p (.handset h) (group g) clock
  have sole' : u.soleBinding p h k := by
    intro waits
    rw [r.entry] at waits
    obtain ⟨slots, owners⟩ := sole waits
    exact ⟨fun q x ne hx => slots q x ne (by rwa [r.slots] at hx), fun l => by rw [r.line]; exact owners l⟩
  obtain ⟨-, ⟨here, others, changed, becomes, raised⟩, frame⟩ := group_released (by rw [r.slots]; exact slot) sole'
  obtain ⟨w, hw⟩ : ∃ w, w = (u.releaseSlot p h).1 := ⟨_, rfl⟩
  have run := r.run
  rw [← hw] at here others changed becomes raised frame run
  have e : Ended w w.finish := finish_ended_none ((frame .offers (by decide)).trans ((r.pre .offers (by decide)).trans noOffers))
  rw [floor] at here raised
  rw [r.entry] at changed becomes raised
  rw [record] at becomes
  obtain ⟨newSlot, slots, count, installed, kept, entries⟩ := changed
  have released : GroupReleased p h g k x s w := by
    refine ⟨here, fun g' ne => (others g' ne).trans (group g'), ⟨newSlot, fun q y ne => (slots q y ne).trans (r.slots q y), ?_,
      installed, fun none => (kept none).trans (r.entry p k), fun q k' ne => (entries q k' ne).trans (r.entry q k')⟩,
      ⟨fun q ne => (becomes.1 q ne).trans (r.others q ne), becomes.2⟩, .after r.pre raised⟩
    rw [count, r.pre .termCount (by decide)]
  exact ⟨_, run, released.shaped e.shaped, r.delivered (frame .links (by decide)),
    e.same ((r.pre.mono (by decide)).trans (frame.mono (by decide)) :
      SameExcept [.links, .groups, .notices, .positions, .termCount, .directory] s w) noOffers⟩

end Sys2Proof.Machine
end

section
/-! PROOFS. What a release leaves of its line: GUARD after the last party, the others' call before it, and the eighth place for
the first waiting channel (R3, R8, R20, R101). -/

namespace Sys2Proof.Machine

-- One theorem after another: side by side they hold the memory of too many stacks.
set_option Elab.async false

section
variable {p : PositionId} {h : Handset} {c : Instr} {ev : TurretEvent} {s u : State} (r : Releases p h c ev s u)
  (noOffers : s.offers = []) {l : LineId} {k : Key} {x : Party} (slot : s.slot p h = some ⟨.line l, k⟩) (ok : (s.line l).ok)
  (position : x.position = p) (path : x.path = .handset h) (pending : (s.entry p k).pendingContent = none)

include r noOffers slot ok position path pending

/-- The last party's release as an event (R20, R42, R47). -/
theorem Releases.last (parties : (s.line l).parties = [x]) : ∃ t, exec c s = .next t ∧
    t.line l = { s.line l with
      state := .guard, parties := [], privacy := false, sz := false, rg := false, unanswered := false
      burstCount := 0, timer := some ⟨.guard, s.clock + s.params.guardTime * 8⟩ } ∧
    OtherLines l s t ∧ t.slot p h = none ∧ OtherSlots p h s t ∧ t.termCount = s.termCount - 3 ∧
    (c = .hookOn p h → t.hook p h = .on) ∧ t.selected p = s.selected p ∧ OtherPositions p s t ∧
    Raised [.lineState l (s.line l).state .guard] s t ∧ OnlyDelivered p s t ∧
    SameExcept [.lines, .positions, .termCount, .notices, .speakers, .links, .lamps] s t := by
  have line := r.line l
  obtain ⟨d, offers, frame⟩ := releaseSlot_last (s := u) (x := x) (by rw [r.slots]; exact slot) (by rw [line]; exact ok)
    (by rw [line]; exact parties) position path (by rw [r.entry]; exact pending)
  rw [line, r.pre .clock (by decide), r.pre .params (by decide)] at d
  have run := r.run
  obtain ⟨w, hw⟩ : ∃ w, w = (u.releaseSlot p h).1 := ⟨_, rfl⟩
  rw [← hw] at d offers frame run
  have refused := finish_refused (s := w) (l := l) (r := .lineGuard) (by
    rw [d.line]; exact Line.refusesChannels_guard rfl) (by simp) fun m hm => by
      rcases offers m hm with e | e
      · rw [r.pre .offers (by decide), noOffers] at e
        cases e
      · exact e
  have d := d.end_ refused.frame
  obtain ⟨others, slots, count, positions, selected, hook, raised⟩ := r.dropped d
  refine ⟨_, run, d.line, others, d.slot, slots, count, hook, selected, positions, raised,
    r.delivered (frame .links (by decide)), SameExcept.narrow
      (ch := [.lines, .positions, .termCount, .notices, .speakers, .offers, .links, .lamps])
      ((r.pre.mono (by decide)).trans ((frame.mono (by decide)).trans (refused.frame.mono (by decide)))) fun q hq hn => ?_⟩
  cases q <;> first | exact absurd (by decide) hn | exact noOffers.symm | exact absurd hq (by decide)

variable {before behind : List Party} (parties : (s.line l).parties = before ++ x :: behind) (among : before ++ behind ≠ [])
include parties among

/-- An earlier party's release as an event, where no channel waits (R3, R20). -/
theorem Releases.earlier (none : s.noneWaits l) : ∃ t, exec c s = .next t ∧ PartyLeft p h l x (before ++ behind) s t ∧
    (t.line l).principal = (before ++ behind).find? (fun y => y.path.isHandset) ∧
    (c = .hookOn p h → t.hook p h = .on) ∧ OnlyDelivered p s t ∧
    SameExcept [.lines, .positions, .termCount, .links, .lamps] s t := by
  have line := r.line l
  obtain ⟨-, d, offers, linkUp, frame⟩ := releaseSlot_among (s := u) (x := x) (by rw [r.slots]; exact slot)
    (by rw [line]; exact ok) (by rw [line]; exact parties) among position path (by rw [r.entry]; exact pending)
  rw [line] at d
  have run := r.run
  obtain ⟨w, hw⟩ : ∃ w, w = (u.releaseSlot p h).1 := ⟨_, rfl⟩
  rw [← hw] at d offers frame run linkUp
  have free := left_free (s := s) (l := l) noOffers
    (fun m hm => (offers m hm).imp (fun e => by rwa [r.pre .offers (by decide)] at e) id)
    (fun q => (linkUp q).trans (r.linkUp q)) ((frame .speakers (by decide)).trans (r.pre .speakers (by decide))) none
  have e := finish_ended free
  have d := d.end_ e.frame
  obtain ⟨others, slots, count, positions, -, hook, raised⟩ := r.dropped d
  refine ⟨_, run, ⟨d.line, others, d.slot, slots, positions, count, raised⟩, ?_, hook, r.delivered (frame .links (by decide)),
    e.same ((r.pre.mono (by decide)).trans (frame.mono (by decide)) :
      SameExcept [.links, .lines, .offers, .positions, .termCount] s w) noOffers⟩
  rw [d.line]
  rfl

/-- The release that makes room on a full OPEN line: the first waiting channel takes the eighth place (R8, R101). -/
theorem Releases.eighth {w : PositionId × ChannelId} {rest : List (PositionId × ChannelId)}
    (seven : (before ++ behind).length = 7) (barge : (s.line l).barge = .openPolicy) (shared : (s.line l).privacy = false)
    (waiting : s.waiters l = w :: rest) (agree : s.attachAgree) : ∃ t, exec c s = .next t ∧
      t.line l = { s.line l with parties := before ++ behind ++ [s.partyOf w] } ∧ OtherLines l s t ∧
      t.slot p h = none ∧ OtherSlots p h s t ∧ t.termCount = s.termCount - 3 ∧
      AttachedInOrder l 1 .lineFull s t ∧ Raised [] s t ∧ OnlyDelivered p s t ∧
      SameExcept [.lines, .positions, .termCount, .speakers, .links, .lamps] s t := by
  have line := r.line l
  have slotU : u.slot p h = some ⟨.line l, k⟩ := by rw [r.slots]; exact slot
  have pendingU : (u.entry p k).pendingContent = none := by rw [r.entry]; exact pending
  obtain ⟨-, d, -, linkUp, frame⟩ := releaseSlot_among (s := u) (x := x) slotU (by rw [line]; exact ok)
    (by rw [line]; exact parties) among position path pendingU
  have hx : x ∈ (s.line l).parties := by rw [parties]; simp
  have offers : (u.releaseSlot p h).1.offers = [l] := by
    have party : (u.line l).party? p (.handset h) = some x := by rw [line, ← path, ← position]; exact ok.party? hx
    rw [releaseSlot_line slotU party pendingU, line, ok.afterLeave_among parties among position path]
    show (u.moveLine l _).offers = [l]
    refine moveLine_offered ((r.pre .offers (by decide)).trans noOffers) ?_
    have eight : (s.line l).parties.length = 8 := by
      rw [parties]
      simp only [List.length_append, List.length_cons] at seven ⊢
      omega
    rw [line]
    simp only [offersAttach, eight, seven, Config.maxParties]
    simp
  rw [line] at d
  have run := r.run
  obtain ⟨v, hv⟩ : ∃ v, v = (u.releaseSlot p h).1 := ⟨_, rfl⟩
  rw [← hv] at d offers frame run linkUp
  obtain ⟨y, hy⟩ : ∃ y, y = { s.line l with
    parties := before ++ behind, privacy := (s.line l).privacy && !decide ((s.line l).principal = some x) } := ⟨_, rfl⟩
  rw [← hy] at d
  obtain ⟨takes, -, end_⟩ := call_taken_up (s := s) (room := 1) (r := .lineFull) d.line offers
    (fun m ne => (d.others m ne).trans (r.line m)) (fun q => (linkUp q).trans (r.linkUp q))
    ((frame .speakers (by decide)).trans (r.pre .speakers (by decide))) (by rw [hy]; exact ok.in_call hx)
    (by rw [hy]; simp [shared]) (by rw [hy]; exact le_of_eq_of_le seven (by decide)) (fun a ha => by
      have unseated := agree.unseated (mem_waiters.1 ha)
      rw [Line.party?_eq_none] at unseated ⊢
      rintro ⟨z, hz, is⟩
      rw [hy] at hz
      refine unseated ⟨z, ?_, is⟩
      rw [parties]
      rcases List.mem_append.1 hz with h | h
      · exact List.mem_append_left _ h
      · exact List.mem_append_right _ (List.mem_cons_of_mem _ h))
    (by rw [hy]; exact .inl ⟨barge, by simp only [seven], rfl⟩)
  have slotT (q : PositionId) (g : Handset) : v.finish.slot q g = v.slot q g := by
    rw [State.slot, State.position, end_ .positions (by decide)]
    rfl
  have record : { y with parties := y.parties ++ ((s.waiters l).take 1).map s.partyOf } =
      { s.line l with parties := before ++ behind ++ [s.partyOf w] } := by
    rw [waiting, hy]
    simp [shared]
  rw [record] at takes
  refine ⟨_, run, takes.line, takes.others, (slotT p h).trans d.slot, fun q g ne =>
    (slotT q g).trans ((d.slots q g ne).trans (r.slots q g)), ?_, takes.inOrder, .after r.pre (d.raised.then end_),
    r.delivered (frame .links (by decide)), SameExcept.narrow
      (ch := [.lines, .positions, .termCount, .speakers, .offers, .links, .lamps])
      ((r.pre.mono (by decide)).trans ((frame.mono (by decide)).trans (end_.mono (by decide)))) fun q hq hn => ?_⟩
  · rw [end_ .termCount (by decide), d.count, r.pre .termCount (by decide)]
  · cases q <;> first | exact absurd (by decide) hn | exact noOffers.symm | exact absurd hq (by decide)

end

/-- Settles O27: the release of each content of a slot, as RELEASE, as HOOK ON, and injected. -/
theorem lastPartyLeaves : Obligations.LastPartyLeaves := by
  refine ⟨fun p h l k x s noOffers up slot ok parties position path pending c event => ?_,
    fun p h l k x before behind s noOffers up slot ok parties among position path pending =>
      ⟨fun c event none => ?_, fun selected none c ch => ?_, fun w rest selected seven barge shared waiting agree => ?_⟩,
    fun p h g k s noOffers up slot sole => ⟨fun selected => ⟨?_, fun c ch => ?_⟩, fun off => ?_⟩,
    fun p h s noOffers up => ⟨fun selected slot => ⟨?_, fun c ch => ?_⟩, fun off slot => ?_, fun on => ?_⟩⟩
  · obtain ⟨ev, u, r⟩ := releases_of up event
    exact r.last noOffers slot ok position path pending parties
  · obtain ⟨ev, u, r⟩ := releases_of up event
    exact r.earlier noOffers slot ok position path pending parties among none
  · subst selected
    obtain ⟨result, d, offers, linkUp, frame⟩ := releaseSlot_among slot ok parties among position path pending
    have run := inject_func (w := (s.releaseSlot p (s.selected p)).1) (r := .left) (f := .release) c ch 1 up rfl rfl
      (Prod.ext rfl result)
    have e := inject_end c .left [] noOffers frame (.inr (left_free noOffers offers linkUp (frame .speakers (by decide)) none))
    exact ⟨_, run, d.left.shaped e.shaped, e.answered, e.queues, e.same⟩
  · exact (released_releases up selected).eighth noOffers slot ok position path pending parties among seven barge shared waiting
      agree
  · exact (released_releases up selected).group noOffers slot sole rfl
  · subst selected
    obtain ⟨result, released, frame⟩ := group_released slot sole
    have run := inject_func (w := (s.releaseSlot p (s.selected p)).1) (r := .ok) (f := .release) c ch 1 up rfl rfl
      (Prod.ext rfl result)
    have e := inject_end c .ok [] noOffers frame (.inl ((frame .offers (by decide)).trans noOffers))
    exact ⟨_, run, released.shaped e.shaped, e.answered, e.queues, e.same⟩
  · refine (hungUp_releases up off).group noOffers slot sole ?_
    rw [State.setPosition_position]
    cases h <;> rfl
  · subst selected
    have is := congrArg Prod.fst (releaseSlot_empty (s := s.takeDelivered p (.func .release 0 true)) slot)
    obtain ⟨t, run, -, delivered, frame⟩ := turret_ignored (i := .release p) up noOffers rfl is
    exact ⟨t, run, delivered, frame⟩
  · subst selected
    have run := inject_func (f := .release) c ch 1 up rfl rfl (releaseSlot_empty slot)
    obtain ⟨answered, frame, queues⟩ := answered_end s c .noChange noOffers
    exact ⟨_, run, answered, queues, frame.mono (by decide)⟩
  · have is := hookOnEvent_off (s := s.takeDelivered p (.hook h .on)) off
    have still := congrArg Prod.fst (releaseSlot_empty ((hungUp_releases up off).slots p h |>.trans slot))
    have is := is.trans still
    obtain ⟨t, run, here, others, delivered, frame⟩ := turret_position (i := .hookOn p h) up noOffers rfl is
    refine ⟨t, run, here.trans ?_, others, delivered, frame⟩
    have empty : ((s.position p).handset h).slot = none := slot
    rw [← empty]
  · have is : (s.takeDelivered p (.hook h .on)).hookOnEvent p h = s.takeDelivered p (.hook h .on) := by
      have on' : (s.takeDelivered p (.hook h .on)).hook p h = .on := on
      simp only [State.hookOnEvent, on']
    obtain ⟨t, run, -, delivered, frame⟩ := turret_ignored (i := .hookOn p h) up noOffers rfl is
    exact ⟨t, run, delivered, frame⟩

end Sys2Proof.Machine
end

section
/-! PROOFS. Inbound turret and highway frames (R151, R154, R155, R158, R159). -/

namespace Sys2Proof.Machine

-- One theorem after another: side by side they hold the memory of too many stacks.
set_option Elab.async false

/-! ### The events of a frame -/

theorem isAnnounce_iff {e : TurretEvent} : isAnnounce e = true ↔ ∃ a b, e = .announce a b := by
  cases e <;> simp [isAnnounce]

/-- On a link that is not UP a frame without ANNOUNCE hands nothing on (R151). -/
theorem handedEvents_silent {st : LinkState} {events : List TurretEvent} (down : st ≠ .up)
    (none : ∀ a b, .announce a b ∉ events) : handedEvents st events = [] := by
  have dropped : (events.dropWhile fun e => !isAnnounce e) = [] := by
    rw [List.dropWhile_eq_nil_iff]
    intro e he
    simp only [Bool.not_eq_true', Bool.eq_false_iff, Ne, isAnnounce_iff]
    rintro ⟨a, b, rfl⟩
    exact none a b he
  cases st with
  | up => exact absurd rfl down
  | down => simp [handedEvents, dropped]
  | training => simp [handedEvents, dropped]

/-- On a link that is not UP a frame hands on its first ANNOUNCE and what stands behind it (R151). -/
theorem handedEvents_announced {st : LinkState} {before behind : List TurretEvent} (a b : Byte) (down : st ≠ .up)
    (first : ∀ a' b', .announce a' b' ∉ before) : handedEvents st (before ++ .announce a b :: behind) =
      .announce a b :: behind.filterMap deliverable := by
  have dropped : ((before ++ .announce a b :: behind).dropWhile fun e => !isAnnounce e) = .announce a b :: behind := by
    rw [List.dropWhile_append_of_pos, List.dropWhile_cons_of_neg (by simp [isAnnounce])]
    intro e he
    simp only [Bool.not_eq_true', Bool.eq_false_iff, Ne, isAnnounce_iff]
    rintro ⟨a', b', rfl⟩
    exact first a' b' he
  cases st with
  | up => exact absurd rfl down
  | down => simp [handedEvents, dropped, deliverable]
  | training => simp [handedEvents, dropped, deliverable]

/-! ### Timeslots -/

/-- A receive records the sampled values and hands them on where they differ (R159). -/
theorem receive_is (t : Timeslot) (x : HighwayLine) : (x.receive t).last = sampledSignals t ∧
    (x.receive t).far = voiceSample t ∧
    (x.receive t).handed = x.handed ++ if sampledSignals t = x.last then [] else [sampledSignals t] := by
  unfold HighwayLine.receive
  split
  · next same => exact ⟨same.symm, rfl, by simp⟩
  · exact ⟨rfl, rfl, rfl⟩

/-- Settles O51: a turret frame writes its link record, and a highway frame each line's sampled values. -/
theorem inboundFrames : Obligations.InboundFrames := by
  refine ⟨fun p s => ⟨?_, fun m0 m1 m2 events => ?_⟩, fun slots s => ?_⟩
  · exact ⟨_, rfl, State.setLink_link s p _, fun q ne => State.setLink_link_ne s _ ne, setLink_frame s p _⟩
  · obtain ⟨x, hx⟩ : ∃ x, x = (s.link p).receive (s.dueIn Config.lossMs) (.valid m0 m1 m2 events) := ⟨_, rfl⟩
    have run : exec (.turretFrame p (.valid m0 m1 m2 events)) s = .next (s.setLink p x) := by
      rw [hx]
      rfl
    have link : (s.setLink p x).link p = x := State.setLink_link s p x
    refine ⟨_, run, fun q ne => State.setLink_link_ne s _ ne, setLink_frame s p _, ?_⟩
    rw [link, hx]
    refine ⟨rfl, rfl, rfl, fun up => ?_, fun down => ?_⟩
    · simp only [Link.receive, up, handedEvents, and_self]
    · refine ⟨?_, ?_, fun none => ?_, fun before a b behind is first => ?_⟩
      · cases e : (s.link p).state <;> first | exact absurd e down | simp only [Link.receive, e]
      · cases e : (s.link p).state <;> first | exact absurd e down | simp only [Link.receive, e]
      · simp only [Link.receive, handedEvents_silent down none, List.append_nil]
      · simp only [Link.receive, is, handedEvents_announced a b down first]
  · refine ⟨_, rfl, fun q hq => ?_, fun l now voice equipped bare => ?_⟩
    · cases q <;> first | rfl | exact absurd hq (by decide)
    · have sampled : sampledSignals (slots.get l) = now ∧ voiceSample (slots.get l) = voice := by
        cases e : (slots.get l).equipped with
        | true =>
          obtain ⟨rfl, rfl⟩ := equipped e
          simp [sampledSignals, voiceSample, e]
        | false =>
          obtain ⟨rfl, rfl⟩ := bare e
          simp [sampledSignals, voiceSample, e]
      obtain ⟨rfl, rfl⟩ := sampled
      dsimp only
      rw [Table.get_ofFn]
      exact receive_is (slots.get l) (s.highway.get l)

end Sys2Proof.Machine
end

section
/-! PROOFS. What the loss of a link clears of its position: slots, hooks, knobs, deny displays, channels, floors and terms
(R55, R89, R102). -/

namespace Sys2Proof.Machine

-- One theorem after another: side by side they hold the memory of too many stacks.
set_option Elab.async false

/-! ### A walk that writes one place at each step -/

/-- A walk through a list without repetition whose steps keep `P`, change the place `i` by `R` and no other. -/
theorem foldl_each {ι σ β : Type} {F : σ → ι → σ} {get : σ → ι → β} {R : ι → β → β → Prop} {P : σ → Prop}
    (keep : ∀ s i, P s → P (F s i)) (here : ∀ s i, P s → R i (get s i) (get (F s i) i))
    (apart : ∀ s i j, P s → j ≠ i → get (F s i) j = get s j) (xs : List ι) (distinct : xs.Nodup) (s : σ) (hs : P s) :
    P (xs.foldl F s) ∧
      ∀ i, (i ∈ xs → R i (get s i) (get (xs.foldl F s) i)) ∧ (i ∉ xs → get (xs.foldl F s) i = get s i) := by
  induction xs generalizing s with
  | nil => exact ⟨hs, fun i => ⟨fun h => (by cases h), fun _ => rfl⟩⟩
  | cons x xs ih =>
    obtain ⟨fresh, distinct⟩ := List.nodup_cons.1 distinct
    obtain ⟨kept, each⟩ := ih distinct (F s x) (keep s x hs)
    refine ⟨kept, fun i => ⟨fun mem => ?_, fun out => ?_⟩⟩
    · by_cases e : i = x
      · subst e
        have := here s i hs
        rwa [← (each i).2 fresh] at this
      · have := (each i).1 ((List.mem_cons.1 mem).resolve_left e)
        rwa [apart s x i hs e] at this
    · rw [List.mem_cons, not_or] at out
      exact ((each i).2 out.2).trans (apart s x i hs out.1)

/-! ### The release of a slot, in any state -/

theorem setHandset_rings {x y : Position} (rings : y = { x with ringQueue := y.ringQueue, ringer := y.ringer }) (h : Handset)
    (slot : Option Held) : y.setHandset h { y.handset h with slot := slot } =
      { x.setHandset h { x.handset h with slot := slot } with ringQueue := y.ringQueue, ringer := y.ringer } := by
  rw [rings]
  cases h <;> rfl

theorem setHandset_keepsRings (x : Position) (h : Handset) (r : HandsetRecord) :
    (x.setHandset h r).ringQueue = x.ringQueue ∧ (x.setHandset h r).ringer = x.ringer := by cases h <;> exact ⟨rfl, rfl⟩

theorem OnlyRings.setSlot {s a : State} (rings : OnlyRings s a) (p : PositionId) (h : Handset) (x : Option Held) :
    OnlyRings (s.setSlot p h x) (a.setSlot p h x) := by
  intro q
  obtain ⟨at_, others⟩ := setSlot_position s p h x
  obtain ⟨at', others'⟩ := setSlot_position a p h x
  by_cases e : q = p
  · subst e
    obtain ⟨queue, ringer⟩ := setHandset_keepsRings (a.position q) h { (a.position q).handset h with slot := x }
    rw [at_, at', queue, ringer]
    exact setHandset_rings (rings q) h x
  · rw [others q e, others' q e]
    exact rings q

theorem leave_rings (s : State) (l : LineId) (p : PositionId) (path : Path) : OnlyRings s (s.leave l p path).1 := by
  unfold State.leave
  split
  · exact .refl s
  · exact moveLine_rings s l _

/-- A release empties the slot, and of the position records it changes nothing else but rings (R34, R47). -/
theorem releaseSlot_rings (s : State) (p : PositionId) (h : Handset) : OnlyRings (s.setSlot p h none) (s.releaseSlot p h).1 := by
  unfold State.releaseSlot
  split
  · next slot =>
    refine .of_positions ?_
    obtain ⟨at_, others⟩ := setSlot_position s p h none
    refine Table.ext_get fun q => ?_
    by_cases e : q = p
    · subst e
      refine Eq.symm (at_.trans ?_)
      have empty : ((s.position q).handset h).slot = none := slot
      rw [← empty]
      cases h <;> rfl
    · exact (others q e).symm
  · next l k _ => exact ((leave_rings s l p (.handset h)).setSlot p h none).trans (reportEnd_rings _ p k)
  · next g k _ =>
    have still : OnlyRings s (s.talkRelease g p (.handset h)).1 := .of_positions (talkRelease_frame s g p _ .positions (by decide))
    exact (still.setSlot p h none).trans (reportEnd_rings _ p k)

theorem releaseSlot_termCount (s : State) (p : PositionId) (h : Handset) :
    (s.releaseSlot p h).1.termCount = s.termCount - slotCost (s.slot p h) := by
  have counted {a : State} (count : a.termCount = s.termCount) (slot : a.slot p h = s.slot p h) (k : Key) :
      ((a.setSlot p h none).reportEnd p k).termCount = s.termCount - slotCost (s.slot p h) := by
    rw [reportEnd_frame _ p k .termCount (by decide), setSlot_termCount, count, slot]
    rfl
  unfold State.releaseSlot
  split
  · next slot => rw [slot]; rfl
  · next l k _ =>
    refine counted ?_ ((leave_rings s l p _).slot p h) k
    unfold State.leave
    split
    · rfl
    · exact moveLine_frame s l _ .termCount (by decide)
  · next g k _ =>
    have frame := talkRelease_frame s g p (.handset h)
    exact counted (frame .termCount (by decide)) (by rw [State.slot, State.position, frame .positions (by decide)]; rfl) k

/-- The release of both slots of a position: of the records the slots and rings, and the count falls by both costs. -/
theorem bothReleased (s : State) (p : PositionId) :
    OnlyRings ((s.setSlot p .h0 none).setSlot p .h1 none) ((s.releaseSlot p .h0).1.releaseSlot p .h1).1 ∧
      ((s.releaseSlot p .h0).1.releaseSlot p .h1).1.termCount =
        s.termCount - slotCost (s.slot p .h0) - slotCost (s.slot p .h1) := by
  have first := releaseSlot_rings s p .h0
  have count := releaseSlot_termCount s p .h0
  refine ⟨(first.setSlot p .h1 none).trans (releaseSlot_rings _ p .h1), ?_⟩
  rw [releaseSlot_termCount, count, first.slot, setSlot_slot_ne _ _ (by simp)]

/-! ### The channels and the floors -/

/-- What the loss of a link makes of a channel (R102). -/
def Channel.lost (x y : Channel) : Prop :=
  y.source = x.source ∧ y.ptt = false ∧ y.mustRelease = false ∧
    ∀ l, y.source = some (.line l) → y.attach = .waiting ∧ y.waitReason = some .linkDown

theorem channelLinkLoss_channel (s : State) (p : PositionId) (n : ChannelId) :
    (s.channel p n).lost ((State.channelLinkLoss p s n).channel p n) ∧
      ∀ m, m ≠ n → (State.channelLinkLoss p s n).channel p m = s.channel p m := by
  have written {a : State} (speakers : a.speakers = s.speakers) {y : Channel} (lost : (s.channel p n).lost y) :
      (s.channel p n).lost ((a.setChannel p n y).channel p n) ∧ ∀ m, m ≠ n → (a.setChannel p n y).channel p m = s.channel p m := by
    refine ⟨by rwa [setChannel_channel_self], fun m ne => ?_⟩
    rw [setChannel_channel_ne _ (by simpa using ne), State.channel, State.speaker, speakers]
    rfl
  have left (l : LineId) : (s.leave l p (.channel n)).1.speakers = s.speakers := leave_frame s l p _ .speakers (by decide)
  unfold State.channelLinkLoss
  dsimp only
  split
  · split
    · exact written (left _) ⟨rfl, rfl, rfl, fun _ _ => ⟨rfl, rfl⟩⟩
    · exact written rfl ⟨rfl, rfl, rfl, fun _ _ => ⟨rfl, rfl⟩⟩
  · next g source =>
    have lost : (s.channel p n).lost { s.channel p n with ptt := false, mustRelease := false } :=
      ⟨rfl, rfl, rfl, fun l is => by rw [source] at is; cases is⟩
    split
    · exact written (talkRelease_frame s _ p _ .speakers (by decide)) lost
    · exact written rfl lost
  · next source =>
    exact written rfl ⟨rfl, rfl, rfl, fun l is => by rw [source] at is; cases is⟩

theorem channelLinkLoss_rings (s : State) (p : PositionId) (n : ChannelId) : OnlyRings s (State.channelLinkLoss p s n) := by
  have set (a : State) (y : Channel) : OnlyRings a (a.setChannel p n y) := .of_positions (setChannel_frame a p n y .positions (by decide))
  unfold State.channelLinkLoss
  dsimp only
  split
  · split
    · exact (leave_rings s _ p _).trans (set _ _)
    · exact set s _
  · split
    · exact (OnlyRings.of_positions (talkRelease_frame s _ p _ .positions (by decide))).trans (set _ _)
    · exact set s _
  · exact set s _

/-- Every channel of the position is as the loss leaves it, and of the position records only rings have changed. -/
theorem speakerLinkLoss_is (s : State) (p : PositionId) :
    OnlyRings s (s.speakerLinkLoss p) ∧ ∀ n, (s.channel p n).lost ((s.speakerLinkLoss p).channel p n) := by
  refine ⟨OnlyRings.foldl (fun s n => channelLinkLoss_rings s p n) _ s, fun n => ?_⟩
  obtain ⟨-, each⟩ := foldl_each (F := State.channelLinkLoss p) (get := fun s n => s.channel p n)
    (R := fun _ x y => Channel.lost x y) (P := fun _ => True) (fun _ _ _ => trivial)
    (fun s n _ => (channelLinkLoss_channel s p n).1) (fun s n m _ ne => (channelLinkLoss_channel s p n).2 m ne)
    (ascending 8) (List.nodup_finRange 8) s trivial
  exact (each n).1 (List.mem_finRange n)

/-- The position stands on no floor any more. -/
theorem intercomLinkLoss_is (s : State) (p : PositionId) (g : GroupId) :
    ((s.intercomLinkLoss p).group g).talker? p = none ∧ ((s.intercomLinkLoss p).group g).waiter? p = none := by
  have removed (t : State) (g : GroupId) : ∀ g', (State.removeEntries p t g).group g' =
      (t.setGroup g ((t.group g).withoutEntries (t.floorDue (t.group g)) p)).group g' := by
    intro g'
    rw [removeEntries_is]
    generalize (t.setGroup g ((t.group g).withoutEntries (t.floorDue (t.group g)) p)) = v
    rw [State.group, foldl_raise_frame _ v .groups (by decide)]
    rfl
  obtain ⟨-, each⟩ := foldl_each (F := State.removeEntries p) (get := State.group)
    (R := fun _ _ (y : Group) => y.talker? p = none ∧ y.waiter? p = none) (P := fun _ => True) (fun _ _ _ => trivial)
    (fun t g _ => by rw [removed, State.setGroup_group]; exact withoutEntries_no_entry _ p _)
    (fun t g g' _ ne => by rw [removed, State.setGroup_group_ne _ _ ne])
    (ascending 16) (List.nodup_finRange 16) s trivial
  exact (each g).1 (List.mem_finRange g)

/-! ### The position's part of the loss -/

/-- The position's live state is cleared, its link is not UP, and its layout and selection stay (R55). -/
theorem positionLinkLoss_cleared (s : State) (p : PositionId) : PositionCleared p s (s.positionLinkLoss p) ∧
    ((s.positionLinkLoss p).position p).linkUp = false ∧
    ((s.positionLinkLoss p).position p).layout = (s.position p).layout ∧
    (s.positionLinkLoss p).selected p = s.selected p ∧
    ∀ q, q ≠ p → ((s.positionLinkLoss p).position q).linkUp = (s.position q).linkUp := by
  obtain ⟨s1, h1⟩ : ∃ s1, s1 = s.setPosition p { s.position p with linkUp := false } := ⟨_, rfl⟩
  obtain ⟨s2, h2⟩ : ∃ s2, s2 = ((s1.releaseSlot p .h0).1.releaseSlot p .h1).1 := ⟨_, rfl⟩
  obtain ⟨s3, h3⟩ : ∃ s3, s3 = s2.speakerLinkLoss p := ⟨_, rfl⟩
  obtain ⟨s4, h4⟩ : ∃ s4, s4 = s3.intercomLinkLoss p := ⟨_, rfl⟩
  have is : s.positionLinkLoss p = s4.setPosition p (s4.position p).linkLost := by
    rw [h4, h3, h2, h1]
    rfl
  obtain ⟨rings2, count2⟩ := bothReleased s1 p
  rw [← h2] at rings2 count2
  obtain ⟨rings3, channels⟩ := speakerLinkLoss_is s2 p
  rw [← h3] at rings3 channels
  have frame3 := speakerLinkLoss_frame s2 p
  have frame4 := intercomLinkLoss_frame s3 p
  rw [← h3] at frame3
  rw [← h4] at frame4
  have floors := intercomLinkLoss_is s3 p
  rw [← h4] at floors
  have written : SameExcept [.positions] s s1 := h1 ▸ setPosition_frame s p _
  have released : SameExcept slotParts s1 s2 := by
    rw [h2]
    exact (releaseSlot_frame s1 p .h0).trans (releaseSlot_frame _ p .h1)
  have rings4 : OnlyRings ((s1.setSlot p .h0 none).setSlot p .h1 none) s4 :=
    (rings2.trans rings3).trans (.of_positions (frame4 .positions (by decide)))
  have here1 : s1.position p = { s.position p with linkUp := false } := by rw [h1, State.setPosition_position]
  have others1 (q : PositionId) (ne : q ≠ p) : s1.position q = s.position q := by rw [h1, State.setPosition_position_ne _ _ ne]
  have here2 : ((s1.setSlot p .h0 none).setSlot p .h1 none).position p =
      { s.position p with
        linkUp := false, h0 := { (s.position p).h0 with slot := none }, h1 := { (s.position p).h1 with slot := none } } := by
    rw [(setSlot_position _ p .h1 none).1, (setSlot_position s1 p .h0 none).1, here1]
    rfl
  have others2 (q : PositionId) (ne : q ≠ p) : ((s1.setSlot p .h0 none).setSlot p .h1 none).position q = s.position q := by
    rw [(setSlot_position _ p .h1 none).2 q ne, (setSlot_position s1 p .h0 none).2 q ne, others1 q ne]
  obtain ⟨w, hw⟩ : ∃ w, w = s.positionLinkLoss p := ⟨_, rfl⟩
  have here : w.position p = (s4.position p).linkLost := by rw [hw, is, State.setPosition_position]
  have others (q : PositionId) (ne : q ≠ p) : w.position q = s4.position q := by
    rw [hw, is, State.setPosition_position_ne _ _ ne]
  have frameW : SameExcept [.positions] s4 w := by rw [hw, is]; exact setPosition_frame s4 p _
  have record := rings4 p
  rw [here2] at record
  rw [record] at here
  have other (q : PositionId) (ne : q ≠ p) : w.position q =
      { s.position q with ringQueue := (w.position q).ringQueue, ringer := (w.position q).ringer } := by
    have := rings4 q
    rw [others2 q ne] at this
    rw [others q ne]
    exact this
  have channelOf (n : ChannelId) : w.channel p n = s3.channel p n :=
    (channel_of_frame frameW).trans (channel_of_frame frame4)
  have before (n : ChannelId) : s2.channel p n = s.channel p n := (channel_of_frame released).trans (channel_of_frame written)
  rw [← hw]
  refine ⟨⟨fun h => ?_, fun j => ?_, fun x => ?_, fun q ne h => ?_, fun n => ?_, fun g => ?_, ?_⟩, ?_, ?_, ?_, fun q ne => ?_⟩
  · rw [State.slot, State.hook, here]
    cases h <;> exact ⟨rfl, rfl⟩
  · rw [here]
    unfold Position.knob
    split <;> rfl
  · rw [here]
    exact Table.get_fill _ _
  · rw [State.slot, State.hook, other q ne]
    cases h <;> exact ⟨rfl, rfl⟩
  · have lost := channels n
    rw [before] at lost
    rw [channelOf]
    exact lost
  · have group : w.group g = s4.group g := by rw [State.group, frameW .groups (by decide)]; rfl
    rw [group]
    exact floors g
  · rw [frameW .termCount (by decide), frame4 .termCount (by decide), frame3 .termCount (by decide), count2,
      written .termCount (by decide), State.slot, State.slot, here1]
    rfl
  · rw [here]
    rfl
  · rw [here]
    rfl
  · rw [State.selected, here]
    rfl
  · rw [other q ne]

end Sys2Proof.Machine
end

section
/-! PROOFS. What the loss of a link makes of the lines: each party of the position leaves (R20, R55, R102). -/

namespace Sys2Proof.Machine

-- One theorem after another: side by side they hold the memory of too many stacks.
set_option Elab.async false

/-! ### Records that parties of one position have left -/

/-- Record `y` is `x` after some parties of `p` have left it, with GUARD due at `due` after the last (R9, R20). -/
structure Line.Left (p : PositionId) (due : Nat) (x y : Line) : Prop where
  others : y.parties.filter (fun z => decide (z.position ≠ p)) = x.parties.filter (fun z => decide (z.position ≠ p))
  sub : y.parties.Sublist x.parties
  record : y = x ∨
    (y.parties ≠ [] ∧ y.parties.length < x.parties.length ∧ ∃ ps v, y = { x with parties := ps, privacy := v }) ∨
    (x.parties ≠ [] ∧ y = { x with
      state := .guard, parties := [], privacy := false, sz := false, rg := false, unanswered := false
      burstCount := 0, timer := some ⟨.guard, due⟩ })

theorem Line.Left.refl (p : PositionId) (due : Nat) (x : Line) : x.Left p due x := ⟨rfl, .refl _, .inl rfl⟩

theorem Line.Left.leave {p : PositionId} {due : Nat} {x y : Line} (h : x.Left p due y) {path : Path} (seat : y.seats p path) :
    x.Left p due (y.afterLeave (some ⟨.guard, due⟩) p path) := by
  obtain ⟨z, hz, at_, by_⟩ := seat
  have others : (y.without p path).filter (fun z => decide (z.position ≠ p)) = y.parties.filter fun z => decide (z.position ≠ p) := by
    rw [Line.without, List.filter_filter]
    refine List.filter_congr fun v _ => ?_
    by_cases e : v.position = p <;> simp [e, Party.is]
  have sub : (y.without p path).Sublist y.parties := List.filter_sublist
  have less : (y.without p path).length < y.parties.length := by
    refine List.length_filter_lt_length_iff_exists.2 ⟨z, hz, ?_⟩
    simp [at_, by_]
  have parties : (y.afterLeave (some ⟨.guard, due⟩) p path).parties = y.without p path := Line.afterLeave_parties _ _ _ _
  refine ⟨by rw [parties, others, h.others], by rw [parties]; exact sub.trans h.sub, ?_⟩
  have some_ : x.parties ≠ [] := fun e => by
    have := h.sub.subset hz
    rw [e] at this
    cases this
  have alive : y = x ∨ ∃ ps v, y = { x with parties := ps, privacy := v } := by
    rcases h.record with e | ⟨-, -, ps, v, e⟩ | ⟨-, e⟩
    · exact .inl e
    · exact .inr ⟨ps, v, e⟩
    · rw [e] at hz
      cases hz
  obtain ⟨ps, v, same⟩ : ∃ ps v, y = { x with parties := ps, privacy := v } := by
    rcases alive with rfl | e
    · exact ⟨_, _, rfl⟩
    · exact e
  unfold Line.afterLeave
  dsimp only
  cases rest : y.without p path with
  | nil =>
    refine .inr (.inr ⟨some_, ?_⟩)
    rw [same]
    rfl
  | cons a as =>
    refine .inr (.inl ⟨by simp, ?_, a :: as, y.privacy && !y.isPrincipal p path, ?_⟩)
    · rw [rest] at less
      exact less.trans_le h.sub.length_le
    · rw [same]

/-- A well-formed line with parties that some have left is in a call or in GUARD. -/
theorem Line.Left.calm {p : PositionId} {due : Nat} {x y : Line} (h : x.Left p due y) (ok : x.ok) (some_ : x.parties ≠ []) :
    y.state = .calling ∨ y.state = .active ∨ y.state = .guard := by
  obtain ⟨z, hz⟩ := List.exists_mem_of_ne_nil _ some_
  have live := ok.in_call hz
  rcases h.record with rfl | ⟨-, -, ps, v, rfl⟩ | ⟨-, rfl⟩
  · exact live.imp id .inl
  · exact live.imp id .inl
  · exact .inr (.inr rfl)

/-- When no party of `p` is left, the record is as R20 leaves it after all of them. -/
theorem Line.Left.all {p : PositionId} {due : Nat} {x y : Line} (h : x.Left p due y) (gone : ∀ z ∈ y.parties, z.position ≠ p) :
    y.parties = x.parties.filter (fun z => decide (z.position ≠ p)) ∧ (y.parties = x.parties → y = x) ∧
      (y.parties ≠ x.parties → y.parties ≠ [] → y.state = x.state) ∧
      (y.parties ≠ x.parties → y.parties = [] → y = { x with
        state := .guard, parties := [], privacy := false, sz := false, rg := false, unanswered := false
        burstCount := 0, timer := some ⟨.guard, due⟩ }) := by
  refine ⟨?_, fun same => ?_, fun changed some_ => ?_, fun changed none => ?_⟩
  · rw [← h.others, List.filter_eq_self.2]
    exact fun z hz => by simpa using gone z hz
  · rcases h.record with e | ⟨-, less, -⟩ | ⟨some_, e⟩
    · exact e
    · rw [same] at less
      exact absurd less (lt_irrefl _)
    · rw [e] at same
      exact absurd same.symm some_
  · rcases h.record with e | ⟨-, -, ps, v, e⟩ | ⟨-, e⟩
    · rw [e]
    · rw [e]
    · rw [e] at some_
      exact absurd rfl some_
  · rcases h.record with e | ⟨some_, -⟩ | ⟨-, e⟩
    · rw [e] at changed
      exact absurd rfl changed
    · exact absurd none some_
    · exact e

/-! ### The walk of the loss -/

/-- Parties of `p` alone have left the lines, and the lines offered had parties. -/
structure Leaving (p : PositionId) (s w : State) : Prop where
  lines : ∀ l, (s.line l).Left p (s.clock + s.params.guardTime * 8) (w.line l)
  offers : ∀ l ∈ w.offers, l ∈ s.offers ∨ (s.line l).parties ≠ []
  clock : w.clock = s.clock
  params : w.params = s.params

theorem Leaving.refl (p : PositionId) (s : State) : Leaving p s s :=
  ⟨fun _ => .refl _ _ _, fun _ h => .inl h, rfl, rfl⟩

section
variable {p : PositionId} {s w : State} (walk : Leaving p s w)
include walk

theorem Leaving.frame {ch : List Part} {v : State} (frame : SameExcept ch w v)
    (rest : ∀ q ∈ ch, q ∈ [Part.positions, .termCount, .directory, .notices, .groups, .speakers] := by decide) :
    Leaving p s v := by
  have frame := frame.mono rest
  refine ⟨fun l => ?_, fun l hl => ?_, (frame .clock (by decide)).trans walk.clock, (frame .params (by decide)).trans walk.params⟩
  · rw [lines_of_frame frame (by decide) l]
    exact walk.lines l
  · rw [frame .offers (by decide)] at hl
    exact walk.offers l hl

theorem Leaving.leave (l : LineId) (path : Path) : Leaving p s (w.leave l p path).1 := by
  unfold State.leave
  split
  · exact walk
  · next x party =>
    obtain ⟨hx, at_, by_⟩ := Line.of_party? party
    have timer : w.startTimer .guard = some ⟨.guard, s.clock + s.params.guardTime * 8⟩ := by
      rw [← walk.clock, ← walk.params]
      rfl
    have m := moveLine_moved w l ((w.line l).afterLeave (w.startTimer .guard) p path)
    dsimp only
    refine ⟨fun k => ?_, fun k hk => ?_, (m.frame .clock (by decide)).trans walk.clock,
      (m.frame .params (by decide)).trans walk.params⟩
    · by_cases e : k = l
      · rw [e, m.line, timer]
        exact (walk.lines l).leave ⟨x, hx, at_, by_⟩
      · rw [m.others k e]
        exact walk.lines k
    · rcases m.offers k hk with h | rfl
      · exact walk.offers k h
      · refine .inr fun e => ?_
        have := (walk.lines k).sub.subset hx
        rw [e] at this
        cases this

theorem Leaving.released (h : Handset) : Leaving p s (w.releaseSlot p h).1 := by
  unfold State.releaseSlot
  split
  · exact walk
  · next l k _ => exact ((walk.leave l (.handset h)).frame (setSlot_frame _ p h none)).frame (reportEnd_frame _ p k)
  · next g k _ =>
    exact ((walk.frame (talkRelease_frame w g p (.handset h))).frame (setSlot_frame _ p h none)).frame (reportEnd_frame _ p k)

theorem Leaving.channel (n : ChannelId) : Leaving p s (State.channelLinkLoss p w n) := by
  unfold State.channelLinkLoss
  dsimp only
  split
  · split
    · exact (walk.leave _ _).frame (setChannel_frame _ p n _)
    · exact walk.frame (setChannel_frame w p n _)
  · split
    · exact (walk.frame (talkRelease_frame w _ p _)).frame (setChannel_frame _ p n _)
    · exact walk.frame (setChannel_frame w p n _)
  · exact walk.frame (setChannel_frame w p n _)

end

theorem positionLinkLoss_leaving (s : State) (p : PositionId) : Leaving p s (s.positionLinkLoss p) := by
  have first := (((Leaving.refl p s).frame (setPosition_frame s p { s.position p with linkUp := false })).released .h0).released .h1
  have walked : ∀ (ns : List ChannelId) (w : State), Leaving p s w → Leaving p s (ns.foldl (State.channelLinkLoss p) w) := by
    intro ns
    induction ns with
    | nil => exact fun _ walk => walk
    | cons n ns ih => exact fun w walk => ih _ (walk.channel n)
  unfold State.positionLinkLoss
  dsimp only
  exact ((walked (ascending 8) _ first).frame (intercomLinkLoss_frame _ p)).frame (setPosition_frame _ p _)

/-! ### The end of the event at the lost position -/

/-- What the takes at other positions leave while the link of `p` is not UP. -/
structure TakenElsewhere (p : PositionId) (s t : State) : Prop where
  rings : OnlyRings s t
  channel : ∀ n, t.channel p n = s.channel p n

theorem TakenElsewhere.refl (p : PositionId) (s : State) : TakenElsewhere p s s := ⟨.refl s, fun _ => rfl⟩

theorem TakenElsewhere.trans {p : PositionId} {s t u : State} (h : TakenElsewhere p s t) (k : TakenElsewhere p t u) :
    TakenElsewhere p s u := ⟨h.rings.trans k.rings, fun n => (k.channel n).trans (h.channel n)⟩

theorem attachOne_elsewhere {s : State} {p : PositionId} (down : (s.position p).linkUp = false) (l : LineId) (q : PositionId)
    (n : ChannelId) : TakenElsewhere p s (State.attachOne l q s n) := by
  unfold State.attachOne
  split
  · next waits =>
    obtain ⟨up, -⟩ := State.awaits_iff.1 waits
    have ne : q ≠ p := fun e => by rw [e, down] at up; cases up
    exact ⟨sendTake_rings s q n, fun m => sendTake_channel_ne s fun e => ne (Prod.mk.inj e).1.symm⟩
  · exact .refl p s

theorem foldl_elsewhere {α : Type} {p : PositionId} {f : State → α → State}
    (each : ∀ s a, (s.position p).linkUp = false → TakenElsewhere p s (f s a)) (xs : List α) (s : State)
    (down : (s.position p).linkUp = false) : TakenElsewhere p s (xs.foldl f s) := by
  induction xs generalizing s with
  | nil => exact .refl p s
  | cons x xs ih =>
    have first := each s x down
    exact first.trans (ih _ ((first.rings.linkUp p).trans down))

theorem finish_elsewhere {s : State} {p : PositionId} (down : (s.position p).linkUp = false) : TakenElsewhere p s s.finish := by
  have attach (u : State) (l : LineId) (h : (u.position p).linkUp = false) : TakenElsewhere p u (u.attachOpportunity l) :=
    foldl_elsewhere (fun u q h => foldl_elsewhere (fun u n h => attachOne_elsewhere h l q n) _ u h) _ u h
  have taken := foldl_elsewhere attach s.offers { s with offers := [] } down
  unfold State.finish State.takeOffers
  generalize s.offers.foldl State.attachOpportunity { s with offers := [] } = u at taken
  exact ⟨taken.rings, taken.channel⟩

/-! ### Takes that raise no notice -/

/-- The lines `ls` neither are IDLE nor RINGING. -/
def State.settledLines (s : State) (ls : List LineId) : Prop := ∀ l ∈ ls, (s.line l).state ≠ .idle ∧ (s.line l).state ≠ .ringing

/-- A take of a line that is neither IDLE nor RINGING by a channel keeps the line's state and raises no notice (R11, R14). -/
theorem attachOne_quiet {s : State} {l : LineId} (calm : (s.line l).state ≠ .idle ∧ (s.line l).state ≠ .ringing) (q : PositionId)
    (n : ChannelId) : (State.attachOne l q s n).notices = s.notices ∧
      ∀ m, ((State.attachOne l q s n).line m).state = (s.line m).state := by
  unfold State.attachOne
  split
  · next waits =>
    obtain ⟨-, source, waiting⟩ := State.awaits_iff.1 waits
    by_cases judged : judgeTake (s.line l) (speakerTake q n (s.channel q n).talkback) = .ok
    · have inCall : (s.line l).state = .calling ∨ (s.line l).state = .active := by
        cases e : (s.line l).state with
        | calling => exact .inl rfl
        | active => exact .inr rfl
        | idle => exact absurd e calm.1
        | ringing => exact absurd e calm.2
        | _ => simp [judgeTake, judgePickup, speakerTake, Path.isHandset, e] at judged
      have after : ((s.line l).afterTake (s.startTimer .burst) (speakerTake q n (s.channel q n).talkback)).state =
          (s.line l).state := by
        rcases inCall with e | e <;> simp only [Line.afterTake, e]
      have still := moveLine_still_frame after
      rw [sendTake_taken source waiting judged]
      have m := moveLine_moved s l ((s.line l).afterTake (s.startTimer .burst) (speakerTake q n (s.channel q n).talkback))
      generalize s.moveLine l _ = v at still m
      refine ⟨still .notices (by decide), fun k => ?_⟩
      show (v.line k).state = _
      by_cases e : k = l
      · rw [e, m.line, after]
      · rw [m.others k e]
    · rw [sendTake_refused source waiting judged rfl]
      exact ⟨rfl, fun _ => rfl⟩
  · exact ⟨rfl, fun _ => rfl⟩

/-- Takes of settled lines raise no notice. -/
theorem finish_quiet {s : State} (calm : s.settledLines s.offers) : s.finish.notices = s.notices := by
  have folded {α : Type} {f : State → α → State} {ls : List LineId}
      (each : ∀ u a, u.settledLines ls → (f u a).notices = u.notices ∧ (f u a).settledLines ls) (xs : List α) :
      ∀ u : State, u.settledLines ls → (xs.foldl f u).notices = u.notices ∧ (xs.foldl f u).settledLines ls := by
    induction xs with
    | nil => exact fun u h => ⟨rfl, h⟩
    | cons x xs ih =>
      intro u h
      obtain ⟨same, kept⟩ := each u x h
      obtain ⟨same', kept'⟩ := ih _ kept
      exact ⟨same'.trans same, kept'⟩
  have one (l : LineId) (hl : l ∈ s.offers) (u : State) (h : u.settledLines s.offers) :
      (u.attachOpportunity l).notices = u.notices ∧ (u.attachOpportunity l).settledLines s.offers := by
    refine folded (fun u q h => folded (fun u n h => ?_) _ u h) _ u h
    obtain ⟨same, states⟩ := attachOne_quiet (h l hl) q n
    exact ⟨same, fun m hm => by rw [states]; exact h m hm⟩
  have taken : ∀ (ls : List LineId), (∀ l ∈ ls, l ∈ s.offers) → ∀ u : State, u.settledLines s.offers →
      (ls.foldl State.attachOpportunity u).notices = u.notices := by
    intro ls
    induction ls with
    | nil => exact fun _ _ _ => rfl
    | cons l ls ih =>
      intro mem u h
      obtain ⟨same, kept⟩ := one l (mem l List.mem_cons_self) u h
      rw [List.foldl_cons, ih (fun m hm => mem m (List.mem_cons_of_mem _ hm)) _ kept, same]
  have all := taken s.offers (fun _ h => h) { s with offers := [] } calm
  unfold State.finish State.takeOffers
  generalize s.offers.foldl State.attachOpportunity { s with offers := [] } = u at all ⊢
  exact all

end Sys2Proof.Machine
end

section
/-! PROOFS. The loss of a link as one event, by its timer (R55, R153). -/

namespace Sys2Proof.Machine

-- One theorem after another: side by side they hold the memory of too many stacks.
set_option Elab.async false

/-! ### Agreement of seats and channels across the loss -/

theorem SameAttach.agree {s t : State} (a : SameAttach s t) (h : s.attachAgree) : t.attachAgree := by
  intro p n l
  obtain ⟨source, attach, -⟩ := a.channel p n
  refine (a.speaks p n l).trans ((h p n l).trans ?_)
  rw [source, attach]

/-- The loss writes one channel, and its seat goes with it (R102). -/
theorem channelLinkLoss_becomes {s : State} (h : s.attachAgree) (p : PositionId) (n : ChannelId) :
    ∃ x, ChannelBecomes p n x s (State.channelLinkLoss p s n) := by
  unfold State.channelLinkLoss
  dsimp only
  split
  · next l source =>
    split
    · exact ⟨_, detached_becomes h source (by simp)⟩
    · next loose =>
      refine ⟨_, setChannel_becomes h fun j => ⟨fun a => absurd a (not_attachedTo (by simp) j), fun a => ?_⟩⟩
      exact absurd a (not_attachedTo loose j)
  · split
    · have released := talkRelease_sameAttach (s := s) ‹_› p (.channel n)
      refine ⟨_, .of_setChannel (talkRelease_frame s _ p _ .speakers (by decide)) (fun q m j _ => released.speaks q m j) fun j => ?_⟩
      exact (released.speaks p n j).trans (h p n j)
    · exact ⟨_, setChannel_becomes h fun j => Iff.rfl⟩
  · exact ⟨_, setChannel_becomes h fun j => Iff.rfl⟩

/-- The position's part of the loss keeps the agreement, and changes no channel of another position. -/
theorem positionLinkLoss_agree {s : State} (h : s.attachAgree) (p : PositionId) : (s.positionLinkLoss p).attachAgree ∧
    ∀ q n, q ≠ p → (s.positionLinkLoss p).channel q n = s.channel q n := by
  obtain ⟨a, ha⟩ : ∃ a, a = (((s.setPosition p { s.position p with linkUp := false }).releaseSlot p .h0).1.releaseSlot p .h1).1 :=
    ⟨_, rfl⟩
  have frame : SameExcept slotParts s a := by
    rw [ha]
    exact ((setPosition_frame s p _).mono (by decide)).trans ((releaseSlot_frame _ p .h0).trans (releaseSlot_frame _ p .h1))
  have agree : a.attachAgree := by
    rw [ha]
    exact ((SameAttach.of_frame (setPosition_frame s p _)).trans
      ((releaseSlot_sameAttach p .h0).trans (releaseSlot_sameAttach p .h1))).agree h
  have walked : ∀ (ns : List ChannelId) (u : State), u.attachAgree → (ns.foldl (State.channelLinkLoss p) u).attachAgree ∧
      ∀ q n, q ≠ p → (ns.foldl (State.channelLinkLoss p) u).channel q n = u.channel q n := by
    intro ns
    induction ns with
    | nil => exact fun u hu => ⟨hu, fun _ _ _ => rfl⟩
    | cons n ns ih =>
      intro u hu
      obtain ⟨x, became⟩ := channelLinkLoss_becomes hu p n
      obtain ⟨kept, others⟩ := ih (State.channelLinkLoss p u n) (became.agree hu)
      exact ⟨kept, fun q m ne => (others q m ne).trans (became.others q m fun e => ne (Prod.mk.inj e).1)⟩
  obtain ⟨kept, others⟩ := walked (ascending 8) a agree
  have is : s.positionLinkLoss p = ((a.speakerLinkLoss p).intercomLinkLoss p).setPosition p
      (((a.speakerLinkLoss p).intercomLinkLoss p).position p).linkLost := by
    rw [ha]
    rfl
  have frame4 := intercomLinkLoss_frame (a.speakerLinkLoss p) p
  have last : SameExcept [.groups, .notices, .positions] (a.speakerLinkLoss p) (s.positionLinkLoss p) := by
    rw [is]
    exact frame4.step (ch := [.groups, .notices, .positions]) (setPosition_frame _ p _)
  refine ⟨(SameAttach.of_frame last).agree kept, fun q n ne => ?_⟩
  exact (channel_of_frame last).trans ((others q n ne).trans (channel_of_frame frame))

/-- No party of the position is left on any line. -/
theorem positionLinkLoss_gone {p : PositionId} {s : State} (ok : s.linesOk) (slots : s.slotsAgree) (agree : s.attachAgree) (l : LineId) :
    ∀ z ∈ ((s.positionLinkLoss p).line l).parties, z.position ≠ p := by
  obtain ⟨⟨emptied, -, -, -, channels, -⟩, -⟩ := positionLinkLoss_cleared s p
  obtain ⟨agree', -⟩ := positionLinkLoss_agree agree p
  obtain ⟨ok', slots'⟩ := (positionLinkLoss_evolves s p).keeps (P := fun s => s.linesOk ∧ s.slotsAgree)
    (fun _ _ m h => ⟨m.linesOk h.1, m.slotsAgree h.1 h.2⟩) ⟨ok, slots⟩
  generalize s.positionLinkLoss p = w at emptied channels agree' ok' slots' ⊢
  intro z hz at_
  cases path : z.path with
  | handset h =>
    have keyed := (ok' l).keyOfHandset z hz
    rw [path] at keyed
    obtain ⟨k, key⟩ := Option.isSome_iff_exists.1 keyed
    have filled := (slots' p h l k).2 ⟨z, hz, at_, path, key⟩
    rw [(emptied h).1] at filled
    cases filled
  | channel n =>
    obtain ⟨source, attached⟩ := (agree' p n l).1 ⟨z, hz, at_, path⟩
    have waiting := ((channels n).2.2.2 l source).1
    rw [attached] at waiting
    cases waiting

/-! ### The loss as one event -/

/-- The clearance seen from before the event and from its end. -/
theorem PositionCleared.around {p : PositionId} {s u w t : State} (c : PositionCleared p u w)
    (before : SameExcept [.clock, .links, .lamps] s u) (slot : ∀ q h, t.slot q h = w.slot q h) (hook : ∀ q h, t.hook q h = w.hook q h)
    (knob : ∀ j, (t.position p).knob j = (w.position p).knob j) (deny : (t.position p).deny = (w.position p).deny)
    (channel : ∀ n, t.channel p n = w.channel p n) (groups : t.groups = w.groups) (count : t.termCount = w.termCount) :
    PositionCleared p s t := by
  obtain ⟨slots, knobs, denies, others, channels, floors, terms⟩ := c
  have position (q : PositionId) : u.position q = s.position q := by rw [State.position, before .positions (by decide)]; rfl
  have slotU (q : PositionId) (h : Handset) : u.slot q h = s.slot q h := by rw [State.slot, position]; rfl
  have hookU (q : PositionId) (h : Handset) : u.hook q h = s.hook q h := by rw [State.hook, position]; rfl
  have group (g : GroupId) : t.group g = w.group g := by rw [State.group, groups]; rfl
  refine ⟨fun h => ?_, fun j => ?_, fun x => ?_, fun q ne h => ?_, fun n => ?_, fun g => ?_, ?_⟩
  · rw [slot, hook]
    exact slots h
  · rw [knob, knobs j, position]
  · rw [deny]
    exact denies x
  · rw [slot, hook, ← slotU, ← hookU]
    exact others q ne h
  · rw [channel, ← channel_of_frame before]
    exact channels n
  · rw [group]
    exact floors g
  · rw [count, terms, slotU, slotU, before .termCount (by decide)]

/-- State `t` is what the loss of the UP link of `p` with cause `c` leaves (R55, R153). -/
structure LinkGone (p : PositionId) (c : LossCause) (s t : State) : Prop where
  link : t.link p = (s.link p).lost c
  others : ∀ q, q ≠ p → t.link q = { s.link q with lampQueue := (t.link q).lampQueue }
  stale : (t.lamps.get p).stale = true
  cleared : PositionCleared p s t
  linkUp : (t.position p).linkUp = false
  layout : (t.position p).layout = (s.position p).layout
  selected : t.selected p = s.selected p
  told : s.linesOk → ∃ bs, Raised (bs ++ [.linkDown p c]) s t
  frame : SameExcept [.lines, .positions, .lamps, .groups, .speakers, .termCount, .directory, .links, .notices] s t
  offers : t.offers = []

/-- The end of an event leaves the lamp queue and the stale mark of a position whose link is not UP (R66). -/
theorem finish_down {s : State} {p : PositionId} (down : (s.position p).linkUp = false) :
    s.finish.link p = s.link p ∧ (s.finish.lamps.get p).stale = (s.lamps.get p).stale := by
  have taken := finish_elsewhere down
  have frame := takeOffers_frame s
  have down' : (s.takeOffers.position p).linkUp = false := (taken.rings.linkUp p).trans down
  have is : s.finish = s.takeOffers.sendLamps := rfl
  rw [is]
  generalize s.takeOffers = u at frame down'
  have link : u.link p = s.link p := by rw [State.link, frame .links (by decide)]; rfl
  constructor
  · rw [sendLamps_link, dueUpdates_down u (.inl down'), link]
    rfl
  · simp only [State.sendLamps, Table.get_ofFn]
    rw [frame .lamps (by decide)]

theorem linkLoss_gone {s : State} (noOffers : s.offers = []) (p : PositionId) (c : LossCause) :
    LinkGone p c s (s.linkLoss p c) := by
  obtain ⟨u, hu⟩ : ∃ u : State, u = { s.setLink p ((s.link p).lost c) with
    lamps := s.lamps.set p { s.lamps.get p with stale := true } } := ⟨_, rfl⟩
  have before : SameExcept [.links, .lamps] s u := by
    rw [hu]
    intro q hq
    cases q <;> first | rfl | exact absurd (by decide) hq
  obtain ⟨cleared, down, layout, selected, linkUp⟩ := positionLinkLoss_cleared u p
  have walk := positionLinkLoss_leaving u p
  have frameW := positionLinkLoss_frame u p
  obtain ⟨clockW, bs, toldW⟩ := positionLinkLoss_told u p
  obtain ⟨w, hw⟩ : ∃ w, w = u.positionLinkLoss p := ⟨_, rfl⟩
  have is : s.linkLoss p c = (w.raise (.linkDown p c)).finish := by
    rw [hw, hu]
    rfl
  rw [← hw] at cleared down layout selected linkUp walk frameW toldW clockW
  rw [is]
  have raised := raise_frame w (.linkDown p c)
  have told : Raised (bs ++ [.linkDown p c]) u (w.raise (.linkDown p c)) := toldW.trans (raise_raised w _) rfl
  have down' : ((w.raise (.linkDown p c)).position p).linkUp = false := down
  obtain ⟨v, hv⟩ : ∃ v, v = w.raise (.linkDown p c) := ⟨_, rfl⟩
  rw [← hv] at raised told down' ⊢
  have elsewhere := finish_elsewhere down'
  obtain ⟨link, stale⟩ := finish_down down'
  have finished := finish_frame v
  have ringsV : OnlyRings w v.finish := (OnlyRings.of_positions (raised .positions (by decide))).trans elsewhere.rings
  have all : SameExcept [.lines, .positions, .notices, .offers, .groups, .termCount, .directory, .speakers] u v :=
    frameW.step raised
  have position (q : PositionId) : u.position q = s.position q := by rw [State.position, before .positions (by decide)]; rfl
  have links : v.links = u.links := all .links (by decide)
  have linkV (q : PositionId) : v.link q = u.link q := by rw [State.link, links]; rfl
  refine ⟨?_, fun q ne => ?_, ?_, cleared.around (before.mono (by decide)) ringsV.slot ringsV.hook
    (fun j => by rw [ringsV p]; rfl) (by rw [ringsV p]) (fun n => (elsewhere.channel n).trans
    (channel_of_frame raised)) ((finished .groups (by decide)).trans (raised .groups (by decide)))
    ((finished .termCount (by decide)).trans (raised .termCount (by decide))), (ringsV.linkUp p).trans down, ?_, ?_,
    fun ok => ⟨bs, ?_⟩, ?_, rfl⟩
  · rw [link, linkV, hu]
    exact State.setLink_link s p _
  · have queue := finish_queues v q
    have other : v.link q = s.link q := by
      rw [linkV, hu]
      exact State.setLink_link_ne s _ ne
    rwa [other] at queue
  · rw [stale, all .lamps (by decide), hu]
    exact congrArg LampImage.stale (Table.get_set_self _ _ _)
  · rw [ringsV p]
    exact layout.trans (by rw [position])
  · rw [ringsV.selected, selected, State.selected, position]
    rfl
  · have calm : v.settledLines v.offers := by
      intro l hl
      rw [raised .offers (by decide)] at hl
      have some_ : (u.line l).parties ≠ [] := by
        rcases walk.offers l hl with h | h
        · rw [before .offers (by decide), noOffers] at h
          cases h
        · exact h
      have okU : (u.line l).ok := by rw [lines_of_frame before (by decide) l]; exact ok l
      have state := (walk.lines l).calm okU some_
      rw [lines_of_frame raised (by decide) l]
      rcases state with e | e | e <;> rw [e] <;> exact ⟨by simp, by simp⟩
    exact (Raised.after before told).congr rfl (finish_quiet calm) (finished .clock (by decide))
  · refine SameExcept.narrow
      (ch := [.lines, .positions, .lamps, .groups, .speakers, .termCount, .directory, .links, .notices, .offers])
      ((before.mono (by decide)).trans ((all.mono (by decide)).trans (finished.mono (by decide)))) fun q hq hn => ?_
    cases q <;> first | exact absurd (by decide) hn | exact noOffers.symm | exact absurd hq (by decide)

/-- The lines after the loss: the parties of the position have left, where no other position's channel waits (R20, R55). -/
theorem linkLoss_lines {s : State} (p : PositionId) (c : LossCause) (ok : s.linesOk)
    (slots : s.slotsAgree) (agree : s.attachAgree) (alone : ∀ q n, q ≠ p → (s.channel q n).attach ≠ .waiting) (l : LineId) :
    (s.line l).Left p (s.clock + s.params.guardTime * 8) ((s.linkLoss p c).line l) ∧
      ∀ z ∈ ((s.linkLoss p c).line l).parties, z.position ≠ p := by
  obtain ⟨u, hu⟩ : ∃ u : State, u = { s.setLink p ((s.link p).lost c) with
    lamps := s.lamps.set p { s.lamps.get p with stale := true } } := ⟨_, rfl⟩
  have before : SameExcept [.links, .lamps] s u := by
    rw [hu]
    intro q hq
    cases q <;> first | rfl | exact absurd (by decide) hq
  have lineU (m : LineId) : u.line m = s.line m := lines_of_frame before (by decide) m
  have slotsU : u.slotsAgree := by rw [hu]; exact slots
  have agreeU : u.attachAgree := by rw [hu]; exact agree
  have okU : u.linesOk := fun m => by rw [lineU]; exact ok m
  obtain ⟨-, down, -⟩ := positionLinkLoss_cleared u p
  have walk := positionLinkLoss_leaving u p
  have gone := positionLinkLoss_gone (p := p) okU slotsU agreeU l
  obtain ⟨-, channels⟩ := positionLinkLoss_agree agreeU p
  obtain ⟨w, hw⟩ : ∃ w, w = u.positionLinkLoss p := ⟨_, rfl⟩
  have is : s.linkLoss p c = (w.raise (.linkDown p c)).finish := by
    rw [hw, hu]
    rfl
  rw [← hw] at down walk gone channels
  have free : ∀ m ∈ (w.raise (.linkDown p c)).offers, (w.raise (.linkDown p c)).noneWaits m := by
    intro m _ q n
    show w.awaits m q n = false
    rw [Bool.eq_false_iff]
    intro waits
    obtain ⟨up, -, waiting⟩ := State.awaits_iff.1 waits
    by_cases e : q = p
    · rw [e, down] at up
      cases up
    · rw [channels q n e, channel_of_frame before] at waiting
      exact alone q n e waiting
  have line : (s.linkLoss p c).line l = w.line l := by
    rw [is]
    exact (finish_ended free).line l
  have left := walk.lines l
  rw [lineU, before .clock (by decide), before .params (by decide)] at left
  rw [line]
  exact ⟨left, gone⟩

/-- Settles O53: the loss timer's expiry is the loss of an UP link, and the end of TRAINING. -/
theorem linkLost : Obligations.LinkLost := by
  intro p due s noOffers timer
  have clocked := reach_frame s due
  have link : (s.reach due).link p = s.link p := rfl
  refine ⟨fun up => ?_, fun training => ?_⟩
  · have run : exec (.lossTimerExpiry p) s = .next ((s.reach due).linkLoss p .timeout) := by
      show execLossTimerExpiry p s = _
      simp only [execLossTimerExpiry, timer, link, up]
    have g := linkLoss_gone (s := s.reach due) noOffers p .timeout
    have lines := linkLoss_lines (s := s.reach due) p .timeout
    generalize (s.reach due).linkLoss p .timeout = t at run g lines
    obtain ⟨linkT, -, stale, cleared, down, -, selected, told, frame, -⟩ := g
    have clock : t.clock = max s.clock due := frame .clock (by decide)
    refine ⟨t, run, clock, ?_, ?_, ?_, ?_, ?_, stale, down, cleared, selected, told, fun ok slots agree alone l => ?_,
      (clocked.mono (by decide)).trans (frame.mono (by decide))⟩
    · rw [linkT]; rfl
    · rw [linkT]; rfl
    · rw [linkT]; rfl
    · rw [linkT]; rfl
    · rw [linkT]; rfl
    · obtain ⟨left, gone⟩ := lines ok slots agree alone l
      rw [clock]
      exact left.all gone
  · have run : exec (.lossTimerExpiry p) s = .next ((s.reach due).setLink p ((s.link p).lost .timeout)) := by
      show execLossTimerExpiry p s = _
      simp only [execLossTimerExpiry, timer, link, training]
    have here : ((s.reach due).setLink p ((s.link p).lost .timeout)).link p = (s.link p).lost .timeout :=
      State.setLink_link _ p _
    refine ⟨_, run, rfl, by rw [here]; rfl, by rw [here]; rfl, fun q ne => State.setLink_link_ne (s.reach due) _ ne,
      clocked.step (ch := [.clock, .links]) (setLink_frame _ p _)⟩

end Sys2Proof.Machine
end

section
/-! PROOFS. ANNOUNCE: the link brought UP with a full refresh, or refused, and the re-announce of an UP link (R151, R152). -/

namespace Sys2Proof.Machine

-- One theorem after another: side by side they hold the memory of too many stacks.
set_option Elab.async false

/-! ### The full refresh -/

/-- Updates of lamps that have none queued, each lamp once, join the tail in order (R157). -/
theorem foldl_handUpdate_fresh (us : List LampUpdate) {q : List LampUpdate} (once : ((q ++ us).map LampUpdate.lamp).Nodup) :
    us.foldl handUpdate q = q ++ us := by
  induction us generalizing q with
  | nil => simp
  | cons u us ih =>
    have joined : handUpdate q u = q ++ [u] := by
      have other : ∀ v ∈ q, v.lamp ≠ u.lamp := by
        intro v hv e
        rw [List.map_append, List.nodup_append] at once
        exact once.2.2 v.lamp (List.mem_map_of_mem hv) u.lamp (by simp) e
      rw [handUpdate, List.filter_eq_self.2 fun v hv => decide_eq_true (other v hv)]
    rw [List.foldl_cons, joined, ih (by simpa using once)]
    simp

theorem Layout.lamps_nodup (y : Layout) : y.lamps.Nodup := (List.nodup_finRange 72).filter _

/-- Into an empty queue a full refresh puts every lamp of the layout in order (R67). -/
theorem refreshUpdates_queue (s : State) (p : PositionId) :
    (s.refreshUpdates p).foldl handUpdate [] = s.refreshUpdates p := by
  have lamps : (s.refreshUpdates p).map LampUpdate.lamp = (s.position p).layout.lamps := by
    simp [State.refreshUpdates, Function.comp_def]
  exact foldl_handUpdate_fresh _ (by rw [List.nil_append, lamps]; exact Layout.lamps_nodup _)

/-- After a full refresh no update is due (R65, R67). -/
theorem dueUpdates_refreshed {s t : State} {p : PositionId} (refreshed : t.lamps = (s.fullRefresh p).lamps)
    (layout : (t.position p).layout = (s.position p).layout) (shown : ∀ x, t.shownCode p x = s.shownCode p x) :
    t.dueUpdates p = [] := by
  have image : ∀ x ∈ (s.position p).layout.lamps, (t.lamps.get p).image.get x = t.shownCode p x := by
    intro x hx
    have at_ : t.lamps.get p = ⟨recordSent (s.lamps.get p).image (s.refreshUpdates p), false⟩ := by
      rw [refreshed]
      exact Table.get_set_self _ _ _
    rw [at_]
    exact (recordSent_get (fun y => s.shownCode p y) _ _ x).trans ((if_pos hx).trans (shown x).symm)
  have none_ : ((s.position p).layout.lamps.filter fun x => decide (t.shownCode p x ≠ (t.lamps.get p).image.get x)) = [] := by
    refine List.filter_eq_nil_iff.2 fun x hx => ?_
    rw [image x hx]
    simp
  rw [State.dueUpdates, layout, none_]
  split <;> rfl

/-! ### The judgement in TRAINING -/

theorem announcedLayout_taken {kc : Byte} {y : Layout} (low : 1 ≤ kc.toNat) (high : kc.toNat ≤ 64)
    (is : y = if kc.toNat ≤ 32 then .keys32 else .keys64) : announcedLayout kc = some y := by
  rw [announcedLayout, if_neg (by omega), is, if_pos high]
  split <;> rfl

theorem announcedLayout_refused {kc : Byte} (out : kc.toNat = 0 ∨ 64 < kc.toNat) : announcedLayout kc = none := by
  rw [announcedLayout]
  rcases out with zero | above
  · exact if_pos zero
  · rw [if_neg (by omega), if_neg (by omega), if_neg (by omega)]

/-- State `t` is what a taken ANNOUNCE of layout `y` leaves in TRAINING (R152). -/
structure AnnounceTaken (p : PositionId) (y : Layout) (kn : Byte) (s t : State) : Prop where
  link : t.link p = { s.link p with
    state := .up, layout := some y, knobCount := min 2 kn.toNat, attachDue := true, lampQueue := t.refreshUpdates p }
  others : ∀ q, q ≠ p → t.link q = { s.link q with lampQueue := (t.link q).lampQueue }
  stale : (t.lamps.get p).stale = false
  image : ∀ x ∈ y.lamps, (t.lamps.get p).image.get x = t.shownCode p x
  position : t.position p = { s.position p with linkUp := true, layout := y }
  positions : OtherPositions p s t
  raised : Raised [.linkUp p y (min 2 kn.toNat)] s t
  frame : SameExcept [.positions, .links, .lamps, .notices] s t

theorem judgeAnnounce_taken {s : State} {p : PositionId} {kc : Byte} {y : Layout} (kn : Byte) (noOffers : s.offers = [])
    (empty : (s.link p).lampQueue = []) (announced : announcedLayout kc = some y) :
    AnnounceTaken p y kn s (s.judgeAnnounce p kc kn) := by
  obtain ⟨x, hx⟩ : ∃ x : Link, x = { s.link p with
    state := .up, layout := some y, knobCount := min 2 kn.toNat, attachDue := true } := ⟨_, rfl⟩
  obtain ⟨u, hu⟩ : ∃ u, u = (s.setLink p x).setPosition p { s.position p with linkUp := true, layout := y } := ⟨_, rfl⟩
  obtain ⟨v, hv⟩ : ∃ v, v = (u.fullRefresh p).raise (.linkUp p y (min 2 kn.toNat)) := ⟨_, rfl⟩
  have is : s.judgeAnnounce p kc kn = v.finish := by
    rw [hv, hu, hx, State.judgeAnnounce, announced]
    rfl
  have before : SameExcept [.links, .positions] s u := by
    rw [hu]
    exact (setLink_frame s p x).step (setPosition_frame _ p _)
  have positionU : u.position p = { s.position p with linkUp := true, layout := y } := by
    rw [hu]
    exact State.setPosition_position _ p _
  have linkU : u.link p = x := by rw [hu]; exact State.setLink_link s p x
  have linkV : v.link p = { x with lampQueue := u.refreshUpdates p } := by
    rw [hv]
    refine (Table.get_set_self _ _ _).trans ?_
    rw [linkU, show x.lampQueue = [] by rw [hx]; exact empty, refreshUpdates_queue]
  have refreshed : SameExcept [.links, .lamps, .notices] u v := by
    rw [hv]
    intro q hq
    cases q <;> first | rfl | exact absurd (by decide) hq
  have lampsV : v.lamps = (u.fullRefresh p).lamps := by rw [hv]; rfl
  have shownV (z : LampId) : v.shownCode p z = u.shownCode p z := by rw [hv]; rfl
  have positionV (q : PositionId) : v.position q = u.position q := by
    rw [State.position, refreshed .positions (by decide)]
    rfl
  have none_ : v.dueUpdates p = [] := dueUpdates_refreshed lampsV (by rw [positionV]) shownV
  have offersV : v.offers = [] := (refreshed .offers (by decide)).trans ((before .offers (by decide)).trans noOffers)
  have told : Raised [.linkUp p y (min 2 kn.toNat)] u v := by
    rw [hv]
    exact (raise_raised (u.fullRefresh p) _).congr rfl rfl rfl
  have otherLinks (q : PositionId) (ne : q ≠ p) : v.link q = s.link q := by
    rw [hv, hu]
    refine (Table.get_set_ne _ _ ne).trans ?_
    exact State.setLink_link_ne s x ne
  have sent := sendLamps_frame v
  have queues := sendLamps_queues v
  have linkT := sendLamps_link v p
  have staleT : (v.sendLamps.lamps.get p).stale = (v.lamps.get p).stale := by simp only [State.sendLamps, Table.get_ofFn]
  have freshV : (v.lamps.get p).stale = false := by
    rw [lampsV]
    exact congrArg LampImage.stale (Table.get_set_self _ _ _)
  have imageT (z : LampId) (hz : z ∈ y.lamps) : (v.sendLamps.lamps.get p).image.get z = v.sendLamps.shownCode p z := by
    refine sendLamps_image v p (by rw [positionV, positionU]) freshV z ?_
    rw [positionV, positionU]
    exact (List.mem_filter.1 hz).2
  have refreshT : v.sendLamps.refreshUpdates p = u.refreshUpdates p := by rw [hv]; rfl
  have positionT (q : PositionId) : v.sendLamps.position q = v.position q := rfl
  rw [is, finish_no_offers v offersV]
  generalize v.sendLamps = t at sent queues linkT staleT imageT refreshT positionT ⊢
  refine ⟨?_, fun q ne => ?_, staleT.trans freshV, imageT, ?_, fun q ne => ?_, ?_,
    (before.mono (by decide)).trans ((refreshed.mono (by decide)).trans (sent.mono (by decide)))⟩
  · rw [linkT, none_, linkV, hx, refreshT]
    rfl
  · rw [← otherLinks q ne]
    exact queues q
  · rw [positionT, positionV, positionU]
  · rw [positionT, positionV, hu]
    exact State.setPosition_position_ne _ _ ne
  · exact (Raised.after before told).then sent

theorem judgeAnnounce_refused {s : State} {p : PositionId} {kc : Byte} (kn : Byte) (announced : announcedLayout kc = none) :
    s.judgeAnnounce p kc kn = s.raise (.linkReject p kc) := by
  rw [State.judgeAnnounce, announced]

/-- A taken ANNOUNCE seen from a state whose links differ from those it was judged on in this link, and in lamp queues. -/
theorem AnnounceTaken.cameUp {p : PositionId} {y : Layout} {kn : Byte} {s w t : State} (a : AnnounceTaken p y kn w t)
    (timer : (w.link p).lossTimer = (s.link p).lossTimer)
    (others : ∀ q, q ≠ p → w.link q = { s.link q with lampQueue := (w.link q).lampQueue }) : LinkCameUp p y kn s t := by
  have lamps : (t.refreshUpdates p).map LampUpdate.lamp = y.lamps := by
    simp [State.refreshUpdates, Function.comp_def, a.position]
  refine ⟨by rw [a.link], by rw [a.link], by rw [a.link], by rw [a.link]; exact timer, by rw [a.link], by rw [a.link]; exact lamps,
    fun u hu => ?_, a.stale, fun q ne => ?_⟩
  · rw [a.link] at hu
    obtain ⟨x, hx, rfl⟩ := List.mem_map.1 hu
    rw [a.position] at hx
    exact ⟨rfl, a.image x hx⟩
  · rw [a.others q ne, others q ne]

/-! ### The event -/

theorem Link.afterAnnounce_up {x : Link} (up : x.state = .up) : x.afterAnnounce = x := by
  rw [Link.afterAnnounce, up]

theorem Link.afterAnnounce_delivered (x : Link) : x.afterAnnounce = { x with delivered := x.afterAnnounce.delivered } := by
  unfold Link.afterAnnounce
  split <;> rfl

/-- A taken ANNOUNCE leaves its later events delivered (R151). -/
theorem AnnounceTaken.keepsEvents {p : PositionId} {y : Layout} {kn : Byte} {s t : State} (a : AnnounceTaken p y kn s t) :
    t.setLink p (t.link p).afterAnnounce = t := by
  rw [Link.afterAnnounce_up (by rw [a.link]), State.setLink_link_self]

section
variable {s : State} {p : PositionId} {kc kn : Byte}

theorem announce_training (training : (s.link p).state = .training) :
    exec (.announce p kc kn) s = .next (((s.takeDelivered p (.announce kc kn)).judgeAnnounce p kc kn).setLink p
      (((s.takeDelivered p (.announce kc kn)).judgeAnnounce p kc kn).link p).afterAnnounce) := by
  have state : ((s.takeDelivered p (.announce kc kn)).link p).state = .training := by
    rw [State.takeDelivered, State.setLink_link, Link.taken_delivered]
    exact training
  show execAnnounce p kc kn s = _
  simp only [execAnnounce, state]

theorem announce_up (up : (s.link p).state = .up) :
    exec (.announce p kc kn) s =
      .next ((((s.takeDelivered p (.announce kc kn)).linkLoss p .reannounce).judgeAnnounce p kc kn).setLink p
        ((((s.takeDelivered p (.announce kc kn)).linkLoss p .reannounce).judgeAnnounce p kc kn).link p).afterAnnounce) := by
  have state : ((s.takeDelivered p (.announce kc kn)).link p).state = .up := by
    rw [State.takeDelivered, State.setLink_link, Link.taken_delivered]
    exact up
  show execAnnounce p kc kn s = _
  simp only [execAnnounce, state]

end

/-- What the re-announce of the UP link of `p` leaves before its judgement (R152, R153). -/
structure Reannounced (p : PositionId) (s w : State) : Prop where
  state : (w.link p).state = .training
  timer : (w.link p).lossTimer = (s.link p).lossTimer
  queue : (w.link p).lampQueue = []
  layout : (w.link p).layout = (s.link p).layout
  knobCount : (w.link p).knobCount = (s.link p).knobCount
  mics : (w.link p).mics = (s.link p).mics
  others : ∀ q, q ≠ p → w.link q = { s.link q with lampQueue := (w.link q).lampQueue }
  stale : (w.lamps.get p).stale = true
  cleared : PositionCleared p s w
  linkUp : (w.position p).linkUp = false
  positionLayout : (w.position p).layout = (s.position p).layout
  told : s.linesOk → ∃ bs, Raised (bs ++ [.linkDown p .reannounce]) s w
  frame : SameExcept [.lines, .positions, .lamps, .groups, .speakers, .termCount, .directory, .links, .notices] s w
  offers : w.offers = []

theorem linkLoss_reannounced {s : State} (noOffers : s.offers = []) (p : PositionId) (ev : TurretEvent) :
    Reannounced p s ((s.takeDelivered p ev).linkLoss p .reannounce) := by
  have gone := linkLoss_gone (s := s.takeDelivered p ev) noOffers p .reannounce
  have taken := takeDelivered_frame s p ev
  have here : (s.takeDelivered p ev).link p = { s.link p with delivered := ((s.link p).taken ev).delivered } := by
    rw [State.takeDelivered, State.setLink_link, Link.taken_delivered]
  have there (q : PositionId) (ne : q ≠ p) : (s.takeDelivered p ev).link q = s.link q := State.setLink_link_ne s _ ne
  generalize (s.takeDelivered p ev).linkLoss p .reannounce = w at gone ⊢
  obtain ⟨link, others, stale, cleared, linkUp, layout, -, told, frame, offers⟩ := gone
  rw [here] at link
  refine ⟨by rw [link]; rfl, by rw [link]; rfl, by rw [link]; rfl, by rw [link]; rfl, by rw [link]; rfl, by rw [link]; rfl,
    fun q ne => by rw [others q ne, there q ne], stale, cleared.around (taken.mono (by decide)) (fun _ _ => rfl)
      (fun _ _ => rfl) (fun _ => rfl) rfl (fun _ => rfl) rfl rfl, linkUp, layout, fun ok => ?_,
    (taken.mono (by decide)).trans frame, offers⟩
  obtain ⟨bs, raised⟩ := told ok
  exact ⟨bs, .after taken raised⟩

/-- Settles O52: the judgement in TRAINING, and the loss and then the judgement on an UP link. -/
theorem announceJudged : Obligations.AnnounceJudged := by
  intro p kc kn s noOffers
  refine ⟨fun training empty => ?_, fun up => ?_⟩
  · have run := announce_training (kc := kc) (kn := kn) training
    have taken := takeDelivered_frame s p (.announce kc kn)
    have here : (s.takeDelivered p (.announce kc kn)).link p =
        { s.link p with delivered := ((s.link p).taken (.announce kc kn)).delivered } := by
      rw [State.takeDelivered, State.setLink_link, Link.taken_delivered]
    have there (q : PositionId) (ne : q ≠ p) : (s.takeDelivered p (.announce kc kn)).link q = s.link q :=
      State.setLink_link_ne s _ ne
    have offersU : (s.takeDelivered p (.announce kc kn)).offers = [] := noOffers
    have positionU (q : PositionId) : (s.takeDelivered p (.announce kc kn)).position q = s.position q := rfl
    generalize s.takeDelivered p (.announce kc kn) = u at run taken here there offersU positionU
    refine ⟨fun y low high is => ?_, fun out => ?_⟩
    · have a := judgeAnnounce_taken (s := u) (p := p) kn offersU (by rw [here]; exact empty)
        (announcedLayout_taken low high is)
      rw [a.keepsEvents] at run
      refine ⟨_, run, a.cameUp (by rw [here]) fun q ne => by rw [there q ne], by rw [a.link, here], ?_, fun q ne => ?_,
        .after taken a.raised, (taken.mono (by decide)).trans a.frame⟩
      · rw [a.position, positionU]
      · rw [a.positions q ne, positionU]
    · rw [judgeAnnounce_refused kn (announcedLayout_refused out)] at run
      have raised := raise_frame u (.linkReject p kc)
      have linkR (q : PositionId) : (u.raise (.linkReject p kc)).link q = u.link q := rfl
      have told := raise_raised u (.linkReject p kc)
      generalize u.raise (.linkReject p kc) = v at run raised linkR told
      refine ⟨_, run, ?_, fun q ne => ?_, (Raised.after taken told).then (setLink_frame v p _),
        (taken.mono (by decide)).trans ((raised.mono (by decide)).trans ((setLink_frame v p _).mono (by decide)))⟩
      · rw [State.setLink_link, Link.afterAnnounce_delivered, linkR, here]
      · rw [State.setLink_link_ne _ _ ne, linkR, there q ne]
  · have run := announce_up (kc := kc) (kn := kn) up
    have lost := linkLoss_reannounced noOffers p (.announce kc kn)
    generalize (s.takeDelivered p (.announce kc kn)).linkLoss p .reannounce = w at run lost
    refine ⟨fun y low high is => ?_, fun out => ?_⟩
    · have a := judgeAnnounce_taken kn lost.offers lost.queue (announcedLayout_taken low high is)
      rw [a.keepsEvents] at run
      generalize w.judgeAnnounce p kc kn = t at run a
      have slot (q : PositionId) (h : Handset) : t.slot q h = w.slot q h := by
        by_cases e : q = p
        · rw [e, State.slot, a.position]
          cases h <;> rfl
        · rw [State.slot, a.positions q e]
          rfl
      have hook (q : PositionId) (h : Handset) : t.hook q h = w.hook q h := by
        by_cases e : q = p
        · rw [e, State.hook, a.position]
          cases h <;> rfl
        · rw [State.hook, a.positions q e]
          rfl
      refine ⟨t, run, a.cameUp lost.timer lost.others, by rw [a.link]; exact lost.mics,
        lost.cleared.around (SameExcept.refl _ s) slot hook (fun j => by rw [a.position]; rfl) (by rw [a.position])
          (fun n => channel_of_frame a.frame) (a.frame .groups (by decide)) (a.frame .termCount (by decide)),
        by rw [a.position], by rw [a.position], fun ok => ?_, lost.frame.trans (a.frame.mono (by decide))⟩
      obtain ⟨bs, told⟩ := lost.told ok
      exact ⟨bs, by simpa using told.trans a.raised (a.frame .clock (by decide))⟩
    · rw [judgeAnnounce_refused kn (announcedLayout_refused out)] at run
      have raised := raise_frame w (.linkReject p kc)
      have linkR : (w.raise (.linkReject p kc)).link p = w.link p := rfl
      have positionR (q : PositionId) : (w.raise (.linkReject p kc)).position q = w.position q := rfl
      have told := raise_raised w (.linkReject p kc)
      generalize w.raise (.linkReject p kc) = v at run raised linkR told positionR
      have set := setLink_frame v p (v.link p).afterAnnounce
      have linkT : (v.setLink p (v.link p).afterAnnounce).link p =
          { w.link p with delivered := (w.link p).afterAnnounce.delivered } := by
        rw [State.setLink_link, Link.afterAnnounce_delivered, linkR]
      have positionT (q : PositionId) : (v.setLink p (v.link p).afterAnnounce).position q = w.position q := positionR q
      generalize v.setLink p (v.link p).afterAnnounce = t at run set linkT positionT
      have both : SameExcept [.links, .notices] w t := (raised.mono (by decide)).trans (set.mono (by decide))
      refine ⟨t, run, by rw [linkT]; exact lost.state, by rw [linkT]; exact lost.timer, by rw [linkT]; exact lost.queue,
        by rw [linkT]; exact lost.layout, by rw [linkT]; exact lost.knobCount, by rw [both .lamps (by decide)]; exact lost.stale,
        lost.cleared.around (SameExcept.refl _ s) (fun q h => by rw [State.slot, positionT]; rfl)
          (fun q h => by rw [State.hook, positionT]; rfl) (fun j => by rw [positionT]) (by rw [positionT])
          (fun n => channel_of_frame both) (both .groups (by decide)) (both .termCount (by decide)),
        by rw [positionT]; exact lost.linkUp, by rw [positionT]; exact lost.positionLayout, fun ok => ?_,
        lost.frame.trans (both.mono (by decide))⟩
      obtain ⟨bs, before⟩ := lost.told ok
      exact ⟨bs, by simpa using before.trans (told.then set) (both .clock (by decide))⟩

end Sys2Proof.Machine
end

section
/-! PROOFS. MIX APPLY: the installation of a whole plan, channel by channel, and the takes that follow it (R98 to R101). -/

namespace Sys2Proof.Machine

-- One theorem after another: side by side they hold the memory of too many stacks.
set_option Elab.async false

/-! ### One channel written -/

/-- Of the speaker records, channel `n` of `p` alone has changed, to `y`; of the position records the rings. -/
structure ChannelWritten (p : PositionId) (n : ChannelId) (y : Channel) (s t : State) : Prop where
  speakers : t.speakers = (s.setChannel p n y).speakers
  rings : OnlyRings s t

section
variable {s t w : State} {p : PositionId} {n : ChannelId} {x y : Channel}

theorem ChannelWritten.of_set (speakers : w.speakers = s.speakers) (rings : OnlyRings s w) :
    ChannelWritten p n y s (w.setChannel p n y) := by
  refine ⟨?_, rings.trans (.of_positions (setChannel_frame w p n y .positions (by decide)))⟩
  simp only [State.setChannel, State.setSpeaker, State.speaker, speakers]

theorem ChannelWritten.same (s : State) (p : PositionId) (n : ChannelId) : ChannelWritten p n (s.channel p n) s s :=
  ⟨by rw [setChannel_same], .refl s⟩

/-- A second write of the same channel. -/
theorem ChannelWritten.again (first : ChannelWritten p n x s w) (second : ChannelWritten p n y w t) : ChannelWritten p n y s t := by
  refine ⟨second.speakers.trans ?_, first.rings.trans second.rings⟩
  simp only [State.setChannel, State.setSpeaker, State.speaker, first.speakers]
  refine Table.ext_get fun q => ?_
  by_cases e : q = p
  · subst e
    simp only [Table.get_set_self]
    congr 1
    refine Table.ext_get fun m => ?_
    by_cases e' : m = n
    · subst e'
      simp only [Table.get_set_self]
    · simp only [Table.get_set_ne _ _ e']
  · simp only [Table.get_set_ne _ _ e]

theorem ChannelWritten.channel (w : ChannelWritten p n y s t) : t.channel p n = y := (channel_written w.speakers).1

theorem ChannelWritten.others (w : ChannelWritten p n y s t) : OtherChannels p n s t := (channel_written w.speakers).2

/-- What the Speaker Field keeps for `p` beside its channels is as it was. -/
def SameLevels (p : PositionId) (s t : State) : Prop := t.speaker p = { s.speaker p with channels := (t.speaker p).channels }

theorem SameLevels.trans {u : State} (h : SameLevels p s t) (k : SameLevels p t u) : SameLevels p s u := by
  unfold SameLevels at *
  rw [k, h]

theorem ChannelWritten.levels (w : ChannelWritten p n y s t) (q : PositionId) : SameLevels q s t := by
  obtain ⟨elsewhere, -, here⟩ := w.others
  by_cases e : q = p
  · subst e
    unfold SameLevels
    rw [← here]
  · unfold SameLevels
    rw [elsewhere q e]

end

/-! ### Takes -/

/-- Of a channel, a take changes the attach state and the wait reason, and the attach state still goes with the source. -/
structure Channel.TakenAs (x y : Channel) : Prop where
  rest : y = { x with attach := y.attach, waitReason := y.waitReason }
  fits : attachFits x.source x.attach = true → attachFits x.source y.attach = true

theorem Channel.TakenAs.refl (x : Channel) : x.TakenAs x := ⟨rfl, id⟩

theorem Channel.TakenAs.source {x y : Channel} (h : x.TakenAs y) : y.source = x.source := by rw [h.rest]

theorem Channel.TakenAs.trans {x y z : Channel} (h : x.TakenAs y) (k : y.TakenAs z) : x.TakenAs z :=
  ⟨by rw [k.rest, h.rest], fun f => h.source ▸ k.fits (h.source ▸ h.fits f)⟩

theorem sendTake_written (s : State) (p : PositionId) (n : ChannelId) :
    ∃ y, (s.channel p n).TakenAs y ∧ ChannelWritten p n y s (State.sendTake p s n) := by
  have idle : ∃ y, (s.channel p n).TakenAs y ∧ ChannelWritten p n y s s := ⟨_, .refl _, .same s p n⟩
  cases source : (s.channel p n).source with
  | none => simpa only [State.sendTake, source] using idle
  | some x =>
    cases x with
    | group g => simpa only [State.sendTake, source] using idle
    | line l =>
      by_cases waiting : (s.channel p n).attach = .waiting
      · by_cases judged : judgeTake (s.line l) (speakerTake p n (s.channel p n).talkback) = .ok
        · rw [sendTake_taken source waiting judged]
          exact ⟨_, ⟨rfl, fun _ => by rw [source]; rfl⟩,
            .of_set (moveLine_frame s l _ .speakers (by decide)) (moveLine_rings s l _)⟩
        · rw [sendTake_refused source waiting judged rfl]
          exact ⟨{ s.channel p n with waitReason := some (judgeTake (s.line l) (speakerTake p n (s.channel p n).talkback)) },
            ⟨rfl, id⟩, .of_set rfl (.refl s)⟩
      · simpa only [State.sendTake, source, if_neg waiting] using idle

/-- What any takes leave: of the speaker records, channels as a take changes them; of the position records, all but rings. -/
structure TakesOnly (s t : State) : Prop where
  rings : OnlyRings s t
  levels : ∀ p, SameLevels p s t
  channel : ∀ p n, (s.channel p n).TakenAs (t.channel p n)

theorem TakesOnly.refl (s : State) : TakesOnly s s := ⟨.refl s, fun _ => rfl, fun _ _ => .refl _⟩

theorem TakesOnly.trans {s t u : State} (h : TakesOnly s t) (k : TakesOnly t u) : TakesOnly s u :=
  ⟨h.rings.trans k.rings, fun p => (h.levels p).trans (k.levels p), fun p n => (h.channel p n).trans (k.channel p n)⟩

theorem TakesOnly.foldl {α : Type} {f : State → α → State} (each : ∀ s a, TakesOnly s (f s a)) (xs : List α) (s : State) :
    TakesOnly s (xs.foldl f s) := by
  induction xs generalizing s with
  | nil => exact .refl s
  | cons x xs ih => exact (each s x).trans (ih (f s x))

theorem sendTake_takesOnly (s : State) (p : PositionId) (n : ChannelId) : TakesOnly s (State.sendTake p s n) := by
  obtain ⟨y, taken, written⟩ := sendTake_written s p n
  refine ⟨written.rings, written.levels, fun q m => ?_⟩
  by_cases e : (q, m) = (p, n)
  · obtain ⟨rfl, rfl⟩ := Prod.mk.inj e
    rwa [written.channel]
  · rw [sendTake_channel_ne s e]
    exact .refl _

theorem finish_takesOnly (s : State) : TakesOnly s s.finish := by
  have one (u : State) (l : LineId) (q : PositionId) (n : ChannelId) : TakesOnly u (State.attachOne l q u n) := by
    unfold State.attachOne
    split
    · exact sendTake_takesOnly u q n
    · exact .refl u
  have attach (u : State) (l : LineId) : TakesOnly u (u.attachOpportunity l) :=
    .foldl (fun u q => .foldl (fun u n => one u l q n) _ u) _ u
  have taken := TakesOnly.foldl attach s.offers { s with offers := [] }
  unfold State.finish State.takeOffers
  generalize s.offers.foldl State.attachOpportunity { s with offers := [] } = u at taken
  exact ⟨taken.rings, taken.levels, taken.channel⟩

/-! ### The installation -/

/-- A channel after it has taken its plan `c` (R99). -/
def Channel.planned (c : ChannelPlan) (x : Channel) : Channel := if x.source = c.source then x.updated c else .replaced c

theorem takeDown_rings (s : State) (p : PositionId) (n : ChannelId) : OnlyRings s (s.takeDown p n) := by
  unfold State.takeDown
  dsimp only
  split
  · split
    · exact leave_rings s _ p _
    · exact .refl s
  · split
    · exact .of_positions (talkRelease_frame s _ p _ .positions (by decide))
    · exact .refl s
  · exact .refl s

theorem planChannel_written (s : State) (p : PositionId) (n : ChannelId) :
    ChannelWritten p n ((s.channel p n).planned ((s.speaker p).plan.get n)) s (State.planChannel p s n) := by
  unfold State.planChannel Channel.planned
  dsimp only
  split
  · have frame := talkbackUpdate_frame s p n ((s.speaker p).plan.get n).talkback
    exact .of_set (frame .speakers (by decide)) (.of_positions (frame .positions (by decide)))
  · exact .of_set (takeDown_speakers s p n) (takeDown_rings s p n)

/-- A channel after its attach phase: its attach state and wait reason were set, and go with its source (R100). -/
structure Channel.PlacedAs (x y : Channel) : Prop where
  rest : y = { x with attach := y.attach, waitReason := y.waitReason }
  fits : attachFits x.source y.attach = true

theorem attachPhase_written (s : State) (p : PositionId) (n : ChannelId) :
    ∃ y, (s.channel p n).PlacedAs y ∧ ChannelWritten p n y s (State.attachPhase p s n) := by
  unfold State.attachPhase
  dsimp only
  split
  · next l source =>
    split
    · next attached => exact ⟨_, ⟨rfl, by rw [source, attached]; rfl⟩, .same s p n⟩
    · split
      · have first : ChannelWritten p n { s.channel p n with attach := .waiting } s _ := .of_set rfl (.refl s)
        obtain ⟨y, taken, second⟩ := sendTake_written (s.setChannel p n { s.channel p n with attach := .waiting }) p n
        rw [setChannel_channel_self] at taken
        exact ⟨y, ⟨taken.rest, taken.fits (by show attachFits (s.channel p n).source .waiting = true; rw [source]; rfl)⟩,
          first.again second⟩
      · exact ⟨_, ⟨rfl, by rw [source]; rfl⟩, .of_set rfl (.refl s)⟩
  · next g source => exact ⟨_, ⟨rfl, by rw [source]; rfl⟩, .of_set rfl (.refl s)⟩
  · next source => exact ⟨_, ⟨rfl, by rw [source]; rfl⟩, .of_set rfl (.refl s)⟩

/-- What the installation of the plan of `p` has done when its channels stand (R99, R100). -/
structure PlanStands (p : PositionId) (s t : State) : Prop where
  rings : OnlyRings s t
  levels : SameLevels p s t
  channel : ∀ n, ((s.channel p n).planned ((s.speaker p).plan.get n)).PlacedAs (t.channel p n)

theorem plan_stands (s : State) (p : PositionId) :
    PlanStands p s ((ascending 8).foldl (State.attachPhase p) ((ascending 8).foldl (State.planChannel p) s)) := by
  have distinct : (ascending 8).Nodup := List.nodup_finRange 8
  have every (n : ChannelId) : n ∈ ascending 8 := List.mem_finRange n
  obtain ⟨⟨rings, levels⟩, planned⟩ := foldl_each (F := State.planChannel p) (get := fun u n => u.channel p n)
    (R := fun n x y => y = x.planned ((s.speaker p).plan.get n)) (P := fun u => OnlyRings s u ∧ SameLevels p s u)
    (fun u n h => ⟨h.1.trans (planChannel_written u p n).rings, h.2.trans ((planChannel_written u p n).levels p)⟩)
    (fun u n h => (planChannel_written u p n).channel.trans (by rw [h.2]))
    (fun u n m _ ne => (planChannel_written u p n).others.2.1 m ne) (ascending 8) distinct s ⟨.refl s, rfl⟩
  generalize (ascending 8).foldl (State.planChannel p) s = u at rings levels planned ⊢
  obtain ⟨⟨rings', levels'⟩, placed⟩ := foldl_each (F := State.attachPhase p) (get := fun v n => v.channel p n)
    (R := fun _ x y => x.PlacedAs y) (P := fun v => OnlyRings u v ∧ SameLevels p u v)
    (fun v n h => by
      obtain ⟨y, -, written⟩ := attachPhase_written v p n
      exact ⟨h.1.trans written.rings, h.2.trans (written.levels p)⟩)
    (fun v n _ => by
      obtain ⟨y, placed, written⟩ := attachPhase_written v p n
      rwa [written.channel])
    (fun v n m _ ne => by
      obtain ⟨y, -, written⟩ := attachPhase_written v p n
      exact written.others.2.1 m ne) (ascending 8) distinct u ⟨.refl u, rfl⟩
  refine ⟨rings.trans rings', levels.trans levels', fun n => ?_⟩
  have is := (planned n).1 (every n)
  have placed := (placed n).1 (every n)
  rwa [is] at placed

/-- What the installed plan leaves, before the takes that follow the event (R99, R100). -/
structure PlanInstalled (p : PositionId) (s t : State) : Prop where
  rings : OnlyRings s t
  speaker : t.speaker p = { (s.speaker p).installLevels with channels := (t.speaker p).channels }
  channel : ∀ n, ((s.channel p n).planned ((s.speaker p).plan.get n)).PlacedAs (t.channel p n)

theorem installPlan_installed (s : State) (p : PositionId) (old new : Nat) : PlanInstalled p s (s.installPlan p old new) := by
  obtain ⟨rings, levels, channel⟩ := plan_stands s p
  unfold State.installPlan
  dsimp only
  generalize (ascending 8).foldl (State.attachPhase p) ((ascending 8).foldl (State.planChannel p) s) = u at rings levels channel ⊢
  obtain ⟨v, hv⟩ : ∃ v : State, v = { u with termCount := u.termCount + new - old } := ⟨_, rfl⟩
  have speakerV : v.speaker p = u.speaker p := by rw [hv]; rfl
  have positionsV : v.positions = u.positions := by rw [hv]
  rw [← hv]
  have speaker : (v.setSpeaker p (v.speaker p).installLevels).speaker p = (u.speaker p).installLevels := by
    rw [State.setSpeaker_speaker, speakerV]
  refine ⟨rings.trans (.of_positions positionsV), ?_, fun n => ?_⟩
  · rw [speaker, levels]
    rfl
  · have here : (v.setSpeaker p (v.speaker p).installLevels).channel p n = u.channel p n := by
      rw [State.channel, speaker]
      rfl
    rw [here]
    exact channel n

theorem Channel.planned_values (c : ChannelPlan) (x : Channel) : (x.planned c).source = c.source ∧ (x.planned c).level = c.level ∧
    (x.planned c).loudspeaker = c.loudspeaker ∧ (x.planned c).talkback = c.talkback ∧
    (x.source ≠ c.source → (x.planned c).mute = false ∧ (x.planned c).ptt = false ∧ (x.planned c).mustRelease = false) ∧
    (x.source = c.source → (x.planned c).mute = x.mute) := by
  unfold Channel.planned
  split
  · next same => exact ⟨same, rfl, rfl, rfl, fun ne => absurd same ne, fun _ => rfl⟩
  · next other => exact ⟨rfl, rfl, rfl, rfl, fun _ => ⟨rfl, rfl, rfl⟩, fun same => absurd same other⟩

theorem mixData_length (s : State) (p : PositionId) : (s.mixData p).length = 18 := by
  simp [State.mixData, Table.items_eq_ofFn]

/-! ### The request -/

theorem State.admits_iff {s : State} {old new : Nat} :
    s.admits old new = true ↔ new ≤ old ∨ s.termCount + (new - old) ≤ 768 := by
  rw [State.admits, Bool.or_eq_true, decide_eq_true_iff, decide_eq_true_iff]
  rfl

theorem mixApply_admitted {s : State} {p : PositionId} (c : Port)
    (admitted : s.admits (s.speaker p).liveTerms (s.speaker p).planTerms = true) :
    exec (.mixApply c (byteOf p.val)) s = .next ((s.installPlan p (s.speaker p).liveTerms (s.speaker p).planTerms).answer c .ok
      ((s.installPlan p (s.speaker p).liveTerms (s.speaker p).planTerms).mixData p)).finish := by
  show execMixApply c (byteOf p.val) s = _
  simp only [execMixApply, positionArg_byteOf, State.mixApply, admitted, if_true]

theorem mixApply_full {s : State} {p : PositionId} (c : Port)
    (full : s.admits (s.speaker p).liveTerms (s.speaker p).planTerms = false) :
    exec (.mixApply c (byteOf p.val)) s = .next (s.answer c .mixFull []) := by
  show execMixApply c (byteOf p.val) s = _
  simp only [execMixApply, positionArg_byteOf, State.mixApply, full, if_false, Bool.false_eq_true]

/-- Settles O38: the judgement by the term count, then every channel planned and placed, and the takes that follow. -/
theorem mixApplied : Obligations.MixApplied := by
  refine ⟨fun c p s more tight => next_answered (mixApply_full c ?_), fun c p s noOffers room => ?_⟩
  · rw [Bool.eq_false_iff, Ne, State.admits_iff]
    omega
  · have run := mixApply_admitted (s := s) (p := p) c (State.admits_iff.2 room)
    have installed := installPlan_installed s p (s.speaker p).liveTerms (s.speaker p).planTerms
    have frame := installPlan_frame s p (s.speaker p).liveTerms (s.speaker p).planTerms
    have count : (s.installPlan p (s.speaker p).liveTerms (s.speaker p).planTerms).termCount =
        s.termCount + (s.speaker p).planTerms - (s.speaker p).liveTerms := by
      rw [← ledger_count, installPlan_ledger]
    generalize s.installPlan p (s.speaker p).liveTerms (s.speaker p).planTerms = u at run installed frame count
    have answered := answer_frame u c .ok (u.mixData p)
    have here : ((u.answer c .ok (u.mixData p)).speaker p) = u.speaker p := rfl
    have takes := finish_takesOnly (u.answer c .ok (u.mixData p))
    have finished := finish_frame (u.answer c .ok (u.mixData p))
    have queues := finish_queues (u.answer c .ok (u.mixData p))
    have offers : (u.answer c .ok (u.mixData p)).finish.offers = [] := rfl
    have ports : (u.answer c .ok (u.mixData p)).finish.ports = (u.answer c .ok (u.mixData p)).ports := finished .ports (by decide)
    have channelA (n : ChannelId) : (u.answer c .ok (u.mixData p)).channel p n = u.channel p n := rfl
    have length := mixData_length u p
    generalize u.mixData p = data at *
    have answer : Answered c .ok data s (u.answer c .ok data).finish := answered_of_ports (frame .ports (by decide)) ports
    generalize (u.answer c .ok data).finish = t at *
    have levels : t.speaker p = { (s.speaker p).installLevels with channels := (t.speaker p).channels } := by
      rw [takes.levels p, here, installed.speaker]
    refine ⟨t, data, run, answer, length, ?_, fun n => ?_, by rw [levels]; rfl, by rw [levels]; rfl, by rw [levels]; rfl,
      by rw [levels]; rfl, by rw [levels]; rfl, ?_, ?_, ?_⟩
    · rw [finished .termCount (by decide), answered .termCount (by decide), count]
    · have placed := installed.channel n
      have taken := takes.channel p n
      rw [channelA] at taken
      obtain ⟨source, level, loudspeaker, talkback, fresh, kept⟩ := (s.channel p n).planned_values ((s.speaker p).plan.get n)
      generalize (s.channel p n).planned ((s.speaker p).plan.get n) = x at placed source level loudspeaker talkback fresh kept
      have is : t.channel p n = { x with attach := (t.channel p n).attach, waitReason := (t.channel p n).waitReason } := by
        rw [taken.rest, placed.rest]
      have sourceU : (u.channel p n).source = x.source := by rw [placed.rest]
      have fits := taken.fits (by rw [sourceU]; exact placed.fits)
      rw [sourceU] at fits
      generalize t.channel p n = y at is fits
      rw [is]
      exact ⟨source, level, loudspeaker, talkback, fits, fresh, kept⟩
    · exact (installed.rings.trans (.of_positions (answered .positions (by decide)))).trans takes.rings
    · exact (OnlyLampQueues.of_links ((answered .links (by decide)).trans (frame .links (by decide)))).trans queues
    · refine SameExcept.narrow
        (ch := [.lines, .positions, .groups, .speakers, .termCount, .notices, .links, .lamps, .ports, .offers])
        ((frame.mono (by decide)).trans ((answered.mono (by decide)).trans (finished.mono (by decide)))) fun q hq hn => ?_
      cases q <;> first | exact absurd (by decide) hn | exact offers.trans noOffers.symm | exact absurd hq (by decide)

end Sys2Proof.Machine
end

section
/-! PROOFS. What the outputs of a sample period are formed from: microphones, own terms, handset and channel values, the
tone and the single clamp (R72, R91, R92, R106, R107, R114, R116 to R123). -/

namespace Sys2Proof.Machine

-- One theorem after another: side by side they hold the memory of too many stacks.
set_option Elab.async false

/-! ### The clamp -/

theorem clamp_is (x : Int) : clamp x = max (-32768) (min 32767 x) := rfl

theorem clips_iff (x : Int) : clips x = true ↔ x < -32768 ∨ 32767 < x := by
  rw [clips, decide_eq_true_eq, clamp_is]
  omega

theorem toSample_toInt (x : Int) : (toSample x).toInt = max (-32768) (min 32767 x) := by
  rw [toSample, clamp_is, BitVec.toInt_ofInt]
  refine Int.bmod_eq_of_le ?_ ?_ <;> omega

theorem scale_zero (v : Step) : scale 0 v = 0 := by
  rw [scale, Int.zero_mul]
  rfl

/-! ### Microphones and sums -/

section
variable (s : State) (p : PositionId)

theorem micsOf_up (up : (s.link p).state = .up) : s.micsOf p = (s.link p).mics := by rw [State.micsOf, up]

theorem micsOf_down (down : (s.link p).state ≠ .up) : s.micsOf p = ⟨0, 0, 0⟩ := by
  unfold State.micsOf
  split
  · next up => exact absurd up down
  all_goals rfl

theorem handsetMic_heard (h : Handset) : Heard.Mic s p (.handset h) (s.handsetMic p h) := by
  refine ⟨fun down => ?_, fun up => ?_⟩
  · cases h <;> simp [State.handsetMic, micsOf_down s p down]
  · cases h <;> simp [State.handsetMic, micsOf_up s p up]

theorem talkbackMic_heard (n : ChannelId) : Heard.Mic s p (.channel n) (s.talkbackMic p) :=
  ⟨fun down => by simp [State.talkbackMic, micsOf_down s p down], fun up => by simp [State.talkbackMic, micsOf_up s p up]⟩

/-- A talker's microphone, with the hook read the other way round (R91). -/
theorem talkerMic_is (x : Talker) : s.talkerMic x = match x.source with
    | .handset h => if s.hook x.position h = .on then 0 else s.handsetMic x.position h
    | .channel _ => s.talkbackMic x.position := by
  unfold State.talkerMic
  cases x.source with
  | handset h => cases hook : s.hook x.position h <;> simp [hook]
  | channel n => rfl

theorem ownTerm_heard (g : GroupId) : Heard.OwnTerm s g p (s.ownTerm g p) := by
  refine ⟨fun none_ => by rw [State.ownTerm, none_], fun y talks => ?_⟩
  have at_ : y.position = p := by simpa using List.find?_some talks
  rw [State.ownTerm, talks, ← at_]
  exact talkerMic_is s y

/-! ### Handset values -/

theorem handsetOwn_talking {l : LineId} {h : Handset} {y : Party} (party : (s.line l).party? p (.handset h) = some y)
    (talking : y.talking = true) : s.handsetOwn l p h = s.handsetMic p h := by
  simp [State.handsetOwn, Line.talkingParty, party, talking]

theorem handsetOwn_silent {l : LineId} {h : Handset}
    (silent : ∀ y, (s.line l).party? p (.handset h) = some y → y.talking = false) : s.handsetOwn l p h = 0 := by
  cases party : (s.line l).party? p (.handset h) with
  | none => simp [State.handsetOwn, Line.talkingParty, party]
  | some y => simp [State.handsetOwn, Line.talkingParty, party, silent y party]

theorem handsetValue_heard (h : Handset) : Heard.Handset s p h (s.handsetValue p h) := by
  refine ⟨fun empty => ?_, fun l k held => ⟨s.handsetOwn l p h, ?_, fun y => handsetOwn_talking s p, handsetOwn_silent s p⟩,
    fun g k held => ⟨s.ownTerm g p, ?_, ownTerm_heard s p g⟩⟩
  · simp only [State.handsetValue, empty, scale_zero]
  · simp only [State.handsetValue, held, State.far]
  · simp only [State.handsetValue, held, State.groupHeard]

/-! ### Channel values -/

section
variable (n : ChannelId)

theorem suppressed_iff {x : Source} (source : (s.channel p n).source = some x) :
    s.suppressed p n = true ↔ ∃ h k, s.slot p h = some ⟨x, k⟩ := by
  have holds (h : Handset) : holdsSource (s.slot p h) x = true ↔ ∃ k, s.slot p h = some ⟨x, k⟩ := by
    cases slot : s.slot p h with
    | none => simp [holdsSource]
    | some c =>
      obtain ⟨y, k⟩ := c
      simp [holdsSource]
  simp only [State.suppressed, source, Bool.or_eq_true, holds]
  constructor
  · rintro (⟨k, e⟩ | ⟨k, e⟩)
    exacts [⟨.h0, k, e⟩, ⟨.h1, k, e⟩]
  · rintro ⟨h, k, e⟩
    cases h
    exacts [.inl ⟨k, e⟩, .inr ⟨k, e⟩]

theorem not_suppressed {x : Source} (source : (s.channel p n).source = some x) (free : ∀ h k, s.slot p h ≠ some ⟨x, k⟩) :
    s.suppressed p n = false := by
  rw [Bool.eq_false_iff, Ne, suppressed_iff s p n source]
  exact fun ⟨h, k, e⟩ => free h k e

theorem sourceSample_silenced (h : (s.channel p n).mute = true ∨ s.suppressed p n = true) : s.sourceSample p n = 0 := by
  rw [State.sourceSample]
  exact if_pos (by simpa using h)

/-- What an audible channel plays: the far end of an ATTACHED line, and a group to its members (R121). -/
theorem sourceSample_line {l : LineId} (source : (s.channel p n).source = some (.line l)) : s.sourceSample p n =
    if (s.channel p n).mute || s.suppressed p n then 0 else if (s.channel p n).attach = .attached then s.far l else 0 := by
  simp only [State.sourceSample, source]

theorem sourceSample_group {g : GroupId} (source : (s.channel p n).source = some (.group g)) : s.sourceSample p n =
    if (s.channel p n).mute || s.suppressed p n then 0
    else if ((s.group g).member? p).isSome then s.groupHeard g p else 0 := by
  simp only [State.sourceSample, source]

theorem sourceSample_heard : Heard.Channel s p n (s.sourceSample p n) := by
  refine ⟨?_, fun x h k source held => ?_, fun l source loose => ?_, fun l source attached audible free => ?_,
    fun g source stranger => ?_, fun g source member audible free => ⟨s.ownTerm g p, ?_, ownTerm_heard s p g⟩⟩
  · rintro (source | mute)
    · simp only [State.sourceSample, source, ite_self]
    · exact sourceSample_silenced s p n (.inl mute)
  · exact sourceSample_silenced s p n (.inr ((suppressed_iff s p n source).2 ⟨h, k, held⟩))
  · rw [sourceSample_line s p n source, if_neg loose, ite_self]
  · rw [sourceSample_line s p n source, audible, not_suppressed s p n source free, if_pos attached]
    rfl
  · rw [sourceSample_group s p n source, stranger]
    simp
  · have isMember : ((s.group g).member? p).isSome = true := Option.isSome_iff_ne_none.2 member
    rw [sourceSample_group s p n source, audible, not_suppressed s p n source free, if_pos isMember]
    rfl

/-! ### Ducking -/

theorem inConversation_iff : s.inConversation p = true ↔ ∃ h, s.hook p h = .off ∧ s.slot p h ≠ none := by
  simp only [State.inConversation, Bool.or_eq_true, Bool.and_eq_true, decide_eq_true_eq, Option.isSome_iff_ne_none]
  constructor
  · rintro (h | h)
    exacts [⟨.h0, h⟩, ⟨.h1, h⟩]
  · rintro ⟨h, e⟩
    cases h
    exacts [.inl e, .inr e]

theorem duckedStep_val {level : Step} (duck : Fin 13) (sounds : level.val ≠ 0) :
    (duckedStep level duck).val = max 1 (level.val - duck.val) := by
  rw [duckedStep, if_neg fun e => sounds (by rw [e]; rfl)]
  split
  · show 1 = _
    omega
  · show level.val - duck.val = _
    omega

theorem effectiveStep_is :
    ((∀ h, s.hook p h = .on ∨ s.slot p h = none) ∨ (s.channel p n).level.val = 0 →
      s.effectiveStep p n = (s.channel p n).level) ∧
    ((∃ h, s.hook p h = .off ∧ s.slot p h ≠ none) → (s.channel p n).level.val ≠ 0 →
      (s.effectiveStep p n).val = max 1 ((s.channel p n).level.val - (s.speaker p).duck.val)) := by
  unfold State.effectiveStep
  refine ⟨?_, fun talks sounds => ?_⟩
  · rintro (quiet | zero)
    · refine if_neg fun talks => ?_
      obtain ⟨h, off, filled⟩ := (inConversation_iff s p).1 talks
      rcases quiet h with on | empty
      · rw [on] at off
        cases off
      · exact filled empty
    · have level : (s.channel p n).level = 0 := Fin.ext zero
      rw [level, duckedStep, if_pos rfl, ite_self]
  · rw [if_pos ((inConversation_iff s p).2 talks)]
    exact duckedStep_val _ sounds

end

/-! ### Loudspeakers -/

theorem toneSample_heard (x : Position) : Heard.Tone x x.toneSample := by
  refine ⟨fun silent => ?_, fun half on is => ?_⟩
  · unfold Position.toneSample
    split
    · next on => exact absurd on silent
    all_goals rfl
  · have same : x.ringerTone.halfPeriod = half := by
      rw [is]
      cases x.ringerTone <;> rfl
    simp only [Position.toneSample, on, same]
    rfl

/-- A sum over the chosen entries of a list, taken over all of them. -/
theorem sum_filter_map {α : Type} (c : α → Prop) [DecidablePred c] (f : α → Int) (xs : List α) :
    ((xs.filter fun x => decide (c x)).map f).sum = (xs.map fun x => if c x then f x else 0).sum := by
  induction xs with
  | nil => rfl
  | cons x xs ih => by_cases h : c x <;> simp [h, ih]

theorem loudspeakerValue_is (ls : Loudspeaker) : s.loudspeakerValue p ls =
    scale (((ascending 8).map fun n =>
        if (s.channel p n).loudspeaker = ls then scale (s.sourceSample p n) (s.effectiveStep p n) else 0).sum +
      if ls = .ls0 then scale (s.position p).toneSample (s.position p).ringerStep else 0) ((s.speaker p).step ls) := by
  have term : s.ringerTerm p ls = if ls = .ls0 then scale (s.position p).toneSample (s.position p).ringerStep else 0 := by
    cases ls <;> rfl
  rw [State.loudspeakerValue, term, State.channelSum, sum_filter_map]
  rfl

end

end Sys2Proof.Machine
end

section
/-! PROOFS. The sample period: every output formed from the state at its start, the clip flags and their notices, and the
frames sent (R113, R118, R127, R156, R161). -/

namespace Sys2Proof.Machine

-- One theorem after another: side by side they hold the memory of too many stacks.
set_option Elab.async false

/-- The period before its notices. -/
def State.formed (s : State) : State :=
  { s with
    clock := s.clock + 1
    lineClip := Table.ofFn s.lineClipAfter
    positionClip := Table.ofFn s.positionClipAfter
    positions := s.positions.map Position.advanceTone
    turretOut := Table.ofFn s.outboundTurret
    links := s.links.map Link.afterPeriod
    highwayOut := Table.ofFn s.outboundHighway }

section
variable (s : State)

theorem period_is : s.period = s.clipNotices.foldl State.raise s.formed := rfl

theorem formed_frame :
    SameExcept [.clock, .lineClip, .positionClip, .positions, .turretOut, .links, .highwayOut] s s.formed := by
  intro q hq
  cases q <;> first | rfl | exact absurd (by decide) hq

theorem formed_lineClip (l : LineId) : s.formed.lineClip.get l = (s.lineClip.get l || clips (s.localSum l)) :=
  Table.get_ofFn _ l

theorem formed_positionClip (p : PositionId) (o : PositionOutput) :
    (s.formed.positionClip.get p).get o = ((s.positionClip.get p).get o || clips (s.outputValue p o)) := by
  have at_ : s.formed.positionClip.get p = s.positionClipAfter p := Table.get_ofFn _ p
  rw [at_]
  cases o <;> rfl

theorem formed_position (p : PositionId) : s.formed.position p = (s.position p).advanceTone := Table.get_map _ _ p

theorem formed_link (p : PositionId) : s.formed.link p = (s.link p).afterPeriod := Table.get_map _ _ p

theorem formed_turretOut (p : PositionId) : s.formed.turretOut.get p = s.outboundTurret p := Table.get_ofFn _ p

theorem formed_highwayOut (l : LineId) : s.formed.highwayOut.get l = s.outboundHighway l := Table.get_ofFn _ l

/-- A flag that goes from clear to set is one whose value clips. -/
theorem newly_set (was clipped : Bool) : ((was || clipped) && !was) = (clipped && !was) := by
  cases was <;> cases clipped <;> rfl

/-- The notices of the period are those of the flags newly set, lines first (R127). -/
theorem clipNotices_is : s.clipNotices =
    ((ascending 160).filter fun l => s.formed.lineClip.get l && !s.lineClip.get l).map NoticeBody.clipLine ++
      (ascending 32).flatMap fun p =>
        ([.h0, .h1, .ls0, .ls1].filter fun o => (s.formed.positionClip.get p).get o && !(s.positionClip.get p).get o).map
          (NoticeBody.clipPosition p) := by
  simp only [formed_lineClip, formed_positionClip, newly_set]
  rfl

theorem advanceTone_is (x : Position) : x.advanceTone =
    { x with ringer := { x.ringer with tonePhase := x.ringer.tonePhase + if x.ringerCondition = .on then 1 else 0 } } := by
  cases on : x.ringerCondition <;> simp only [Position.advanceTone, on] <;> rfl

theorem outboundTurret_up {p : PositionId} (up : (s.link p).state = .up) :
    s.outboundTurret p = ⟨.up, s.formedSamples p, (s.link p).lampQueue.take 2⟩ := by rw [State.outboundTurret, up]

theorem outboundTurret_down {p : PositionId} (down : (s.link p).state ≠ .up) :
    s.outboundTurret p = ⟨(s.link p).state, ⟨0, 0, 0, 0⟩, []⟩ := by
  unfold State.outboundTurret
  split
  · next up => exact absurd up down
  · next training => rw [training]
  · next off => rw [off]

theorem afterPeriod_queue_up {x : Link} (up : x.state = .up) : x.afterPeriod.lampQueue = x.lampQueue.drop 2 := by
  simp only [Link.afterPeriod, up]

theorem afterPeriod_queue_down {x : Link} (down : x.state ≠ .up) : x.afterPeriod.lampQueue = x.lampQueue := by
  cases state : x.state
  case up => exact absurd state down
  all_goals simp only [Link.afterPeriod, state]

theorem loudspeakerSample_off {p : PositionId} (ls : Loudspeaker) (off : s.quiet = .off) :
    (s.loudspeakerSample p ls).toInt = max (-32768) (min 32767 (s.loudspeakerValue p ls)) := by
  rw [State.loudspeakerSample, if_pos off, toSample_toInt]

theorem loudspeakerSample_quiet {p : PositionId} (ls : Loudspeaker) (quiet : s.quiet ≠ .off) :
    s.loudspeakerSample p ls = 0 := if_neg quiet

end

/-- Settles O44: the values by their tables, then what the period makes of each part from them. -/
theorem samplePeriodOutputs : Obligations.SamplePeriodOutputs := by
  intro s
  have raised := foldl_raise_raised s.clipNotices s.formed
  have noticed := foldl_raise_frame s.clipNotices s.formed
  have formed := formed_frame s
  have run : exec .samplePeriod s = .next (s.clipNotices.foldl State.raise s.formed) :=
    congrArg Host.Outcome.next (period_is s)
  have is := clipNotices_is s
  have positionT (p : PositionId) : (s.clipNotices.foldl State.raise s.formed).position p = s.formed.position p := by
    rw [State.position, noticed .positions (by decide)]
    rfl
  have linkT (p : PositionId) : (s.clipNotices.foldl State.raise s.formed).link p = s.formed.link p := by
    rw [State.link, noticed .links (by decide)]
    rfl
  generalize s.clipNotices.foldl State.raise s.formed = t at raised noticed run positionT linkT
  have lineClip : t.lineClip = s.formed.lineClip := noticed .lineClip (by decide)
  have positionClip : t.positionClip = s.formed.positionClip := noticed .positionClip (by decide)
  have turretOut : t.turretOut = s.formed.turretOut := noticed .turretOut (by decide)
  have highwayOut : t.highwayOut = s.formed.highwayOut := noticed .highwayOut (by decide)
  refine ⟨t, run, noticed .clock (by decide), fun p h => handsetMic_heard s p h, fun p n => talkbackMic_heard s p n, fun l => rfl,
    fun g => ?_, fun p h => handsetValue_heard s p h, fun p n => sourceSample_heard s p n, fun p n => effectiveStep_is s p n,
    fun p => toneSample_heard _, fun p ls => loudspeakerValue_is s p ls, fun l => ?_, fun p o => ?_, ?_, fun p => ?_,
    fun p up => ?_, fun p down => ?_, (formed.mono (by decide)).trans (noticed.mono (by decide))⟩
  · exact congrArg (fun mic => if (s.group g).defined then ((s.group g).talkers.map mic).sum else 0)
      (funext fun x => talkerMic_is s x)
  · rw [highwayOut, formed_highwayOut, lineClip, formed_lineClip, Bool.or_eq_true, clips_iff]
    exact ⟨rfl, rfl, rfl, rfl, toSample_toInt _, Iff.rfl⟩
  · rw [positionClip, formed_positionClip, Bool.or_eq_true, clips_iff]
    cases o <;> exact Iff.rfl
  · rw [lineClip, positionClip, ← is]
    exact .after formed raised
  · rw [positionT, formed_position, advanceTone_is]
  · rw [turretOut, formed_turretOut, outboundTurret_up s up, linkT, formed_link, afterPeriod_queue_up up]
    exact ⟨rfl, toSample_toInt _, toSample_toInt _,
      fun off => ⟨loudspeakerSample_off s .ls0 off, loudspeakerSample_off s .ls1 off⟩,
      fun quiet => ⟨loudspeakerSample_quiet s .ls0 quiet, loudspeakerSample_quiet s .ls1 quiet⟩, List.take_append_drop 2 _, rfl⟩
  · rw [turretOut, formed_turretOut, outboundTurret_down s down, linkT, formed_link]
    exact ⟨rfl, afterPeriod_queue_down down⟩

end Sys2Proof.Machine
end
